-- ==== Sys2Proof/Word.lean ====
section
/-! DEFINITION. The word types of the SC420: octets, the multi-octet fields of frames, messages and
records, and sets of positions (00_scope.md, section 5). -/

namespace Sys2Proof

/-- An octet of a frame, message, table entry or store page. -/
abbrev Octet := BitVec 8

/-- A two-octet field: a power or loss as a count of 0.01 dB, a drive level, an edition, a count. -/
abbrev Word16 := BitVec 16

/-- A four-octet field: uptime, a running number. -/
abbrev Word32 := BitVec 32

/-- A set of positions, position n in bit n (00_scope.md section 5.2, chapter 1 section 1.1). -/
abbrev PosSet := BitVec 32

end Sys2Proof
end

