-- ==== Sys2Proof/Syntax.lean ====
section
/-! DEFINITION. The commands of the SC420: one constructor of `Instr` for each row of
spec/opcode_table.json, with the operands that come from outside the part, and the small name types
those operands use. -/

namespace Sys2Proof

/-- West or East: a side, a line port, a transmitter (00_scope.md section 2.2). -/
inductive Side where
  | west
  | east
deriving DecidableEq, Repr

/-- The other side of the site. -/
def Side.other : Side → Side
  | .west => .east
  | .east => .west

/-- The cause codes of R48, in the order of their codes 0 to 19. `other` holds a code outside the
table, which only a lock copy read from the store can bring (R182, "not locked"). -/
inductive Cause where
  | none
  | loss
  | withdrawn
  | neighbour
  | farDark
  | darkInput
  | tripLine
  | notice
  | overLevel
  | mismatch
  | probeTimeout
  | stepTimeout
  | hold
  | manual
  | ordered
  | budget
  | cut
  | reset
  | backOff
  | defer
  | other (code : Octet)
deriving DecidableEq, Repr, Inhabited

/-- What a valid arrival hands on inside the part (R11): the far report to the side controller, the
changed route view to the lead (R94, R95), the hold set to the Hold Unit, the slot to the Message
Engine. Their order is open (R151, section 10.3). -/
inductive HandOn where
  | report
  | view
  | holdSet
  | slot
deriving DecidableEq, Repr

/-- What the spec leaves to the moment inside one command, given from outside with the command:
which side takes an event handed to both first, whether what is left of a side's running retry timer
is longer than the restart interval (R149), the order of an arrival's hand-overs, whether a record joins
before or after the write of the first begins, and whether the store acknowledges each access begun (a
list read in turn; after its end the store acknowledges). -/
structure Choices where
  eastFirst : Bool
  westLonger : Bool
  eastLonger : Bool
  handOn : List HandOn
  lateStart : Bool
  acks : List Bool
deriving DecidableEq, Repr

/-- The levels the part samples at power-on and pin reset: the position straps (R25), the trip lines
(R63) and the HOLD line (R137), asserted or not. -/
structure PinLevels where
  straps : BitVec 5
  tripWest : Bool
  tripEast : Bool
  hold : Bool
deriving DecidableEq, Repr

/-- Where a request was taken: from the line or from the local port (R163, R164). -/
inductive Via where
  | line
  | localPort
deriving DecidableEq, Repr

/-- A request taken at this position: the message fields beside its kind (section 7.1). The source of
a request from the local port is replaced by the own position (R161). -/
structure Request where
  via : Via
  source : Octet
  tag : Octet
  len : Octet
  body : List Octet
deriving DecidableEq, Repr

/-- What an interrupted or unacknowledged page write leaves in the store, octet by octet of the
write: `none` the octet as written, `some v` another value (R194, R188). Octets beyond the list are
as written. A residue that these rules exclude is none (log 25). -/
abbrev Residue := List (Option Octet)

/-- The commands, one constructor for each row of spec/opcode_table.json, in the table's order. -/
inductive Instr where
  /-- POWER_ON -/
  | powerOn (pins : PinLevels) (left : Residue) (ch : Choices)
  /-- PIN_RESET -/
  | pinReset (pins : PinLevels) (left : Residue) (ch : Choices)
  /-- ARRIVAL -/
  | arrival (port : Side) (octets : List Octet) (ch : Choices)
  /-- LOSS_TIMER_EXPIRY -/
  | lossTimerExpiry (port : Side) (ch : Choices)
  /-- FRAME_TIMER_EXPIRY -/
  | frameTimerExpiry (tx : Side)
  /-- DEPARTURE -/
  | departure (tx : Side)
  /-- ROUTE_RESET -/
  | routeReset (ch : Choices)
  /-- LOADER_START_AFTER_DRAIN -/
  | loaderStartAfterDrain (ch : Choices)
  /-- LOCAL_FRAME_RECEIVED: the octets that arrive on LRXD -/
  | localFrameReceived (octets : List Octet) (ch : Choices)
  /-- LOCAL_RX_TIMEOUT -/
  | localRxTimeout
  /-- LOCAL_STOP_BIT_ERROR -/
  | localStopBitError
  /-- LOCAL_TRANSMIT -/
  | localTransmit
  /-- LOCAL_RATE_CHANGE -/
  | localRateChange
  /-- UNKNOWN_REQUEST -/
  | unknownRequest (kind : Octet) (req : Request)
  /-- STATUS_READ -/
  | statusRead (req : Request)
  /-- SIDE_READ -/
  | sideRead (req : Request)
  /-- MONITOR_READ -/
  | monitorRead (req : Request)
  /-- ENTRY_READ -/
  | entryRead (req : Request)
  /-- ENTRY_WRITE -/
  | entryWrite (req : Request) (ch : Choices)
  /-- TABLES_CHECK -/
  | tablesCheck (req : Request) (ch : Choices)
  /-- HOLD_SET -/
  | holdSet (req : Request) (ch : Choices)
  /-- HOLD_CLEAR -/
  | holdClear (req : Request) (ch : Choices)
  /-- SIDE_SHUT -/
  | sideShut (req : Request) (ch : Choices)
  /-- SIDE_LOCK -/
  | sideLock (req : Request) (ch : Choices)
  /-- UNLOCK_ARM -/
  | unlockArm (req : Request)
  /-- UNLOCK_CONFIRM -/
  | unlockConfirm (req : Request) (ch : Choices)
  /-- STORE_COMMIT -/
  | storeCommit (req : Request) (ch : Choices)
  /-- STORE_RELOAD -/
  | storeReload (req : Request) (ch : Choices)
  /-- LOG_READ -/
  | logRead (req : Request) (ch : Choices)
  /-- PART_RESET -/
  | partReset (req : Request)
  /-- TRIP_LINE_ASSERT -/
  | tripLineAssert (side : Side) (ch : Choices)
  /-- TRIP_LINE_RELEASE -/
  | tripLineRelease (side : Side)
  /-- HOLD_LINE_ASSERT -/
  | holdLineAssert (ch : Choices)
  /-- HOLD_LINE_RELEASE -/
  | holdLineRelease (ch : Choices)
  /-- RETRY_TIMER_EXPIRY -/
  | retryTimerExpiry (side : Side)
  /-- SETTLE_TIMER_EXPIRY -/
  | settleTimerExpiry (side : Side)
  /-- PROBE_TIMER_EXPIRY -/
  | probeTimerExpiry (side : Side) (ch : Choices)
  /-- STEP_WINDOW_EXPIRY -/
  | stepWindowExpiry (side : Side) (ch : Choices)
  /-- PROVING_TIMER_EXPIRY -/
  | provingTimerExpiry (side : Side)
  /-- ARMING_EXPIRY -/
  | armingExpiry (side : Side)
  /-- UPTIME_SECOND -/
  | uptimeSecond
  /-- FAILURE_LIST_AGEING -/
  | failureListAgeing (side : Side)
  /-- MONITOR_SCAN_RESULT: the reading of the input whose turn it is -/
  | monitorScanResult (reading : Word16) (ch : Choices)
  /-- SCAN_COMPLETE -/
  | scanComplete (ch : Choices)
  /-- EXTINCTION_FAULT: the channel whose limit timer expires -/
  | extinctionFault (channel : Fin 8) (ch : Choices)
  /-- STEPDOWN_WAIT_EXPIRY -/
  | stepdownWaitExpiry (side : Side) (ch : Choices)
  /-- PAGE_TIMER_EXPIRY: whether the store acknowledges -/
  | pageTimerExpiry (acked : Bool)
  /-- LOADER_READ_COMPLETE -/
  | loaderReadComplete (ch : Choices)
  /-- COMMIT_PAGE_COMPLETE -/
  | commitPageComplete (ch : Choices)
  /-- RECORD_WRITE_COMPLETE -/
  | recordWriteComplete (ch : Choices)
  /-- LOG_READ_COMPLETE -/
  | logReadComplete (ch : Choices)
  /-- POWER_LOSS -/
  | powerLoss (left : Residue)
  /-- ADDRESS_REPEAT: whether the store acknowledges, and what the write left where it does not -/
  | addressRepeat (acked : Bool) (left : Residue) (ch : Choices)
deriving DecidableEq, Repr

end Sys2Proof
end

