-- ==== Sys2Proof/WellFormed.lean ====
section
/-! DEFINITION. Which commands are well formed: operands of the lengths the spec gives them. -/

namespace Sys2Proof

/-- A request carries the 23 body octets of its slot (section 7.1). -/
def Request.wf (r : Request) : Bool := r.body.length == 23

/-- The kind of a request that section 7.1 does not define: 17..111 or 116..127. -/
def undefinedRequestKind (k : Octet) : Bool :=
  (17 ≤ k.toNat && k.toNat ≤ 111) || (116 ≤ k.toNat && k.toNat ≤ 127)

/-- What is left of a page write covers at most the 64 octets of a page (R184). -/
def residueWf (l : Residue) : Bool := l.length ≤ 64

/-- The well-formedness check. -/
def Instr.wf : Instr → Bool
  | .powerOn _ l _ => residueWf l
  | .pinReset _ l _ => residueWf l
  | .unknownRequest k r => undefinedRequestKind k && r.wf
  | .statusRead r => r.wf
  | .sideRead r => r.wf
  | .monitorRead r => r.wf
  | .entryRead r => r.wf
  | .entryWrite r _ => r.wf
  | .tablesCheck r _ => r.wf
  | .holdSet r _ => r.wf
  | .holdClear r _ => r.wf
  | .sideShut r _ => r.wf
  | .sideLock r _ => r.wf
  | .unlockArm r => r.wf
  | .unlockConfirm r _ => r.wf
  | .storeCommit r _ => r.wf
  | .storeReload r _ => r.wf
  | .logRead r _ => r.wf
  | .partReset r => r.wf
  | .powerLoss l => residueWf l
  | .addressRepeat _ l _ => residueWf l
  | .arrival _ _ _ => true
  | .lossTimerExpiry _ _ => true
  | .frameTimerExpiry _ => true
  | .departure _ => true
  | .routeReset _ => true
  | .loaderStartAfterDrain _ => true
  | .localFrameReceived _ _ => true
  | .localRxTimeout => true
  | .localStopBitError => true
  | .localTransmit => true
  | .localRateChange => true
  | .tripLineAssert _ _ => true
  | .tripLineRelease _ => true
  | .holdLineAssert _ => true
  | .holdLineRelease _ => true
  | .retryTimerExpiry _ => true
  | .settleTimerExpiry _ => true
  | .probeTimerExpiry _ _ => true
  | .stepWindowExpiry _ _ => true
  | .provingTimerExpiry _ => true
  | .armingExpiry _ => true
  | .uptimeSecond => true
  | .failureListAgeing _ => true
  | .monitorScanResult _ _ => true
  | .scanComplete _ => true
  | .extinctionFault _ _ => true
  | .stepdownWaitExpiry _ _ => true
  | .pageTimerExpiry _ => true
  | .loaderReadComplete _ => true
  | .commitPageComplete _ => true
  | .recordWriteComplete _ => true
  | .logReadComplete _ => true

end Sys2Proof
end

