-- ==== Sys2Proof/Config.lean ====
section
/-! DEFINITION. The fixed sizes the spec states once, and the free values: constants with no body,
for the values the spec leaves open. Nothing can be proved about a free value, so a theorem holds
for every value of it. Each is applied to the counter `State.free`, which advances at each use. -/

namespace Sys2Proof.Config

/-- The uptime that follows the largest 32-bit uptime (log 12). -/
opaque uptimeAfterMax : Nat → Word32

/-- An octet of a response field whose subject is absent and whose value the spec does not state
(log 13). -/
opaque absentOctet : Nat → Octet

/-- The reason written by a move that R48 says writes its cause and whose cause no rule names
(log 14). -/
opaque unstatedCause : Nat → Cause

/-- The "last judged reading" of an extinction check that judged none (log 15). -/
opaque unjudgedReading : Nat → Word16

/-- Where the part of the second since the last uptime second decides the whole seconds left to an
arming's expiry, whether the larger of the two possible values stands (log 16). -/
opaque armingRoundsUp : Nat → Bool

/-- Which of several trip log slots with the same highest running number counts as newest
(log 18). -/
opaque newestAmongEqual : Nat → Nat

/-- The advertised probe level, launch limit, probe duration and AGREED-MODE of a side that reports without a span
entry (log 42). -/
opaque spanlessAdvert : Nat → Word16 × Word16 × Octet × Bool

/-- The measured input of a side that reports without an RX INPUT monitor (log 42). -/
opaque unmeasuredInput : Nat → Word16

/-- What an octet of the store reads as that nothing has written (log 3). -/
def erasedOctet : Octet := 0xFF

/-- Capacity of an outbound queue (section 7.3). -/
def outQueueSize : Nat := 8

/-- Capacity of the local delivery queue (R162). -/
def deliverySize : Nat := 16

/-- Capacity of the record queue (R190). -/
def recordQueueSize : Nat := 4

/-- The image length of the store image header (section 9.1). -/
def imageLength : Nat := 692

end Sys2Proof.Config
end

