-- ==== Sys2Proof/Machine/State.lean ====
section
/-! DEFINITION. The state of the SC420 as plain data: every piece of state the spec names (INVENTORY.md
lists each with its rule and reset value), the queue of waiting commands, and the model's own fields
`choices` and `free`. -/

namespace Sys2Proof.Machine

/-- A machine fault. The spec names no condition under which the part stops: a store fault, an
extinction fault, a corrupt frame and a refused request are all states it goes on from. So there is
no constructor, and no command ends in a fault. -/
inductive Fault where
deriving DecidableEq, Repr

/-- A refusal of the model. -/
inductive Refusal where
  /-- Raised by an arm of `exec` whose row has no meaning yet; no arm raises it. Safe: nothing is
  claimed of such a row. -/
  | notModelled (mnemonic : String)
deriving DecidableEq, Repr

/-! ### Pairs indexed by side -/

/-- One value for the West and one for the East. -/
structure Sides (α : Type) where
  west : α
  east : α
deriving DecidableEq, Repr

/-- The value of one side. -/
def Sides.get {α : Type} (p : Sides α) : Side → α
  | .west => p.west
  | .east => p.east

/-- The pair with one side's value replaced. -/
def Sides.set {α : Type} (p : Sides α) (sd : Side) (a : α) : Sides α :=
  match sd with
  | .west => { p with west := a }
  | .east => { p with east := a }

/-! ### Frames and messages (sections 1.1 and 7.1) -/

/-- The adjacent report, octets 7 to 18 of a frame, kept as received (R4). -/
structure Report where
  sender : Octet
  state : Octet
  flags : Octet
  measured : Word16
  probe : Word16
  launch : Word16
  duration : Octet
  edition : Word16
deriving DecidableEq, Repr

/-- The 28 octets of a message slot or local message; the body has its 23 octets whatever the body
length says (R152). -/
structure Message where
  kind : Octet
  dest : Octet
  source : Octet
  tag : Octet
  len : Octet
  body : List Octet
deriving DecidableEq, Repr

/-- The fields of a service frame beside its format and check code. -/
structure Frame where
  origin : Octet
  sequence : Octet
  holdSet : PosSet
  report : Report
  spans : List Octet
  slot : Message
deriving DecidableEq, Repr

/-! ### Line units (chapter 1) -/

/-- Port condition (R8). -/
inductive PortCondition where
  | clear
  | degraded
  | withdrawn
deriving DecidableEq, Repr

/-- The port record (section 1.2). The last valid adjacent report is also the side's far view (R49). -/
structure PortRecord where
  score : Nat
  condition : PortCondition
  loss : Bool
  neighbour : Bool
  last : Option (Octet × Octet)
  report : Option Report
  spans : List Octet
  holdSet : PosSet
  lossTimer : Option Nat
deriving DecidableEq, Repr

/-- A departure waiting in a transit slot (R13): a valid arrival to forward, its slot as the Message
Engine left it, or a frame to originate. -/
inductive Departure where
  | forwarded (f : Frame)
  | originated
deriving DecidableEq, Repr

/-- A transmitter: its 500 µs frame timer, the originated-frame counter of its direction, the transit
slot, and the frame being sent or last sent. -/
structure Transmitter where
  frameTimer : Bool
  counter : Octet
  transit : List Departure
  line : Option (List Octet)
deriving DecidableEq, Repr

/-! ### Table Memory (chapter 2) -/

/-- The six working tables, each entry octet for octet. -/
structure Tables where
  header : List Octet
  spans : List (List Octet)
  pumps : List (List Octet)
  monitors : List (List Octet)
  accepts : List (List Octet)
  site : List Octet
deriving DecidableEq, Repr

/-- A failed check: the entry reported and the check code (R42). -/
structure CheckFailure where
  table : Octet
  index : Octet
  code : Octet
deriving DecidableEq, Repr

/-- Table Memory: the working tables, the tables validated flag, the load check result. -/
structure TableMem where
  tables : Tables
  validated : Bool
  loadCheck : Option CheckFailure
deriving DecidableEq, Repr

/-! ### Side records (chapter 3) -/

/-- The ten side states (section 1.1). -/
inductive SideState where
  | absent
  | unconfigured
  | lockout
  | hold
  | dark
  | listen
  | probe
  | ramp
  | run
  | stepdown
deriving DecidableEq, Repr

/-- Agreement state (section 3.1). -/
inductive AgreementState where
  | none
  | settling
  | settled
  | refused
deriving DecidableEq, Repr

/-- The advertisement of a far report (R85). -/
structure Advert where
  probe : Word16
  launch : Word16
  duration : Octet
  edition : Word16
  agreedMode : Bool
deriving DecidableEq, Repr

/-- The agreement record. -/
structure Agreement where
  state : AgreementState
  far : Option Advert
  count : Nat
  probe : Word16
  launch : Word16
  duration : Octet
  mismatch : Bool
deriving DecidableEq, Repr

/-- An arming with its running 10 s expiry timer; `since` is the uptime at which the timer started. -/
structure Arming where
  number : Word16
  source : Octet
  since : Word32
deriving DecidableEq, Repr

/-- The lockout record (section 8.1). -/
structure LockRecord where
  locked : Bool
  reason : Cause
  count : Word16
  arming : Option Arming
deriving DecidableEq, Repr

/-- The side record (section 3.1). A timer is `none` when idle and holds its fixed length while it
runs. `lit` (R98), `armed` (R104) and `late` (R104, R122: the current ramp step began when the full scan
whose completion is still to come had already ended) are the state the handshake's rules imply. -/
structure SideRecord where
  state : SideState
  reason : Cause
  retry : Option Nat
  settle : Option Nat
  probe : Option Nat
  stepWindow : Option Nat
  proving : Option Nat
  step : Option Nat
  agree : Agreement
  ready : Bool
  verified : Bool
  mismatchRun : Nat
  lit : Bool
  armed : Bool
  late : Bool
  starved : Bool
  rearm : Nat
  failures : List Word32
  lock : LockRecord
deriving DecidableEq, Repr

/-! ### Pump Drive Unit and Monitor Scanner (chapter 5) -/

/-- A running extinction check with the values it fixed (R127) and its last judged reading. -/
structure Check where
  monitor : Nat
  offset : Word16
  level : Word16
  limit : Nat
  last : Option Word16
deriving DecidableEq, Repr

/-- What a stepdown step waits for (R118): extinction checks of these channels, or the side's
stepdown wait timer of this length. -/
inductive StepWait where
  | checks (channels : List Nat)
  | timer (ms : Nat)
deriving DecidableEq, Repr

/-- A running stepdown sequence: its current pump and its wait. -/
structure Stepdown where
  channel : Nat
  wait : StepWait
deriving DecidableEq, Repr

/-- The Pump Drive Unit. -/
structure PumpUnit where
  drive : List Word16
  checks : List (Option Check)
  stepdown : Sides (Option Stepdown)
  latch : Bool
  startCut : Bool
deriving DecidableEq, Repr

/-- Dark detection and dark count of one input (R124). -/
structure Dark where
  holding : Bool
  count : Nat
deriving DecidableEq, Repr

/-- The Monitor Scanner: latest values, dark detections, the input whose conversion comes next, and
whether a full scan has just been completed. -/
structure Scanner where
  latest : List Word16
  dark : List Dark
  next : Fin 8
  done : Bool
deriving DecidableEq, Repr

/-! ### Hold Unit, Message Engine, Local Port (chapters 6 and 7) -/

/-- The Hold Unit (section 6.1); the HOLD line's level stands in `Lines`. -/
structure HoldUnit where
  request : Bool
  own : Bool
  sets : Sides PosSet
  view : PosSet
deriving DecidableEq, Repr

/-- A queued response or request, marked where it is the DONE response of the pending route reset. -/
structure Queued where
  msg : Message
  resetDone : Bool
deriving DecidableEq, Repr

/-- An outbound queue with its two classes, oldest first (section 7.3). -/
structure OutQueue where
  notices : List Message
  messages : List Queued
deriving DecidableEq, Repr

/-- A route reset: none, pending (R169), or due because its DONE response left or was lost (R170). -/
inductive ResetPhase where
  | idle
  | pending
  | due
deriving DecidableEq, Repr

/-- The Message Engine. -/
structure MsgEngine where
  out : Sides OutQueue
  delivery : List Queued
  discarded : Nat
  localDrops : Nat
  framingErrors : Nat
  noticeNumber : Octet
  resetPhase : ResetPhase
deriving DecidableEq, Repr

/-- Local port bit rates (section 2.7). -/
inductive Rate where
  | r9600
  | r38400
  | r115200
deriving DecidableEq, Repr

/-- The local receiver (R160). -/
inductive Receiver where
  | hunting
  | receiving (held : List Octet)
deriving DecidableEq, Repr

/-- A local frame being sent or last sent, at the rate at which it began. -/
structure LocalSend where
  octets : List Octet
  rate : Rate
deriving DecidableEq, Repr

/-- The Local Port: the rate in force, the rate applied to the line (R31), receiver, transmitter. -/
structure LocalPort where
  rateInForce : Rate
  rateApplied : Rate
  receiver : Receiver
  sent : Option LocalSend
deriving DecidableEq, Repr

/-! ### Store Controller (chapter 9) -/

/-- A trip record as a side or the Pump Drive Unit hands it over (R76, R129). -/
structure TripRecord where
  side : Option Side
  cause : Cause
  left : Option SideState
  far : Octet
  ownInput : Word16
  ownOutput : Word16
  farInput : Word16
  view : PosSet
deriving DecidableEq, Repr

/-- A record in the record queue: a trip record or a lock record (R182). -/
inductive StoreRecord where
  | trip (r : TripRecord)
  | lock (side : Side) (locked : Bool) (reason : Cause) (count : Word16)
deriving DecidableEq, Repr

/-- A page write under way: where, what, the milliseconds since it began as far as the page timer and
the address repeats have counted them, and whether its write cycle has ended (R184). -/
structure PageWrite where
  addr : Nat
  data : List Octet
  elapsed : Nat
  done : Bool
deriving DecidableEq, Repr

/-- A record being written. -/
structure RecordWrite where
  record : StoreRecord
  write : PageWrite
deriving DecidableEq, Repr

/-- Whose response an operation owes: destination and tag. -/
structure Requester where
  dest : Octet
  tag : Octet
deriving DecidableEq, Repr

/-- The loader result (R185) with "none yet". -/
inductive LoaderResult where
  | noneYet
  | loaded
  | incomplete
  | blank
  | oversize
  | corrupt
  | absent
deriving DecidableEq, Repr

/-- The four steps of a loader run (R185). -/
inductive LoaderStep where
  | header
  | image
  | lockArea
  | log
deriving DecidableEq, Repr

/-- What started a loader run. -/
inductive LoaderOrigin where
  | powerUp
  | routeReset
  | reload (who : Requester)
deriving DecidableEq, Repr

/-- The operation under way and so the Store Controller's state (section 9.2). A commit counts its
twelve page writes 0 to 11. `recording none` waits for a record while a route reset drains. -/
inductive StoreOp where
  | idle
  | loading (origin : LoaderOrigin) (step : LoaderStep) (verdict : LoaderResult)
  | committing (who : Requester) (page : Nat) (write : PageWrite)
  | suspended (who : Requester) (page : Nat) (record : Option RecordWrite)
  | recording (record : Option RecordWrite)
  | reading (who : Requester) (n : Nat) (part : Nat)
deriving DecidableEq, Repr

/-- Which lock copy of a side is newest, with its generation (R186). -/
structure LockNote where
  copyB : Bool
  generation : Octet
deriving DecidableEq, Repr

/-- The Store Controller. -/
structure StoreCtl where
  op : StoreOp
  draining : Bool
  queue : List StoreRecord
  lost : Nat
  lastFault : Bool
  result : LoaderResult
  nextSlot : Nat
  nextNumber : Word32
  notes : Sides (Option LockNote)
deriving DecidableEq, Repr

/-- The external store: address and octet pairs, addresses strictly rising, none listed with the
octet an unlisted address reads as. -/
abbrev Memory := List Host.Cell

/-! ### The machine -/

/-- The discrete input lines, asserted or not. -/
structure Lines where
  trip : Sides Bool
  hold : Bool
deriving DecidableEq, Repr

/-- The Timer Base: uptime, and the uptime seconds handed to the side controllers and not yet taken. -/
structure TimerBase where
  uptime : Word32
  second : Sides Bool
deriving DecidableEq, Repr

/-- The whole state. -/
structure State where
  powered : Bool
  position : Fin 32
  time : TimerBase
  lines : Lines
  ports : Sides PortRecord
  tx : Sides Transmitter
  tab : TableMem
  side : Sides SideRecord
  pdu : PumpUnit
  scan : Scanner
  hold : HoldUnit
  msg : MsgEngine
  loc : LocalPort
  ctl : StoreCtl
  store : Memory
  choices : Choices
  free : Nat
  pending : List Instr
deriving DecidableEq, Repr

/-! ### Reset values -/

/-- R25. -/
def PortRecord.reset : PortRecord :=
  { score := 0, condition := .clear, loss := true, neighbour := false, last := none, report := none,
    spans := List.replicate 31 0, holdSet := 0, lossTimer := none }

/-- R25: originating, the frame timer running. -/
def Transmitter.reset : Transmitter :=
  { frameTimer := true, counter := 0, transit := [], line := none }

/-- R27. -/
def Tables.emptied : Tables :=
  { header := List.replicate 17 0, spans := List.replicate 31 (List.replicate 14 0),
    pumps := List.replicate 8 (List.replicate 18 0), monitors := List.replicate 8 (List.replicate 5 0),
    accepts := List.replicate 8 (List.replicate 5 0), site := List.replicate 9 0 }

/-- R80. -/
def Agreement.reset : Agreement :=
  { state := .none, far := none, count := 0, probe := 0, launch := 0, duration := 0, mismatch := false }

/-- R80. -/
def LockRecord.reset : LockRecord :=
  { locked := false, reason := .none, count := 0, arming := none }

/-- R80. -/
def SideRecord.reset : SideRecord :=
  { state := .unconfigured, reason := .none, retry := none, settle := none, probe := none,
    stepWindow := none, proving := none, step := none, agree := Agreement.reset, ready := false,
    verified := false, mismatchRun := 0, lit := false, armed := false, late := false, starved := false,
    rearm := 0, failures := [], lock := LockRecord.reset }

/-- R132. -/
def PumpUnit.reset : PumpUnit :=
  { drive := List.replicate 8 0, checks := List.replicate 8 none, stepdown := ⟨none, none⟩,
    latch := false, startCut := true }

/-- R132; −60.00 dBm is the count −6000. -/
def Scanner.reset : Scanner :=
  { latest := List.replicate 8 (BitVec.ofInt 16 (-6000)), dark := List.replicate 8 ⟨false, 0⟩, next := 0,
    done := false }

/-- R142, with the HOLD line released. -/
def HoldUnit.reset : HoldUnit :=
  { request := false, own := false, sets := ⟨0, 0⟩, view := 0 }

/-- R170. -/
def MsgEngine.reset : MsgEngine :=
  { out := ⟨⟨[], []⟩, ⟨[], []⟩⟩, delivery := [], discarded := 0, localDrops := 0, framingErrors := 0,
    noticeNumber := 0, resetPhase := .idle }

/-- R31, R170. -/
def LocalPort.reset : LocalPort :=
  { rateInForce := .r9600, rateApplied := .r9600, receiver := .hunting, sent := none }

/-- R193, with the loader run started and its first read under way (R184, R185). -/
def StoreCtl.reset : StoreCtl :=
  { op := .loading .powerUp .header .noneYet, draining := false, queue := [], lost := 0,
    lastFault := false, result := .noneYet, nextSlot := 0, nextNumber := 1, notes := ⟨none, none⟩ }

/-- Nothing chosen: West first, no retry timer above the restart interval, the order of R11, writes begun
at once, the store acknowledges. -/
def Choices.default : Choices :=
  { eastFirst := false, westLonger := false, eastLonger := false, handOn := [], lateStart := false, acks := [] }

/-- The part right after power-on at position 0, with every line released and a store that nothing
has written (logs 1, 2, 3). -/
def State.reset : State :=
  { powered := true, position := 0, time := ⟨0, ⟨false, false⟩⟩, lines := ⟨⟨false, false⟩, false⟩,
    ports := ⟨PortRecord.reset, PortRecord.reset⟩, tx := ⟨Transmitter.reset, Transmitter.reset⟩,
    tab := ⟨Tables.emptied, false, none⟩, side := ⟨SideRecord.reset, SideRecord.reset⟩,
    pdu := PumpUnit.reset, scan := Scanner.reset, hold := HoldUnit.reset, msg := MsgEngine.reset,
    loc := LocalPort.reset, ctl := StoreCtl.reset, store := [], choices := Choices.default, free := 0,
    pending := [] }

end Sys2Proof.Machine
end

