-- ==== Sys2Proof/Machine/Operands.lean ====
section
/-! DEFINITION. Operand forms: how octets carry fields (00_scope.md section 5), the CRC of R3, the
layouts of frames (section 1.1), messages (section 7.1), table entries (chapter 2) and the code tables
of side states and causes. -/

namespace Sys2Proof.Machine

/-! ### Octets and fields -/

/-- Octet `i` of a list; past its end, 0. -/
def octetAt (l : List Octet) (i : Nat) : Octet := l.getD i 0

/-- A two-octet field, most significant octet first (00_scope.md section 5.1). -/
def word16At (l : List Octet) (i : Nat) : Word16 := octetAt l i ++ octetAt l (i + 1)

/-- A four-octet field, most significant octet first. -/
def word32At (l : List Octet) (i : Nat) : Word32 := word16At l i ++ word16At l (i + 2)

/-- The two octets of a field, most significant first. -/
def octets16 (w : Word16) : List Octet := [w.extractLsb' 8 8, w.extractLsb' 0 8]

/-- The four octets of a field, most significant first. -/
def octets32 (w : Word32) : List Octet :=
  octets16 (w.extractLsb' 16 16) ++ octets16 (w.extractLsb' 0 16)

/-- A number as an octet. -/
def natOctet (n : Nat) : Octet := BitVec.ofNat 8 n

/-- An octet whose bit i is the i-th flag of the list (flag tables of R165 to R167, R136). -/
def flagOctet (l : List Bool) : Octet := natOctet (l.foldr (fun b a => 2 * a + b.toNat) 0)

/-- A list brought to exactly `n` octets: cut, or filled with zeros. -/
def padTo (n : Nat) (l : List Octet) : List Octet := (l ++ List.replicate n 0).take n

/-- −60.00 dBm. -/
def minPower : Word16 := BitVec.ofInt 16 (-6000)

/-- Clip a count of 0.01 dB to −60.00..+33.00 dBm (R122, R20). -/
def clipPower (x : Int) : Word16 := BitVec.ofInt 16 (max (-6000) (min 3300 x))

/-- Signed comparison of two powers. -/
def powerLt (a b : Word16) : Bool := decide (a.toInt < b.toInt)

/-- The lower of two powers. -/
def powerMin (a b : Word16) : Word16 := if powerLt b a then b else a

/-- The higher of two powers. -/
def powerMax (a b : Word16) : Word16 := if powerLt a b then b else a

/-- A counter in 0..65535 that stays at 65535 (R156, R160, R162, R190). -/
def satInc (n : Nat) : Nat := min 65535 (n + 1)

/-! ### The check code (R3) -/

/-- One bit of the CRC with polynomial x^16 + x^12 + x^5 + 1, on a register value below 2^16: shift
left, and reduce by the polynomial when the top bit leaves. -/
def crcBit (c : Nat) : Nat := if c < 0x8000 then 2 * c else (2 * c) ^^^ 0x11021

/-- One octet, most significant bit first. -/
def crcOctet (c : Nat) (o : Octet) : Nat :=
  crcBit (crcBit (crcBit (crcBit (crcBit (crcBit (crcBit (crcBit (c ^^^ (o.toNat * 256)))))))))

/-- The register after a list of octets. (The test is there so that evaluation computes each value
before the next octet; both branches are the same.) -/
def crcRun : List Octet → Nat → Nat
  | [], c => c
  | o :: l, c => if crcOctet c o = 0 then crcRun l 0 else crcRun l (crcOctet c o)

/-- The CRC-16 of R3: preset to all ones, not inverted. -/
def crc16 (l : List Octet) : Word16 := BitVec.ofNat 16 (crcRun l 0xFFFF)

/-! ### Codes -/

/-- Side state codes of section 1.1. -/
def SideState.code : SideState → Octet
  | .absent => 1
  | .unconfigured => 2
  | .lockout => 3
  | .hold => 4
  | .dark => 5
  | .listen => 6
  | .probe => 7
  | .ramp => 8
  | .run => 9
  | .stepdown => 10

/-- Cause codes of R48. -/
def causeCode : Cause → Octet
  | .none => 0
  | .loss => 1
  | .withdrawn => 2
  | .neighbour => 3
  | .farDark => 4
  | .darkInput => 5
  | .tripLine => 6
  | .notice => 7
  | .overLevel => 8
  | .mismatch => 9
  | .probeTimeout => 10
  | .stepTimeout => 11
  | .hold => 12
  | .manual => 13
  | .ordered => 14
  | .budget => 15
  | .cut => 16
  | .reset => 17
  | .backOff => 18
  | .defer => 19
  | .other c => c

/-- The causes of R48 in the order of their codes. -/
def causeList : List Cause :=
  [.none, .loss, .withdrawn, .neighbour, .farDark, .darkInput, .tripLine, .notice, .overLevel,
   .mismatch, .probeTimeout, .stepTimeout, .hold, .manual, .ordered, .budget, .cut, .reset, .backOff,
   .defer]

/-- The cause a code stands for. -/
def causeOf (c : Octet) : Cause := causeList.getD c.toNat (.other c)

/-- Active side: LISTEN, PROBE, RAMP, RUN or STEPDOWN (00_scope.md section 6, R34). -/
def SideState.active : SideState → Bool
  | .listen => true
  | .probe => true
  | .ramp => true
  | .run => true
  | .stepdown => true
  | .absent => false
  | .unconfigured => false
  | .lockout => false
  | .hold => false
  | .dark => false

/-- The states whose exit gives the immediate cut (R69): PROBE, RAMP, RUN, STEPDOWN. -/
def SideState.lights : SideState → Bool
  | .probe => true
  | .ramp => true
  | .run => true
  | .stepdown => true
  | .listen => false
  | .absent => false
  | .unconfigured => false
  | .lockout => false
  | .hold => false
  | .dark => false

/-- Side octet: 0 West, 1 East. -/
def sideOctet : Side → Octet
  | .west => 0
  | .east => 1

/-- The side a side octet names. -/
def sideOf (o : Octet) : Option Side :=
  if o = 0 then some .west else if o = 1 then some .east else none

/-! ### Reports, messages, frames -/

/-- Octets 7..18 of a frame as a report. -/
def reportOf (l : List Octet) : Report :=
  { sender := octetAt l 0, state := octetAt l 1, flags := octetAt l 2, measured := word16At l 3,
    probe := word16At l 5, launch := word16At l 7, duration := octetAt l 9, edition := word16At l 10 }

/-- The 12 octets of a report. -/
def reportOctets (r : Report) : List Octet :=
  [r.sender, r.state, r.flags] ++ octets16 r.measured ++ octets16 r.probe ++ octets16 r.launch ++
    [r.duration] ++ octets16 r.edition

/-- Report flags (section 1.1). -/
def Report.ready (r : Report) : Bool := r.flags.getLsbD 0
/-- Flags bit 1. -/
def Report.verified (r : Report) : Bool := r.flags.getLsbD 1
/-- Flags bit 2. -/
def Report.throughDark (r : Report) : Bool := r.flags.getLsbD 2
/-- Flags bit 3. -/
def Report.agreedMode (r : Report) : Bool := r.flags.getLsbD 3

/-- Whether the sender's side state is the given one. -/
def Report.shows (r : Report) (st : SideState) : Bool := r.state == st.code

/-- The advertisement of a report (R85). -/
def Report.advert (r : Report) : Advert :=
  { probe := r.probe, launch := r.launch, duration := r.duration, edition := r.edition,
    agreedMode := r.agreedMode }

/-- Advertising: sender side state 3..10 and route edition not 0 (R85). -/
def Report.advertising (r : Report) : Bool :=
  decide (3 ≤ r.state.toNat) && decide (r.state.toNat ≤ 10) && r.edition != 0

/-- 28 octets as a message. -/
def messageOf (l : List Octet) : Message :=
  { kind := octetAt l 0, dest := octetAt l 1, source := octetAt l 2, tag := octetAt l 3,
    len := octetAt l 4, body := padTo 23 (l.drop 5) }

/-- The 28 octets of a message. -/
def messageOctets (m : Message) : List Octet :=
  [m.kind, m.dest, m.source, m.tag, m.len] ++ padTo 23 m.body

/-- The empty slot, 28 zero octets (R152). -/
def emptySlot : Message := { kind := 0, dest := 0, source := 0, tag := 0, len := 0, body := List.replicate 23 0 }

/-- A message of this part with the given meaningful body octets, the rest of the body zero. -/
def makeMessage (kind dest source tag : Octet) (body : List Octet) : Message :=
  { kind := kind, dest := dest, source := source, tag := tag, len := natOctet body.length,
    body := padTo 23 body }

/-- A message as inserted into a slot: header, body octets up to the body length, zeros (R152). -/
def inserted (m : Message) : Message := { m with body := padTo 23 (m.body.take m.len.toNat) }

/-- Notice kinds 112..115 (section 7.1). -/
def isNoticeKind (k : Octet) : Bool := decide (112 ≤ k.toNat) && decide (k.toNat ≤ 115)

/-- Response kinds, top bit set. -/
def isResponseKind (k : Octet) : Bool := k.getLsbD 7

/-- Request kinds: 1..111 and 116..127. -/
def isRequestKind (k : Octet) : Bool := k != 0 && !isNoticeKind k && !isResponseKind k

/-- An arrival of 80 octets as a frame (section 1.1). -/
def frameOf (l : List Octet) : Frame :=
  { origin := octetAt l 1, sequence := octetAt l 2, holdSet := word32At l 3,
    report := reportOf (l.drop 7), spans := (l.drop 19).take 31, slot := messageOf (l.drop 50) }

/-- Octets 0..77 of a frame this part sends, format 1 (R19). -/
def frameBody (f : Frame) : List Octet :=
  [1, f.origin, f.sequence] ++ octets32 f.holdSet ++ reportOctets f.report ++ f.spans ++
    messageOctets f.slot

/-- The 80 octets of a frame this part sends, with its check code (R3, R19). -/
def frameOctets (f : Frame) : List Octet := frameBody f ++ octets16 (crc16 (frameBody f))

/-- The 31 octets of a local frame (section 7.4). -/
def localFrameOctets (m : Message) : List Octet :=
  0xA5 :: (messageOctets m ++ octets16 (crc16 (messageOctets m)))

/-! ### Span lists -/

/-- Octet of span k; k = 0 and k > 31 do not exist and read 0 (UNKNOWN). -/
def spanOctet (l : List Octet) (k : Nat) : Octet := if k = 0 then 0 else octetAt l (k - 1)

/-- Replace the octet of span k where span k exists (R18). -/
def setSpanOctet (l : List Octet) (k : Nat) (o : Octet) : List Octet :=
  if k = 0 ∨ 31 < k then l else l.set (k - 1) o

/-- Write this site's own nibbles: West state in the low nibble of span p, East state in the high
nibble of span p+1 (R18). -/
def writeNibbles (p : Nat) (west east : SideState) (l : List Octet) : List Octet :=
  let l1 := setSpanOctet l p ((spanOctet l p &&& 0xF0) ||| west.code)
  setSpanOctet l1 (p + 1) ((spanOctet l1 (p + 1) &&& 0x0F) ||| (east.code <<< 4))

/-- Whether either nibble shows PROBE or RAMP (R93). -/
def spanBusy (o : Octet) : Bool :=
  let hi := o >>> 4
  let lo := o &&& 0x0F
  hi == 7 || hi == 8 || lo == 7 || lo == 8

/-! ### Table entries (chapter 2) -/

/-- Entry of a table of entries, by position in its list. -/
def entryAt (l : List (List Octet)) (i : Nat) : List Octet := l.getD i []

/-- Route header fields (section 2.2). -/
def hdrEdition (t : Tables) : Word16 := word16At t.header 0
/-- Route length L. -/
def hdrLength (t : Tables) : Nat := (octetAt t.header 2).toNat
/-- Loss threshold, frame periods. -/
def hdrLossThreshold (t : Tables) : Nat := (octetAt t.header 3).toNat
/-- Settle time, s. -/
def hdrSettle (t : Tables) : Nat := (word16At t.header 4).toNat
/-- Trip rest, s. -/
def hdrTripRest (t : Tables) : Nat := (octetAt t.header 6).toNat
/-- Restart interval, s. -/
def hdrRestart (t : Tables) : Nat := (word16At t.header 7).toNat
/-- Restart budget. -/
def hdrBudget (t : Tables) : Nat := (octetAt t.header 9).toNat
/-- Budget window, min. -/
def hdrWindow (t : Tables) : Nat := (word16At t.header 10).toNat
/-- Restart limit. -/
def hdrLimit (t : Tables) : Nat := (octetAt t.header 12).toNat
/-- Dark hold-off, scans. -/
def hdrHoldOff (t : Tables) : Nat := (octetAt t.header 13).toNat
/-- Proving time, s. -/
def hdrProving (t : Tables) : Nat := (word16At t.header 14).toNat
/-- Record suspend. -/
def hdrSuspend (t : Tables) : Bool := octetAt t.header 16 == 1

/-- A span entry (section 2.3). -/
structure SpanEntry where
  lossMin : Nat
  lossMax : Nat
  dark : Word16
  light : Word16
  probe : Word16
  duration : Octet
  launch : Word16
  agreed : Bool
deriving DecidableEq, Repr

/-- The fields of a span entry's octets. -/
def spanEntryOf (e : List Octet) : SpanEntry :=
  { lossMin := (word16At e 0).toNat, lossMax := (word16At e 2).toNat, dark := word16At e 4,
    light := word16At e 6, probe := word16At e 8, duration := octetAt e 10, launch := word16At e 11,
    agreed := octetAt e 13 == 1 }

/-- Span entry k, k in 1..31. -/
def spanEntry (t : Tables) (k : Nat) : SpanEntry := spanEntryOf (entryAt t.spans (k - 1))

/-- How a ramp step is verified (section 2.4). -/
inductive StepCheck where
  | free
  | ownOutput
  | farInput
deriving DecidableEq, Repr

/-- A pump plan entry (section 2.4). -/
structure PumpEntry where
  present : Bool
  side : Side
  tx : Bool
  order : Nat
  full : Word16
  probe : Word16
  prereq : Option Nat
  check : StepCheck
  expected : Word16
  window : Nat
  monitor : Option Nat
  limit : Nat
  extinct : Word16
deriving DecidableEq, Repr

/-- 255 stands for none (section 2.4). -/
def orNone (o : Octet) : Option Nat := if o = 255 then none else some o.toNat

/-- The fields of a pump plan entry's octets. -/
def pumpEntryOf (e : List Octet) : PumpEntry :=
  { present := octetAt e 0 == 1, side := if octetAt e 1 = 1 then .east else .west,
    tx := octetAt e 2 == 1, order := (octetAt e 3).toNat, full := word16At e 4, probe := word16At e 6,
    prereq := orNone (octetAt e 8),
    check := if octetAt e 9 = 1 then .ownOutput else if octetAt e 9 = 2 then .farInput else .free,
    expected := word16At e 10, window := (word16At e 12).toNat, monitor := orNone (octetAt e 14),
    limit := (octetAt e 15).toNat, extinct := word16At e 16 }

/-- A monitor map entry (section 2.5); face as side and TX or RX. -/
structure MonitorEntry where
  present : Bool
  side : Side
  tx : Bool
  output : Bool
  offset : Word16
deriving DecidableEq, Repr

/-- The fields of a monitor map entry's octets: face 0 W-RX, 1 W-TX, 2 E-RX, 3 E-TX. -/
def monitorEntryOf (e : List Octet) : MonitorEntry :=
  { present := octetAt e 0 == 1, side := if (octetAt e 1).getLsbD 1 then .east else .west,
    tx := (octetAt e 1).getLsbD 0, output := octetAt e 2 == 1, offset := word16At e 3 }

/-- Notice acceptance actions (section 2.6). -/
inductive Action where
  | trip
  | defer
  | deliver
  | discard
deriving DecidableEq, Repr

/-- An acceptance entry (section 2.6). -/
structure AcceptEntry where
  present : Bool
  value : Octet
  mask : Octet
  kinds : Octet
  action : Action
deriving DecidableEq, Repr

/-- The fields of an acceptance entry's octets. -/
def acceptEntryOf (e : List Octet) : AcceptEntry :=
  { present := octetAt e 0 == 1, value := octetAt e 1, mask := octetAt e 2, kinds := octetAt e 3,
    action := if octetAt e 4 = 0 then .trip else if octetAt e 4 = 1 then .defer
      else if octetAt e 4 = 2 then .deliver else .discard }

/-- Whether an acceptance entry matches a notice (R33): present, kind in the kind set, source equal
to the value in every bit of the mask; a source outside 0..31 matches no entry (R147). -/
def AcceptEntry.accepts (e : AcceptEntry) (source kind : Octet) : Bool :=
  e.present && decide (source.toNat < 32) && e.kinds.getLsbD (kind.toNat - 112) &&
    (source ^^^ e.value) &&& e.mask &&& 0x1F == 0

/-- Site entry fields (section 2.7). -/
def siteObey (t : Tables) : PosSet := word32At t.site 0
/-- Manager set. -/
def siteManagers (t : Tables) : PosSet := word32At t.site 4
/-- Local port rate. -/
def siteRate (t : Tables) : Rate :=
  if octetAt t.site 8 = 1 then .r38400 else if octetAt t.site 8 = 2 then .r115200 else .r9600

/-- Rate code of STATUS-READ page 2. -/
def rateOctet : Rate → Octet
  | .r9600 => 0
  | .r38400 => 1
  | .r115200 => 2

/-- Number of entries, first index and entry size of a table (section 2.1). -/
def tableShape (n : Nat) : Option (Nat × Nat × Nat) :=
  match n with
  | 1 => some (1, 0, 17)
  | 2 => some (31, 1, 14)
  | 3 => some (8, 0, 18)
  | 4 => some (8, 0, 5)
  | 5 => some (8, 0, 5)
  | 6 => some (1, 0, 9)
  | _ => none

/-- Whether a table number and index name an entry (R34 step 4, R168). -/
def entryExists (table index : Octet) : Bool :=
  match tableShape table.toNat with
  | none => false
  | some (count, first, _) => decide (first ≤ index.toNat) && decide (index.toNat < first + count)

/-- Entry size of a table, 0 for none. -/
def entrySize (table : Octet) : Nat :=
  match tableShape table.toNat with
  | none => 0
  | some (_, _, size) => size

/-- The working entry named by a table number and index. -/
def getEntry (t : Tables) (table index : Nat) : List Octet :=
  match table with
  | 1 => t.header
  | 2 => entryAt t.spans (index - 1)
  | 3 => entryAt t.pumps index
  | 4 => entryAt t.monitors index
  | 5 => entryAt t.accepts index
  | 6 => t.site
  | _ => []

/-- Replace the working entry named by a table number and index (R35). -/
def setEntry (t : Tables) (table index : Nat) (e : List Octet) : Tables :=
  match table with
  | 1 => { t with header := e }
  | 2 => { t with spans := t.spans.set (index - 1) e }
  | 3 => { t with pumps := t.pumps.set index e }
  | 4 => { t with monitors := t.monitors.set index e }
  | 5 => { t with accepts := t.accepts.set index e }
  | 6 => { t with site := e }
  | _ => t

/-! ### The store image and records (section 9.1) -/

/-- The tables in table-number order, 684 octets. -/
def tablesOctets (t : Tables) : List Octet :=
  t.header ++ t.spans.flatten ++ t.pumps.flatten ++ t.monitors.flatten ++ t.accepts.flatten ++ t.site

/-- Cut a list into `count` entries of `size` octets. -/
def chunks (size : Nat) : Nat → List Octet → List (List Octet)
  | 0, _ => []
  | n + 1, l => l.take size :: chunks size n (l.drop size)

/-- The tables carried by image octets 8..691. -/
def tablesOf (l : List Octet) : Tables :=
  { header := l.take 17, spans := chunks 14 31 (l.drop 17), pumps := chunks 18 8 (l.drop 451),
    monitors := chunks 5 8 (l.drop 595), accepts := chunks 5 8 (l.drop 635), site := (l.drop 675).take 9 }

/-- Image header checksum: the CRC over image octets 2..5 and 8..691. -/
def imageChecksum (edition : Word16) (t : Tables) : Word16 :=
  crc16 (octets16 edition ++ octets16 (BitVec.ofNat 16 Config.imageLength) ++ tablesOctets t)

/-- The 704 image octets of a complete image (R188 step 3). -/
def imageOctets (t : Tables) : List Octet :=
  octets16 0x5C3A ++ octets16 (hdrEdition t) ++ octets16 (BitVec.ofNat 16 Config.imageLength) ++
    octets16 (imageChecksum (hdrEdition t) t) ++ tablesOctets t ++ List.replicate 12 0

/-- Sum of octets modulo 256. -/
def octetSum (l : List Octet) : Octet := l.foldl (· + ·) 0

/-- A list with the check octet appended that brings the sum to 255 (R183). -/
def withCheckOctet (l : List Octet) : List Octet := l ++ [255 - octetSum l]

/-- The 8 octets of a lock copy. -/
def lockCopyOctets (generation : Octet) (sd : Side) (locked : Bool) (reason : Cause) (count : Word16) :
    List Octet :=
  withCheckOctet ([generation, sideOctet sd, if locked then 1 else 0, causeCode reason] ++ octets16 count ++ [0])

/-- Whether 8 octets are a valid lock copy of a side (R183). -/
def lockCopyValid (sd : Side) (l : List Octet) : Bool :=
  octetSum l == 255 && octetAt l 1 == sideOctet sd && (octetAt l 2 == 0 || octetAt l 2 == 1)

/-- The 32 octets of a trip record (section 9.1). -/
def tripRecordOctets (number uptime : Word32) (span : Octet) (edition : Word16) (r : TripRecord) : List Octet :=
  withCheckOctet (octets32 number ++ octets32 uptime ++
    [match r.side with | none => 255 | some sd => sideOctet sd, span, causeCode r.cause,
     match r.left with | none => 0 | some st => st.code, r.far] ++
    octets16 r.ownInput ++ octets16 r.ownOutput ++ octets16 r.farInput ++ octets32 r.view ++
    octets16 edition ++ List.replicate 6 0)

/-- Whether 32 octets are a valid trip record (R183). -/
def tripRecordValid (l : List Octet) : Bool := octetSum l == 255 && word32At l 0 != 0

/-- Address of trip log slot s. -/
def slotAddr (s : Nat) : Nat := 0x300 + 32 * s

/-- Address of a lock copy: West A, B, East A, B. -/
def lockCopyAddr (sd : Side) (copyB : Bool) : Nat :=
  0x2C0 + (match sd with | .west => 0 | .east => 16) + (if copyB then 8 else 0)

end Sys2Proof.Machine
end

