-- ==== Sys2Proof/Machine/Ops.lean ====
section
/-! DEFINITION. The named operations over State that every block shares: the store's octets, access by
side, the values in force (R29, R30), the measures of a side (R83), the free values, the order of the
two sides, and the frame of every command. -/

namespace Sys2Proof.Machine

/-! ### The external store as a memory -/

/-- The octet at an address; an unlisted address reads as the erased octet (log 3). -/
def Memory.read : Memory → Nat → Octet
  | [], _ => Config.erasedOctet
  | (a, v) :: m, x => if x = a then v else Memory.read m x

/-- Write one octet, keeping the list sorted and listing no erased octet. -/
def Memory.write : Memory → Nat → Octet → Memory
  | [], x, v => if v = Config.erasedOctet then [] else [(x, v)]
  | (a, w) :: m, x, v =>
    if x < a then (if v = Config.erasedOctet then (a, w) :: m else (x, v) :: (a, w) :: m)
    else if x = a then (if v = Config.erasedOctet then m else (x, v) :: m)
    else (a, w) :: Memory.write m x v

/-- The canonical form: addresses strictly rising, no entry holding the erased octet. -/
def Memory.wf : Memory → Bool
  | [] => true
  | (a, v) :: m =>
    v != Config.erasedOctet && (match m with | [] => true | (b, _) :: _ => decide (a < b)) && Memory.wf m

/-- Octets at consecutive addresses. (The cases of the address are there so that evaluation computes each
address before the next octet; both read `a` and go on at `a + 1`.) -/
def Memory.readOctets (m : Memory) (a : Nat) : Nat → List Octet
  | 0 => []
  | n + 1 =>
    match a with
    | 0 => Memory.read m 0 :: Memory.readOctets m 1 n
    | b + 1 => Memory.read m (b + 1) :: Memory.readOctets m (b + 2) n

/-- Write octets at consecutive addresses. (The cases of the address are as in `readOctets`.) -/
def Memory.writeOctets (m : Memory) (a : Nat) : List Octet → Memory
  | [] => m
  | o :: l =>
    match a with
    | 0 => Memory.writeOctets (Memory.write m 0 o) 1 l
    | b + 1 => Memory.writeOctets (Memory.write m (b + 1) o) (b + 2) l

/-- What a write cut off or not acknowledged leaves (R188, R194): each octet as written or the residue's. -/
def residueOctets : List Octet → Residue → List Octet
  | [], _ => []
  | o :: l, [] => o :: l
  | o :: l, r :: rs => r.getD o :: residueOctets l rs

/-! ### Access by side -/

/-- The own position as a number. -/
def pos (s : State) : Nat := s.position.val

/-- The own position as an octet. -/
def posOctet (s : State) : Octet := natOctet s.position.val

/-- Replace a side record. -/
def setSide (sd : Side) (r : SideRecord) (s : State) : State := { s with side := s.side.set sd r }

/-- Change a side record. -/
def modSide (sd : Side) (f : SideRecord → SideRecord) (s : State) : State := setSide sd (f (s.side.get sd)) s

/-- Replace a transmitter. -/
def modTx (sd : Side) (f : Transmitter → Transmitter) (s : State) : State :=
  { s with tx := s.tx.set sd (f (s.tx.get sd)) }

/-- Change the Pump Drive Unit. -/
def onPdu (f : PumpUnit → PumpUnit) (s : State) : State := { s with pdu := f s.pdu }

/-- Change the Message Engine. -/
def onMsg (f : MsgEngine → MsgEngine) (s : State) : State := { s with msg := f s.msg }

/-- Change the Store Controller. -/
def onCtl (f : StoreCtl → StoreCtl) (s : State) : State := { s with ctl := f s.ctl }

/-- Whether a side is ABSENT, its port a route-end port (R23). -/
def isAbsent (s : State) (sd : Side) : Bool := (s.side.get sd).state == .absent

/-- The state of a side. -/
def stateOf (s : State) (sd : Side) : SideState := (s.side.get sd).state

/-- Whether a side is ABSENT at a position under a route length (R44). -/
def absentUnder (p length : Nat) : Side → Bool
  | .west => p == 0
  | .east => p + 1 == length

/-- Span number of a side: p for West, p+1 for East (00_scope.md section 2.1). -/
def sideSpan (s : State) : Side → Nat
  | .west => pos s
  | .east => pos s + 1

/-- The far view of a side: its port's last valid adjacent report (R49). -/
def farView (s : State) (sd : Side) : Option Report := (s.ports.get sd).report

/-- A transmitter originates while its opposite port is in LOSS or WITHDRAWN (R13). -/
def portBlocked (r : PortRecord) : Bool := r.loss || r.condition == .withdrawn

/-- R13: the mode of a transmitter. -/
def originating (s : State) (tx : Side) : Bool := portBlocked (s.ports.get tx.other)

/-- Replace a port record; the opposite transmitter's frame timer runs while it originates and is
not a route-end port's (R13, R14, R23). -/
def setPort (sd : Side) (r : PortRecord) (s : State) : State :=
  { s with
    ports := s.ports.set sd r
    tx := s.tx.set sd.other
      { s.tx.get sd.other with frameTimer := portBlocked r && !isAbsent s sd.other } }

/-- Whether a side's running retry timer has more than the restart interval left (R149, log 17). -/
def waitsLonger (s : State) : Side → Bool
  | .west => s.choices.westLonger
  | .east => s.choices.eastLonger

/-- An event handed to both sides reaches West first, or East first where the command says so. -/
def bothSides (f : Side → State → State) (s : State) : State :=
  if s.choices.eastFirst then f .west (f .east s) else f .east (f .west s)

/-! ### Values in force (R29, R30) -/

/-- Loss threshold in force (R9). -/
def lossThreshold (s : State) : Nat := if s.tab.validated then hdrLossThreshold s.tab.tables else 8

/-- Trip rest, s (R30). -/
def tripRest (s : State) : Nat := if hdrEdition s.tab.tables = 0 then 60 else hdrTripRest s.tab.tables

/-- Restart interval, s (R30). -/
def restartInterval (s : State) : Nat :=
  if hdrEdition s.tab.tables = 0 then 3600 else hdrRestart s.tab.tables

/-- Budget window, min (R30). -/
def budgetWindow (s : State) : Nat :=
  if hdrEdition s.tab.tables = 0 then 1440 else hdrWindow s.tab.tables

/-- Span entry of a side's span (R32). A side without a span (`hasSpan`) is read by no rule but its report,
which `reportedSpan` gives. -/
def spanOf (s : State) (sd : Side) : SpanEntry := spanEntry s.tab.tables (sideSpan s sd)

/-- The side has a span entry under the working tables: span 0 does not exist, and entry p+1 of the east terminal
is not used (R32). -/
def hasSpan (s : State) (sd : Side) : Bool := !absentUnder (pos s) (hdrLength s.tab.tables) sd

/-- The span entry whose values the report about a side carries (R20, R21). A side without a span entry that still
reports, as in the drain of a route reset, advertises free values (log 42). -/
def reportedSpan (s : State) (sd : Side) : SpanEntry :=
  if hasSpan s sd then spanOf s sd
  else
    let v := Config.spanlessAdvert s.free
    { spanOf s sd with probe := v.1, launch := v.2.1, duration := v.2.2.1, agreed := v.2.2.2 }

/-- Pump plan entry of a channel as written. -/
def planOf (t : TableMem) (n : Nat) : PumpEntry := pumpEntryOf (entryAt t.tables.pumps n)

/-- Pump assigned in force: present under validated tables (R113). -/
def assigned (t : TableMem) (n : Nat) : Bool := t.validated && decide (n < 8) && (planOf t n).present

/-- Channel assigned in force to a side. -/
def assignedTo (t : TableMem) (sd : Side) (n : Nat) : Bool := assigned t n && (planOf t n).side == sd

/-- The eight channels or inputs. -/
def eight : List Nat := [0, 1, 2, 3, 4, 5, 6, 7]

/-- Assigned channels in ascending order, of one side or of both. -/
def ascending (t : TableMem) (keep : PumpEntry → Bool) : List Nat :=
  [1, 2, 3, 4, 5, 6, 7, 8].flatMap fun o =>
    eight.filter fun n => assigned t n && (planOf t n).order == o && keep (planOf t n)

/-- The pumps of a side in ascending order. -/
def pumpsUp (t : TableMem) (sd : Side) : List Nat := ascending t fun e => e.side == sd

/-- The pumps of a side in descending order. -/
def pumpsDown (t : TableMem) (sd : Side) : List Nat := (pumpsUp t sd).reverse

/-- The probe-lit pumps of a side in ascending order (R83). -/
def probeLit (t : TableMem) (sd : Side) : List Nat := (pumpsUp t sd).filter fun n => (planOf t n).probe != 0

/-- Monitor map entry of an input as written. -/
def mapOf (t : TableMem) (n : Nat) : MonitorEntry := monitorEntryOf (entryAt t.tables.monitors n)

/-- Offset in force: the entry's where it is present under validated tables, else 0 (R122). -/
def offsetOf (t : TableMem) (n : Nat) : Word16 :=
  if t.validated && (mapOf t n).present then (mapOf t n).offset else 0

/-- Input present under validated tables: its results go to consumers (R122, R123). -/
def mapped (t : TableMem) (n : Nat) : Bool := t.validated && (mapOf t n).present

/-- Hold obey set in force (R29, R139). In the drain of a route reset the flag still stands, and so does the site
entry's set, although R142 takes all 32 positions for the view of the reset itself: the model's choice (log 44). -/
def obeySet (s : State) : PosSet := if s.tab.validated then siteObey s.tab.tables else BitVec.allOnes 32

/-- Manager set in force (R164). -/
def managerSet (s : State) : PosSet := if s.tab.validated then siteManagers s.tab.tables else 0

/-- The notice acceptance entries in force, in index order (R147). -/
def acceptsInForce (s : State) : List AcceptEntry :=
  if s.tab.validated then s.tab.tables.accepts.map acceptEntryOf else []

/-! ### Measures of a side -/

/-- Latest value of an input. -/
def latestOf (s : State) (n : Nat) : Word16 := s.scan.latest.getD n minPower

/-- The RX INPUT monitor of a side. -/
def rxInput (s : State) (sd : Side) : Option Nat :=
  eight.find? fun n => mapped s.tab n && (mapOf s.tab n).side == sd && !(mapOf s.tab n).tx &&
    !(mapOf s.tab n).output

/-- Latest value of the side's RX INPUT monitor, for a trip record (R76). No rule gives the value of a side without
one; -60.00 dBm is the model's choice (log 42). -/
def rxValue (s : State) (sd : Side) : Word16 :=
  match rxInput s sd with
  | none => minPower
  | some n => latestOf s n

/-- The measured input of the report about a side (R20): the latest value of its RX INPUT monitor, clipped. A side
without one that still reports, as in the drain of a route reset, gives a free value (log 42). -/
def reportedInput (s : State) (sd : Side) : Word16 :=
  match rxInput s sd with
  | none => Config.unmeasuredInput s.free
  | some n => clipPower (latestOf s n).toInt

/-- Whether the dark detection of the side's RX INPUT monitor holds (R124). -/
def darkHolds (s : State) (sd : Side) : Bool :=
  match rxInput s sd with
  | none => false
  | some n => (s.scan.dark.getD n ⟨false, 0⟩).holding

/-- TX output reading: the highest latest value among the present OUTPUT monitors on the TX face
(R83, R76). -/
def txReading (s : State) (sd : Side) : Option Word16 :=
  (eight.filter fun n => mapped s.tab n && (mapOf s.tab n).side == sd && (mapOf s.tab n).tx &&
    (mapOf s.tab n).output).foldl
    (fun best n => match best with
      | none => some (latestOf s n)
      | some b => some (powerMax b (latestOf s n))) none

/-- During a re-arm (R67): in RUN, not starved, with the dark detection holding. -/
def inRearm (s : State) (sd : Side) : Bool :=
  stateOf s sd == .run && !(s.side.get sd).starved && darkHolds s sd

/-! ### The route view and pacing (R24, R93) -/

/-- The route view: spans 1..p from the West port, the others from the East port, own nibbles from
the own sides. -/
def routeView (s : State) : List Octet :=
  writeNibbles (pos s) (stateOf s .west) (stateOf s .east)
    ((s.ports.west.spans.take (pos s)) ++ (s.ports.east.spans.drop (pos s)))

/-- The spans of the route: 1..L−1 under validated tables, none otherwise (R29). -/
def routeSpans (s : State) : List Nat :=
  if s.tab.validated then List.range' 1 (hdrLength s.tab.tables - 1) else []

/-- Pacing count of the lead of the East span. -/
def pacingCount (s : State) : Nat :=
  ((routeSpans s).filter fun k => k != pos s + 1 && spanBusy (spanOctet (routeView s) k)).length

/-- Lower-span count of the lead of the East span. -/
def lowerSpanCount (s : State) : Nat :=
  ((routeSpans s).filter fun k => decide (k < pos s + 1) && spanBusy (spanOctet (routeView s) k)).length

/-! ### Free values and the frame of every command -/

/-- Take one free value: the counter as it stands, which then advances. -/
def nextFree (s : State) : State := { s with free := s.free + 1 }

/-- The answer of the store to the next address phase: the first of the listed answers, or an
acknowledgement when none is listed. -/
def ackOf (s : State) : Bool := s.choices.acks.headD true

/-- Consume one listed answer. -/
def popAck (s : State) : State := { s with choices := { s.choices with acks := s.choices.acks.tail } }

end Sys2Proof.Machine
end

