-- ==== Sys2Proof/Machine/Flags.lean ====
section
/-! DEFINITION. Flag and status computations: the frame error score and port condition (R7, R8), the
flags of a report (R21, R22), CUT (R131), and the flag octets of the read responses. -/

namespace Sys2Proof.Machine

/-- The score after an invalid arrival (R7). -/
def scoreInvalid (n : Nat) : Nat := min 255 (n + 8)

/-- The score after a valid arrival with this origin and sequence (R7): +4 for the same origin with
another sequence than the last plus one modulo 256, else −1. -/
def scoreValid (last : Option (Octet × Octet)) (origin sequence : Octet) (n : Nat) : Nat :=
  match last with
  | none => n - 1
  | some (o, q) => if o = origin ∧ q + 1 ≠ sequence then min 255 (n + 4) else n - 1

/-- The condition that follows a new score (R8). -/
def conditionFor (c : PortCondition) (score : Nat) : PortCondition :=
  match c with
  | .withdrawn => if score = 0 then .clear else .withdrawn
  | .clear => if score = 255 then .withdrawn else if score < 96 then .clear else .degraded
  | .degraded => if score = 255 then .withdrawn else if score < 96 then .clear else .degraded

/-- THROUGH-DARK of the report about a side (R22): the other side is not in RUN or its RX input is
dark; clear at a terminal. -/
def throughDark (s : State) (sd : Side) : Bool :=
  !isAbsent s sd.other && (stateOf s sd.other != .run || darkHolds s sd.other)

/-- The flags octet of the report about a side (R21, R22). -/
def reportFlags (s : State) (sd : Side) : Octet :=
  let r := s.side.get sd
  flagOctet [r.ready, r.verified, throughDark s sd, s.tab.validated && (reportedSpan s sd).agreed,
    (s.ports.get sd).condition == .degraded]

/-- CUT is asserted (R131). -/
def cutAsserted (s : State) : Bool := s.pdu.latch || s.pdu.startCut

/-- Octet 3 of STATUS-READ page 0 (R165). -/
def statusFlags (s : State) : Octet :=
  flagOctet [s.tab.validated, s.pdu.latch, s.pdu.startCut, cutAsserted s, s.lines.trip.west,
    s.lines.trip.east]

/-- Hold state octet of R136 and R165. -/
def holdFlags (s : State) : Octet := flagOctet [s.hold.request, s.lines.hold, s.hold.own]

/-- Condition code of STATUS-READ page 1. -/
def conditionOctet : PortCondition → Octet
  | .clear => 0
  | .degraded => 1
  | .withdrawn => 2

/-- Port flags of STATUS-READ page 1; bit 3 is the mode of the transmitter of the same side. -/
def portFlags (s : State) (sd : Side) : Octet :=
  let r := s.ports.get sd
  flagOctet [r.loss, r.neighbour, isAbsent s sd, originating s sd]

/-- Whether the stepdown wait timer of a side runs. -/
def stepdownWaiting (s : State) (sd : Side) : Bool :=
  match s.pdu.stepdown.get sd with
  | some ⟨_, .timer _⟩ => true
  | some ⟨_, .checks _⟩ => false
  | none => false

/-- Timers running, octet 5 of SIDE-READ page 0 (R166). -/
def timerFlags (s : State) (sd : Side) : Octet :=
  let r := s.side.get sd
  flagOctet [r.retry.isSome, r.settle.isSome, r.probe.isSome, r.stepWindow.isSome, r.proving.isSome,
    stepdownWaiting s sd]

/-- Octet 9 of SIDE-READ page 0 (R166). -/
def sideFlags (s : State) (sd : Side) : Octet :=
  let r := s.side.get sd
  flagOctet [r.ready, r.verified, r.starved, r.agree.mismatch, (farView s sd).isSome, r.lock.locked]

/-- Octet 3 of SIDE-READ page 7: channels assigned to the side in force. -/
def channelFlags (s : State) (sd : Side) : Octet := flagOctet (eight.map (assignedTo s.tab sd))

/-- Agreement state code of SIDE-READ page 0. -/
def agreementOctet : AgreementState → Octet
  | .none => 0
  | .settling => 1
  | .settled => 2
  | .refused => 3

/-- Store Controller state code of STATUS-READ page 0. -/
def storeStateOctet : StoreOp → Octet
  | .idle => 0
  | .loading _ _ _ => 1
  | .committing _ _ _ => 2
  | .suspended _ _ _ => 3
  | .recording _ => 4
  | .reading _ _ _ => 5

/-- Loader result code of R185 and STATUS-READ page 0. -/
def loaderOctet : LoaderResult → Octet
  | .noneYet => 0
  | .loaded => 1
  | .incomplete => 2
  | .blank => 3
  | .oversize => 4
  | .corrupt => 5
  | .absent => 6

/-- Three octets of the load check result; zeros for none (R165, R187). -/
def loadCheckOctets (c : Option CheckFailure) : List Octet :=
  match c with
  | none => [0, 0, 0]
  | some f => [f.table, f.index, f.code]

/-- Response statuses (section 7.1). -/
inductive Status where
  | done
  | busy
  | state
  | index
  | value
  | notValid
  | notArmed
  | cutLatched
  | denied
  | unknown
  | storeFault
  | queueFull
deriving DecidableEq, Repr

/-- Status codes of section 7.1. -/
def Status.code : Status → Octet
  | .done => 0
  | .busy => 1
  | .state => 2
  | .index => 3
  | .value => 4
  | .notValid => 5
  | .notArmed => 6
  | .cutLatched => 7
  | .denied => 8
  | .unknown => 9
  | .storeFault => 10
  | .queueFull => 11

end Sys2Proof.Machine
end

