-- ==== Sys2Proof/Machine/Messages.lean ====
section
/-! DEFINITION. The queues of the Message Engine: the outbound queues, the local delivery queue, the
routing of responses, and the making of notices (R143, R144, R155 to R159, R162, R170). -/

namespace Sys2Proof.Machine

/-- A queued message leaves or is lost: the pending route reset becomes due with its DONE response
(R170). -/
def releaseReset (v : Queued) (m : MsgEngine) : MsgEngine :=
  if v.resetDone then { m with resetPhase := .due } else m

/-- Messages in an outbound queue. -/
def OutQueue.size (q : OutQueue) : Nat := q.notices.length + q.messages.length

/-- A response or forwarded request is discarded and counted (R156, R158). -/
def discardMessage (v : Queued) (m : MsgEngine) : MsgEngine :=
  releaseReset v { m with discarded := satInc m.discarded }

/-- A message joins the message class of an outbound queue, or is discarded at a full one (R158). -/
def joinMessage (sd : Side) (v : Queued) (m : MsgEngine) : MsgEngine :=
  let q := m.out.get sd
  if q.size < Config.outQueueSize then
    { m with out := m.out.set sd { q with messages := q.messages ++ [v] } }
  else discardMessage v m

/-- A message joins the local delivery queue, or is dropped and counted at a full one (R162). -/
def deliver (v : Queued) (m : MsgEngine) : MsgEngine :=
  if m.delivery.length < Config.deliverySize then { m with delivery := m.delivery ++ [v] }
  else releaseReset v { m with localDrops := satInc m.localDrops }

/-- Two notices of this part about the same subject: the same side, or both SITE-CUT (R157). -/
def sameSubject (a b : Message) : Bool :=
  (a.kind == 115 && b.kind == 115) ||
    (a.kind != 115 && b.kind != 115 && octetAt a.body 0 == octetAt b.body 0)

/-- A notice joins the notice class of an outbound queue: it supersedes the queued notice about the
same subject, and a queue still full gives up its newest message (R157). -/
def joinNotice (n : Message) (sd : Side) (m : MsgEngine) : MsgEngine :=
  let q := m.out.get sd
  let kept := q.notices.filter fun a => !sameSubject a n
  if kept.length + q.messages.length < Config.outQueueSize then
    { m with out := m.out.set sd { q with notices := kept ++ [n] } }
  else
    match q.messages.getLast? with
    | none => { m with out := m.out.set sd { q with notices := kept ++ [n] } }
    | some v =>
      discardMessage v
        { m with out := m.out.set sd { notices := kept ++ [n], messages := q.messages.dropLast } }

/-- A notice of this site joins each outbound queue whose transmitter sends frames, and the local
delivery queue (R144). -/
def postNotice (westAbsent eastAbsent : Bool) (n : Message) (m : MsgEngine) : MsgEngine :=
  let m1 := if westAbsent then m else joinNotice n .west m
  let m2 := if eastAbsent then m1 else joinNotice n .east m1
  deliver { msg := n, resetDone := false } { m2 with noticeNumber := m2.noticeNumber + 1 }

/-- Make a notice of this site with its four body octets (R143). -/
def sendNotice (kind sideCode span : Octet) (cause : Cause) (entered : SideState) (s : State) : State :=
  onMsg (fun m => postNotice (isAbsent s .west) (isAbsent s .east)
    (makeMessage kind 255 (posOctet s) m.noticeNumber [sideCode, span, causeCode cause, entered.code]) m) s

/-- A notice about a side (R75). -/
def sideNotice (kind : Octet) (sd : Side) (cause : Cause) (entered : SideState) (s : State) : State :=
  sendNotice kind (sideOctet sd) (natOctet (sideSpan s sd)) cause entered s

/-- The outbound queue a destination selects (R159). -/
def routeSide (s : State) (dest : Octet) : Side := if dest.toNat < pos s then .west else .east

/-- Route a response made at this site by its destination (R159). -/
def routeResponse (v : Queued) (s : State) : State :=
  if 31 < v.msg.dest.toNat then onMsg (discardMessage v) s
  else if v.msg.dest.toNat = pos s then onMsg (deliver v) s
  else if isAbsent s (routeSide s v.msg.dest) then onMsg (discardMessage v) s
  else onMsg (joinMessage (routeSide s v.msg.dest) v) s

/-- The response of a kind of request to a requester, with its body octets (R163). -/
def responseTo (kind dest tag : Octet) (body : List Octet) (s : State) : Message :=
  makeMessage (kind ||| 0x80) dest (posOctet s) tag body

/-- Make and route a response (R163). -/
def respond (kind dest tag : Octet) (body : List Octet) (s : State) : State :=
  routeResponse { msg := responseTo kind dest tag body s, resetDone := false } s

/-- The outbound queue of a port that becomes a route-end port is emptied; its messages are counted,
its notices are not (R156). -/
def emptyQueue (sd : Side) (m : MsgEngine) : MsgEngine :=
  let q := m.out.get sd
  q.messages.foldl (fun m v => discardMessage v m) { m with out := m.out.set sd ⟨[], []⟩ }

/-- What a departure on a port takes from its outbound queue: the oldest notice, else the oldest
message (R155, R156). -/
def queueHead (q : OutQueue) : Option Queued :=
  match q.notices with
  | n :: _ => some { msg := n, resetDone := false }
  | [] => q.messages.head?

/-- The queue without its head. -/
def queueTail (q : OutQueue) : OutQueue :=
  match q.notices with
  | _ :: rest => { q with notices := rest }
  | [] => { q with messages := q.messages.tail }

end Sys2Proof.Machine
end

