-- ==== Sys2Proof/Machine/Records.lean ====
section
/-! DEFINITION. The Store Controller's writing side: the record queue (R190), the writing of records
(R191), the page writes of a commit (R188, R189) and the end of a page write (R184). -/

namespace Sys2Proof.Machine

/-- A page write just begun, its page timer running (R184). -/
def newWrite (addr : Nat) (data : List Octet) : PageWrite :=
  { addr := addr, data := data, elapsed := 0, done := false }

/-- Set the operation under way. -/
def setOp (op : StoreOp) (s : State) : State := onCtl (fun c => { c with op := op }) s

/-! ### The record queue -/

/-- Whether a record is a trip record. -/
def StoreRecord.isTrip : StoreRecord → Bool
  | .trip _ => true
  | .lock _ _ _ _ => false

/-- Whether a record is a lock record of a side. -/
def StoreRecord.locksSide (sd : Side) : StoreRecord → Bool
  | .trip _ => false
  | .lock x _ _ _ => x == sd

/-- Remove the oldest trip record. -/
def dropOldestTrip : List StoreRecord → List StoreRecord
  | [] => []
  | r :: q => if r.isTrip then q else r :: dropOldestTrip q

/-- Replace the queued lock record of a side in its place. -/
def replaceLock (sd : Side) (r : StoreRecord) (q : List StoreRecord) : List StoreRecord :=
  q.map fun x => if x.locksSide sd then r else x

/-- A record that finds no place of its own joins at the end, at a full queue in the oldest trip
record's stead, which is lost and counted (R190). -/
def joinEnd (r : StoreRecord) (c : StoreCtl) : StoreCtl :=
  if c.queue.length < Config.recordQueueSize then { c with queue := c.queue ++ [r] }
  else { c with queue := dropOldestTrip c.queue ++ [r], lost := satInc c.lost }

/-- R190. -/
def joinRecord (r : StoreRecord) (c : StoreCtl) : StoreCtl :=
  match r with
  | .trip _ => joinEnd r c
  | .lock sd _ _ _ =>
    if c.queue.any (StoreRecord.locksSide sd) then { c with queue := replaceLock sd r c.queue }
    else joinEnd r c

/-! ### Records as page writes (R191) -/

/-- The copy a lock record of a side is written to, with its generation: the one not newest, or copy A
with generation 0 when neither is valid. -/
def lockTarget (note : Option LockNote) : LockNote :=
  match note with
  | none => { copyB := false, generation := 0 }
  | some n => { copyB := !n.copyB, generation := n.generation + 1 }

/-- Span number of a trip record (R191). -/
def recordSpan (s : State) : Option Side → Octet
  | none => 0
  | some sd => natOctet (sideSpan s sd)

/-- The page write of a record. -/
def recordWrite (s : State) (r : StoreRecord) : PageWrite :=
  match r with
  | .trip t =>
    newWrite (slotAddr s.ctl.nextSlot)
      (tripRecordOctets s.ctl.nextNumber s.time.uptime (recordSpan s t.side) (hdrEdition s.tab.tables) t)
  | .lock sd locked reason count =>
    let target := lockTarget (s.ctl.notes.get sd)
    newWrite (lockCopyAddr sd target.copyB) (lockCopyOctets target.generation sd locked reason count)

/-- The trip log position after a trip record's write ended, complete or faulted. -/
def advanceLog (r : StoreRecord) (c : StoreCtl) : StoreCtl :=
  match r with
  | .trip _ =>
    { c with
      nextSlot := (c.nextSlot + 1) % 64
      nextNumber := if c.nextNumber = BitVec.allOnes 32 then 1 else c.nextNumber + 1 }
  | .lock _ _ _ _ => c

/-- A record's write ended by a store fault: the record is lost and counted (R191). -/
def faultRecord (r : StoreRecord) (c : StoreCtl) : StoreCtl :=
  { advanceLog r c with lost := satInc c.lost, lastFault := true }

/-- A record's write complete: a lock copy is noted newest (R191). -/
def completeRecord (r : StoreRecord) (c : StoreCtl) : StoreCtl :=
  match r with
  | .trip _ => { advanceLog r c with lastFault := false }
  | .lock sd _ _ _ =>
    { c with notes := c.notes.set sd (some (lockTarget (c.notes.get sd))), lastFault := false }

/-! ### Commit pages (R188) -/

/-- Address and octets of the twelve page writes, 0 to 11. -/
def commitPage (t : Tables) (k : Nat) : PageWrite :=
  if k = 0 then newWrite 0 [0, 0]
  else if k = 11 then newWrite 0 ((imageOctets t).take 64)
  else newWrite (64 * k) (((imageOctets t).drop (64 * k)).take 64)

/-- The page octet of a STORE-FAULT response: 255 for step 1, else the page. -/
def commitFaultPage (k : Nat) : Octet := if k = 0 then 255 else if k = 11 then 0 else natOctet k

/-- The commit ends complete: DONE with the committed route edition (R188). -/
def finishCommit (who : Requester) (s : State) : State :=
  respond 13 who.dest who.tag (Status.done.code :: octets16 (hdrEdition s.tab.tables))
    (onCtl (fun c => { c with op := .idle, lastFault := false }) s)

/-- The commit ends by a store fault in its k-th page write (R188). -/
def failCommit (who : Requester) (k : Nat) (s : State) : State :=
  respond 13 who.dest who.tag [Status.storeFault.code, commitFaultPage k]
    (onCtl (fun c => { c with op := .idle, lastFault := true }) s)

/-- Begin the k-th page write of a commit; a missing acknowledgement ends the commit (R184, R188). -/
def beginCommitPage (who : Requester) (k : Nat) (s : State) : State :=
  if ackOf s then setOp (.committing who k (commitPage s.tab.tables k)) (popAck s)
  else failCommit who k (popAck s)

/-! ### Starting record writes -/

/-- The record queue is written: a suspended commit begins its next page (R189); otherwise the
Store Controller is IDLE, or waits in RECORDING while a route reset drains (R193). -/
def recordsDone (s : State) : State :=
  match s.ctl.op with
  | .suspended who k _ => beginCommitPage who k s
  | .recording _ => setOp (if s.ctl.draining then .recording none else .idle) s
  | .idle => s
  | .loading _ _ _ => s
  | .committing _ _ _ => s
  | .reading _ _ _ => s

/-- The operation with this record write under way. -/
def withRecord (w : RecordWrite) (op : StoreOp) : StoreOp :=
  match op with
  | .suspended who k _ => .suspended who k (some w)
  | .idle => .recording (some w)
  | .recording _ => .recording (some w)
  | .loading _ _ _ => .recording (some w)
  | .committing _ _ _ => .recording (some w)
  | .reading _ _ _ => .recording (some w)

/-- Begin the write of the oldest queued record; a record whose address phase the store does not
acknowledge is lost and the next one begins (R191). The list is the record queue. -/
def startRecords : List StoreRecord → State → State
  | [], s => recordsDone (onCtl (fun c => { c with queue := [] }) s)
  | r :: rest, s =>
    if ackOf s then
      popAck (onCtl (fun c => { c with queue := rest, op := withRecord ⟨r, recordWrite s r⟩ c.op }) s)
    else startRecords rest (popAck (onCtl (fun c => { faultRecord r c with queue := rest }) s))

/-- A Store Controller that is IDLE, or waits in RECORDING, with a record queued begins to write
(R184). -/
def startIfWaiting (s : State) : State :=
  if s.ctl.queue.isEmpty then s
  else
    match s.ctl.op with
    | .idle => startRecords s.ctl.queue (setOp (.recording none) s)
    | .recording none => startRecords s.ctl.queue s
    | .recording (some _) => s
    | .loading _ _ _ => s
    | .committing _ _ _ => s
    | .suspended _ _ _ => s
    | .reading _ _ _ => s

/-- A record is handed to the Store Controller (R190). Its write, or the first one's, begins at once
or at the end of the command, as the command's choices say (section 10.5). -/
def queueRecord (r : StoreRecord) (s : State) : State :=
  let s1 := onCtl (joinRecord r) s
  if s1.choices.lateStart then s1 else startIfWaiting s1

/-! ### The page write under way (R184) -/

/-- The page write under way. -/
def currentWrite : StoreOp → Option PageWrite
  | .committing _ _ w => some w
  | .suspended _ _ (some r) => some r.write
  | .recording (some r) => some r.write
  | .suspended _ _ none => none
  | .recording none => none
  | .idle => none
  | .loading _ _ _ => none
  | .reading _ _ _ => none

/-- The operation with its page write changed. -/
def mapWrite (f : PageWrite → PageWrite) : StoreOp → StoreOp
  | .committing who k w => .committing who k (f w)
  | .suspended who k (some r) => .suspended who k (some { r with write := f r.write })
  | .recording (some r) => .recording (some { r with write := f r.write })
  | .suspended who k none => .suspended who k none
  | .recording none => .recording none
  | .idle => .idle
  | .loading o st v => .loading o st v
  | .reading who n part => .reading who n part

/-- The write cycle ends: the store holds the octets, the write is complete. -/
def acknowledgeWrite (w : PageWrite) (s : State) : State :=
  { setOp (mapWrite (fun x => { x with done := true }) s.ctl.op) s with
    store := Memory.writeOctets s.store w.addr w.data }

/-- A page write that ends in a store fault leaves the residue in the store (R188, R191). -/
def leaveResidue (left : Residue) (s : State) : State :=
  match currentWrite s.ctl.op with
  | none => s
  | some w =>
    if w.done then s
    else { s with store := Memory.writeOctets s.store w.addr (residueOctets w.data left) }

/-- What the k-th page write of a commit may leave in its first two octets, so that the next loader finds what R194
says: after step 1 the stored signature as it was or one that is not 5C3A, after a page 0 that is not complete one
that is not 5C3A. -/
def signatureCut (k : Nat) (m : Memory) (l : List Octet) : Bool :=
  if k = 0 then word16At l 0 != 0x5C3A || word16At l 0 == word16At (Memory.readOctets m 0 2) 0
  else if k = 11 then word16At l 0 != 0x5C3A
  else true

/-- What a record's page write may leave (R194): a lock copy that is not valid. The octets left in a trip log slot may
happen to be those of a valid record, as R183 says. -/
def recordCut (l : List Octet) : StoreRecord → Bool
  | .trip _ => true
  | .lock sd _ _ _ => !lockCopyValid sd l

/-- Octets that the page write under way may leave where it is cut off before it completes (R194). -/
def mayLeave (op : StoreOp) (m : Memory) (l : List Octet) : Bool :=
  match op with
  | .committing _ k _ => signatureCut k m l
  | .recording (some r) => recordCut l r.record
  | .suspended _ _ (some r) => recordCut l r.record
  | .recording none => true
  | .suspended _ _ none => true
  | .idle => true
  | .loading _ _ _ => true
  | .reading _ _ _ => true

/-- The octets a page write cut off leaves (R194): the residue, or, where R194 leaves no such residue, those of the
write completed, which the store may do (log 25). -/
def cutOctets (op : StoreOp) (m : Memory) (w : PageWrite) (left : Residue) : List Octet :=
  if mayLeave op m (residueOctets w.data left) then residueOctets w.data left else w.data

/-- Loss of power or a pin reset cuts off the page write under way (R194). -/
def cutOff (left : Residue) (s : State) : State :=
  match currentWrite s.ctl.op with
  | none => s
  | some w =>
    if w.done then s
    else { s with store := Memory.writeOctets s.store w.addr (cutOctets s.ctl.op s.store w left) }

/-- A store fault ends the page write under way (R184): a commit ends (R188), a record is lost and
the next one begins (R191). -/
def faultWrite (s : State) : State :=
  match s.ctl.op with
  | .committing who k _ => failCommit who k s
  | .suspended _ _ (some r) => startRecords s.ctl.queue (onCtl (faultRecord r.record) s)
  | .recording (some r) => startRecords s.ctl.queue (onCtl (faultRecord r.record) s)
  | .suspended _ _ none => s
  | .recording none => s
  | .idle => s
  | .loading _ _ _ => s
  | .reading _ _ _ => s

/-! ### The frame of every command -/

/-- What every command ends with: a Store Controller with a record to write begins (R184), and the
command's choices are put away. -/
def settle (s : State) : State := { startIfWaiting s with choices := Choices.default }

/-- Run a command of the powered part with its choices; a part without power takes none (R194). -/
def runWith (ch : Choices) (f : State → State) (s : State) : Host.Outcome State Fault Refusal :=
  if s.powered then .next (settle (f { s with choices := ch })) else .next s

end Sys2Proof.Machine
end

