-- ==== Sys2Proof/Machine/Pumps.lean ====
section
/-! DEFINITION. The Pump Drive Unit's single-pump changes, side commands and extinction checks (R113
to R116, R127, R128). -/

namespace Sys2Proof.Machine

/-- Commanded drive of a channel. -/
def driveOf (u : PumpUnit) (n : Nat) : Word16 := u.drive.getD n 0

/-- The extinction check of a channel. -/
def checkOf (u : PumpUnit) (n : Nat) : Option Check := u.checks.getD n none

/-- The check a change to zero starts: the entry in force names an output monitor (R127). -/
def newCheck (t : TableMem) (n : Nat) : Option Check :=
  if assigned t n then
    (planOf t n).monitor.map fun m =>
      { monitor := m, offset := offsetOf t m, level := (planOf t n).extinct, limit := (planOf t n).limit,
        last := none }
  else none

/-- Start the extinction check of a channel, unless the latch is set (R127, R130). -/
def startCheck (t : TableMem) (n : Nat) (u : PumpUnit) : PumpUnit :=
  if u.latch then u
  else
    match newCheck t n with
    | none => u
    | some c => { u with checks := u.checks.set n (some c) }

/-- Bring one channel to zero; a change from above zero starts its check (R127). -/
def zeroOne (t : TableMem) (n : Nat) (u : PumpUnit) : PumpUnit :=
  if driveOf u n = 0 then u else startCheck t n { u with drive := u.drive.set n 0 }

/-- The channels above zero that name a channel as prerequisite, in descending order (R115). -/
def dependents (t : TableMem) (n : Nat) (u : PumpUnit) : List Nat :=
  ((ascending t fun e => e.prereq == some n).filter fun m => driveOf u m != 0).reverse

/-- Bring a channel to zero, each dependent before it, down the chain (R115). The first argument
bounds the chain by the number of channels. -/
def zeroChain (t : TableMem) : Nat → Nat → PumpUnit → PumpUnit
  | 0, n, u => zeroOne t n u
  | k + 1, n, u => zeroOne t n ((dependents t n u).foldl (fun u m => zeroChain t k m u) u)

/-- A command to zero for one channel. -/
def zeroPump (t : TableMem) (n : Nat) (u : PumpUnit) : PumpUnit := zeroChain t 8 n u

/-- Commands to zero for channels in turn. -/
def zeroPumps (t : TableMem) (l : List Nat) (u : PumpUnit) : PumpUnit :=
  l.foldl (fun u n => zeroPump t n u) u

/-- A channel's prerequisite stands at zero. -/
def prereqDark (t : TableMem) (n : Nat) (u : PumpUnit) : Bool :=
  match (planOf t n).prereq with
  | none => false
  | some q => driveOf u q == 0

/-- A raising command for one channel (R114, R115): applied as zero where it is not allowed, the
latch is set, the channel is unassigned or its prerequisite is dark. A raise withdraws the check
(R128). -/
def raisePump (t : TableMem) (allowed : Bool) (n : Nat) (level : Word16) (u : PumpUnit) : PumpUnit :=
  if allowed && !u.latch && assigned t n && !prereqDark t n u && level != 0 then
    { u with drive := u.drive.set n level, checks := u.checks.set n none }
  else zeroPump t n u

/-- The probe drive command of a side, in ascending order (R114). -/
def probeCommand (sd : Side) (s : State) : State :=
  onPdu (fun u => (probeLit s.tab sd).foldl
    (fun u n => raisePump s.tab (stateOf s sd == .probe) n (planOf s.tab n).probe u) u) s

/-- The full drive command for one pump of a side (R114). -/
def fullCommand (sd : Side) (n : Nat) (s : State) : State :=
  onPdu (raisePump s.tab (stateOf s sd == .ramp && assignedTo s.tab sd n) n (planOf s.tab n).full) s

/-- The zero command of a back-off, in descending order (R114). -/
def zeroCommand (sd : Side) (s : State) : State := onPdu (zeroPumps s.tab (probeLit s.tab sd).reverse) s

/-- The immediate cut of a side: every pump to zero in descending order; a stepdown sequence of the
side ends without completion (R69, R114, R121). -/
def immediateCut (sd : Side) (s : State) : State :=
  onPdu (fun u =>
    let v := zeroPumps s.tab (pumpsDown s.tab sd) u
    { v with stepdown := v.stepdown.set sd none }) s

/-- A reading judged by a running check: the fixed offset added, clipped (R127). -/
def judgedReading (c : Check) (reading : Word16) : Word16 := clipPower (reading.toInt + c.offset.toInt)

/-- Whether a check runs on an input and passes at a reading (R128). -/
def passes (input : Nat) (reading : Word16) (c : Option Check) : Bool :=
  match c with
  | none => false
  | some c => c.monitor == input && powerLt (judgedReading c reading) c.level

/-- A check after a reading of an input: gone where it passes, with its last judged reading where it
is judged and does not (R128, R129). -/
def judgeCheck (input : Nat) (reading : Word16) (c : Option Check) : Option Check :=
  match c with
  | none => none
  | some c =>
    if c.monitor = input then
      (if powerLt (judgedReading c reading) c.level then none
       else some { c with last := some (judgedReading c reading) })
    else some c

end Sys2Proof.Machine
end

