-- ==== Sys2Proof/Machine/SideCtl.lean ====
section
/-! DEFINITION. The side controller's moves (chapter 3): the clearing of R70, trips and counted
failures, entries to DARK and LISTEN, LOCKOUT, holds, and what each transition hands on. -/

namespace Sys2Proof.Machine

/-! ### Changes of the record alone -/

/-- The agreement record back at NONE: the settle count becomes 0, the rest is kept (R84). -/
def Agreement.left (a : Agreement) : Agreement := { a with state := .none, count := 0 }

/-- The clearing of R70, with every side timer stopped. -/
def SideRecord.cleared (r : SideRecord) : SideRecord :=
  { r with
    retry := none, settle := none, probe := none, stepWindow := none, proving := none, step := none
    ready := false, verified := false, mismatchRun := 0, lit := false, armed := false, late := false
    starved := false, rearm := 0, agree := r.agree.left }

/-- The lockout record after an entry to LOCKOUT or a new lockout (R171). -/
def LockRecord.entered (cause : Cause) (l : LockRecord) : LockRecord :=
  { locked := true, reason := cause, count := l.count + 1, arming := none }

/-- The side record after an entry to LOCKOUT (R171). -/
def SideRecord.lockedOut (cause : Cause) (r : SideRecord) : SideRecord :=
  { r.cleared with state := .lockout, reason := cause, lock := r.lock.entered cause }

/-- The side record after a move to DARK with this reason and retry timer (R53, R70). -/
def SideRecord.darkened (cause : Cause) (retry : Nat) (r : SideRecord) : SideRecord :=
  { r.cleared with state := .dark, reason := cause, retry := some retry }

/-- The side record after a move to HOLD (R58, R70). -/
def SideRecord.held (r : SideRecord) : SideRecord :=
  { r.cleared with state := .hold, reason := .hold }

/-- The side record on entry to LISTEN from DARK (R56, R84). -/
def SideRecord.listening (settle : Nat) (r : SideRecord) : SideRecord :=
  { r.cleared with
    state := .listen, settle := some settle
    agree := { r.agree with state := .settling, count := 0, far := none, mismatch := false } }

/-- A trip from this record is a counted failure (R71). -/
def SideRecord.counts (r : SideRecord) : Bool :=
  match r.state with
  | .probe => true
  | .ramp => true
  | .run => r.proving.isSome
  | .listen => false
  | .stepdown => false
  | .absent => false
  | .unconfigured => false
  | .lockout => false
  | .hold => false
  | .dark => false

/-! ### Records and notices handed on -/

/-- The trip record of a side as it stands (R76). -/
def tripRecordOf (sd : Side) (cause : Cause) (s : State) : TripRecord :=
  { side := some sd, cause := cause, left := some (stateOf s sd)
    far := match farView s sd with | none => 255 | some r => r.sender
    ownInput := rxValue s sd, ownOutput := (txReading s sd).getD minPower
    farInput := match farView s sd with | none => minPower | some r => r.measured
    view := s.hold.view }

/-- The lock record of a side as it stands (R182). -/
def lockRecordOf (sd : Side) (s : State) : StoreRecord :=
  let l := (s.side.get sd).lock
  .lock sd l.locked l.reason l.count

/-! ### Moves -/

/-- A side in DARK under a view that is not empty goes on to HOLD (R53). -/
def onToHold (sd : Side) (s : State) : State :=
  if stateOf s sd = .dark ∧ s.hold.view ≠ 0 then modSide sd SideRecord.held s else s

/-- Entry to DARK from a resting or waiting state, the reason kept (R53). -/
def enterDark (sd : Side) (retry : Nat) (s : State) : State :=
  onToHold sd (modSide sd (fun r => r.darkened r.reason retry) s)

/-- Entry to LOCKOUT with the effects of R171; `recorded` is the cause of the trip record. -/
def enterLockout (sd : Side) (cause recorded : Cause) (s : State) : State :=
  let t := tripRecordOf sd recorded s
  let s1 := modSide sd (SideRecord.lockedOut cause) s
  let s2 := if (stateOf s sd).lights then queueRecord (.trip t) (immediateCut sd s1) else s1
  sideNotice 114 sd cause .lockout (queueRecord (lockRecordOf sd s2) s2)

/-- A new lockout of a side already in LOCKOUT (R78, R171). -/
def newLockout (sd : Side) (cause : Cause) (s : State) : State :=
  let s1 := modSide sd (fun r => { r with reason := cause, lock := r.lock.entered cause }) s
  sideNotice 114 sd cause .lockout (queueRecord (lockRecordOf sd s1) s1)

/-- The exit of a lit side to DARK or HOLD with its record change: immediate cut, trip record,
SIDE-TRIP notice (R69, R75, R76). -/
def litExit (sd : Side) (cause : Cause) (entered : SideState) (f : SideRecord → SideRecord) (s : State) :
    State :=
  let t := tripRecordOf sd cause s
  sideNotice 112 sd cause entered (queueRecord (.trip t) (immediateCut sd (modSide sd f s)))

/-- A trip of a side in PROBE, RAMP or RUN (R61, R71, R72). -/
def tripLit (sd : Side) (cause : Cause) (s : State) : State :=
  let r := s.side.get sd
  let failures := r.failures ++ [s.time.uptime]
  if r.counts then
    if failures.length < hdrBudget s.tab.tables then
      onToHold sd (litExit sd cause .dark
        (fun r => { r.darkened cause (restartInterval s) with failures := failures }) s)
    else enterLockout sd .budget cause (modSide sd (fun r => { r with failures := failures }) s)
  else onToHold sd (litExit sd cause .dark (fun r => r.darkened cause (tripRest s)) s)

/-- A side in LISTEN leaves for DARK (R57). -/
def leaveListen (sd : Side) (cause : Cause) (retry : Nat) (s : State) : State :=
  onToHold sd (modSide sd (fun r => r.darkened cause retry) s)

/-- A trip cause of R57 and R61 to R64 at a side in LISTEN, PROBE, RAMP or RUN; NOTICE overtakes a
STEPDOWN (R177). -/
def tripEvent (cause : Cause) (sd : Side) (s : State) : State :=
  match stateOf s sd with
  | .listen => leaveListen sd cause (tripRest s) s
  | .probe => tripLit sd cause s
  | .ramp => tripLit sd cause s
  | .run => tripLit sd cause s
  | .stepdown => if cause = .notice then enterLockout sd .ordered .ordered s else s
  | .absent => s
  | .unconfigured => s
  | .lockout => s
  | .hold => s
  | .dark => s

/-- The retry timer of a side in DARK at a defer event (R149): restarted with the restart interval, but a
wait already longer is not shortened. -/
def deferredRetry (interval : Nat) (longer : Bool) (retry : Option Nat) : Option Nat :=
  match retry with
  | none => some interval
  | some n => if longer && decide (interval < n) then some n else some interval

/-- The defer event (R55, R57, R149). -/
def deferEvent (sd : Side) (s : State) : State :=
  match stateOf s sd with
  | .dark =>
    modSide sd (fun r => { r with retry := deferredRetry (restartInterval s) (waitsLonger s sd) r.retry }) s
  | .listen => leaveListen sd .defer (restartInterval s) s
  | .probe => s
  | .ramp => s
  | .run => s
  | .stepdown => s
  | .absent => s
  | .unconfigured => s
  | .lockout => s
  | .hold => s

/-- The conditions of R54. -/
def mayListen (s : State) (sd : Side) : Bool :=
  let p := s.ports.get sd
  stateOf s sd == .dark && !p.loss && p.condition != .withdrawn && !p.neighbour &&
    (s.side.get sd).retry.isNone && s.tab.validated && s.hold.view == 0 && !s.lines.trip.get sd

/-- A side in DARK judges the move to LISTEN (R54, R56). -/
def judgeDark (sd : Side) (s : State) : State :=
  if mayListen s sd then modSide sd (SideRecord.listening (hdrSettle s.tab.tables)) s else s

/-- Hold-begun at a side (R58, R177). -/
def holdBegun (sd : Side) (s : State) : State :=
  match stateOf s sd with
  | .dark => modSide sd SideRecord.held s
  | .listen => modSide sd SideRecord.held s
  | .probe => litExit sd .hold .hold SideRecord.held s
  | .ramp => litExit sd .hold .hold SideRecord.held s
  | .run => litExit sd .hold .hold SideRecord.held s
  | .stepdown => enterLockout sd .ordered .ordered s
  | .absent => s
  | .unconfigured => s
  | .lockout => s
  | .hold => s

/-- Hold-ended at a side (R59): HOLD goes to DARK; a side in DARK judges R54. -/
def holdEnded (sd : Side) (s : State) : State :=
  match stateOf s sd with
  | .hold => judgeDark sd (enterDark sd (tripRest s) s)
  | .dark => judgeDark sd s
  | .listen => s
  | .probe => s
  | .ramp => s
  | .run => s
  | .stepdown => s
  | .absent => s
  | .unconfigured => s
  | .lockout => s

/-- The cut event at a side (R78). -/
def cutEvent (sd : Side) (s : State) : State :=
  match stateOf s sd with
  | .absent => s
  | .lockout => newLockout sd .cut s
  | .dark => enterLockout sd .cut .cut s
  | .listen => enterLockout sd .cut .cut s
  | .probe => enterLockout sd .cut .cut s
  | .ramp => enterLockout sd .cut .cut s
  | .run => enterLockout sd .cut .cut s
  | .stepdown => enterLockout sd .cut .cut s
  | .unconfigured => enterLockout sd .cut .cut s
  | .hold => enterLockout sd .cut .cut s

/-- Uptime stamps older than the window leave the head of the list (R73). -/
def ageFailures (uptime : Word32) (windowSeconds : Nat) : List Word32 → List Word32
  | [] => []
  | x :: l =>
    if x.toNat + windowSeconds < uptime.toNat then ageFailures uptime windowSeconds l else x :: l

/-- Trim a failure list to fewer entries than a budget, oldest first (R36, R72). -/
def trimFailures (budget : Nat) (l : List Word32) : List Word32 := l.drop (l.length - (budget - 1))

/-- In LOCKOUT with reason BUDGET: the failure list is kept whole (R36, R72, R73). -/
def SideRecord.budgetHeld (r : SideRecord) : Bool := r.state == .lockout && r.reason == .budget

/-- Trim both sides' lists, but under a BUDGET lockout (R36, R72). -/
def trimSides (budget : Nat) (s : State) : State :=
  let f := fun r : SideRecord => if r.budgetHeld then r else { r with failures := trimFailures budget r.failures }
  modSide .west f (modSide .east f s)

end Sys2Proof.Machine
end

