-- ==== Sys2Proof/Machine/Stepdown.lean ====
section
/-! DEFINITION. The stepdown sequence (R117 to R121) and the STEPDOWN state (R176). -/

namespace Sys2Proof.Machine

/-- Set the sequence of a side. -/
def setStepdown (sd : Side) (d : Option Stepdown) (s : State) : State :=
  onPdu (fun u => { u with stepdown := u.stepdown.set sd d }) s

/-- The other present pumps of a side above zero that the same output monitor watches, in descending
order (R118). -/
def sharedPumps (t : TableMem) (sd : Side) (n m : Nat) (u : PumpUnit) : List Nat :=
  (pumpsDown t sd).filter fun k => k != n && (planOf t k).monitor == some m && driveOf u k != 0

/-- The step command to a monitored pump: zero, with the pumps that share its monitor; a pump already
at zero with no check running gets one (R118). -/
def stepZero (t : TableMem) (n : Nat) (shared : List Nat) (u : PumpUnit) : PumpUnit :=
  let v := zeroPump t n u
  let w := if (checkOf v n).isNone then startCheck t n v else v
  zeroPumps t shared w

/-- Begin the stepdown step of a pump, its progress event with it (R117, R118). -/
def beginStepdown (sd : Side) (n : Nat) (s : State) : State :=
  let e := planOf s.tab n
  let s1 := modSide sd (fun r => { r with step := some e.order }) s
  match e.monitor with
  | none => setStepdown sd (some ⟨n, .timer e.window⟩) (onPdu (zeroPump s.tab n) s1)
  | some m =>
    let shared := sharedPumps s.tab sd n m s.pdu
    setStepdown sd (some ⟨n, .checks (n :: shared)⟩) (onPdu (stepZero s.tab n shared) s1)

/-- Stepdown-complete: the sequence becomes idle and the side enters LOCKOUT with cause ORDERED
(R120, R176). -/
def completeStepdown (sd : Side) (s : State) : State :=
  let s1 := setStepdown sd none s
  if stateOf s1 sd = .stepdown then enterLockout sd .ordered .ordered s1 else s1

/-- The next lower order after a pump, or completion (R119, R120). -/
def nextStepdown (sd : Side) (n : Nat) (s : State) : State :=
  match (pumpsDown s.tab sd).find? fun k => decide ((planOf s.tab k).order < (planOf s.tab n).order) with
  | none => completeStepdown sd s
  | some k => beginStepdown sd k s

/-- The stepdown command (R117): from a side in another state than STEPDOWN it is an immediate cut. -/
def startStepdown (sd : Side) (s : State) : State :=
  if stateOf s sd = .stepdown then
    match pumpsDown s.tab sd with
    | [] => completeStepdown sd s
    | n :: _ => beginStepdown sd n s
  else immediateCut sd s

/-- RUN to STEPDOWN (R176). -/
def enterStepdown (sd : Side) (s : State) : State :=
  startStepdown sd (modSide sd (fun r => { r.cleared with state := .stepdown }) s)

/-- A step that waits for checks ends when the last of them has passed (R118). The first list holds
the channels whose checks a reading has just passed. -/
def stepdownPassed (passed : List Nat) (sd : Side) (s : State) : State :=
  match s.pdu.stepdown.get sd with
  | some ⟨n, .checks l⟩ =>
    if l.any (fun c => passed.contains c) && l.all (fun c => (checkOf s.pdu c).isNone) then nextStepdown sd n s
    else s
  | some ⟨_, .timer _⟩ => s
  | none => s

/-- The stepdown wait timer expires and its step ends (R118). -/
def stepdownWaited (sd : Side) (s : State) : State :=
  match s.pdu.stepdown.get sd with
  | some ⟨n, .timer _⟩ => nextStepdown sd n s
  | some ⟨_, .checks _⟩ => s
  | none => s

end Sys2Proof.Machine
end

