-- ==== Sys2Proof/Machine/Handshake.lean ====
section
/-! DEFINITION. The restart handshake (chapter 4): agreement, READY, pacing, probe, ramp, and what a
side judges against each far report. -/

namespace Sys2Proof.Machine

/-! ### Verification (R83) -/

/-- The result of the verification test. -/
inductive TestResult where
  | below
  | pass
  | outside
deriving DecidableEq, Repr

/-- The verification test of a far report against the own span entry (R83). -/
def verifyReport (e : SpanEntry) (output : Option Word16) (r : Report) : TestResult :=
  if powerLt r.measured e.light then .below
  else
    match output with
    | none => .pass
    | some o =>
      if o.toInt - e.lossMax ≤ r.measured.toInt ∧ r.measured.toInt ≤ o.toInt - e.lossMin then .pass
      else .outside

/-- The test as a side takes it now. -/
def verifyNow (s : State) (sd : Side) (r : Report) : TestResult :=
  verifyReport (spanOf s sd) (txReading s sd) r

/-! ### Entry to RUN and the ramp -/

/-- A dark input judged at a side in RUN (R66): excused under THROUGH-DARK, otherwise a trip. -/
def judgeDarkInput (sd : Side) (s : State) : State :=
  match farView s sd with
  | some r =>
    if r.throughDark then modSide sd (fun x => { x with starved := true }) s else tripLit sd .darkInput s
  | none => tripLit sd .darkInput s

/-- RAMP to RUN (R60). -/
def enterRun (sd : Side) (s : State) : State :=
  let s1 := modSide sd (fun r =>
    { r with state := .run, step := none, stepWindow := none, armed := false, late := false
             proving := some (hdrProving s.tab.tables) }) s
  let s2 := sideNotice 113 sd .none .run s1
  if darkHolds s2 sd then judgeDarkInput sd s2 else s2

/-- Begin the ramp step of a pump (R104). A full scan that has already ended will not arm it (R122). -/
def beginRampStep (sd : Side) (n : Nat) (s : State) : State :=
  fullCommand sd n (modSide sd (fun r =>
    { r with step := some (planOf s.tab n).order, stepWindow := some (planOf s.tab n).window
             mismatchRun := 0, armed := false, late := s.scan.done }) s)

/-- The first ramp step begins, or RUN is entered without pumps (R103). -/
def beginRamp (sd : Side) (s : State) : State :=
  match pumpsUp s.tab sd with
  | [] => enterRun sd s
  | n :: _ => beginRampStep sd n s

/-- The pump of the current ramp step. -/
def stepPump (s : State) (sd : Side) : Option Nat :=
  match (s.side.get sd).step with
  | none => none
  | some o => (pumpsUp s.tab sd).find? fun n => (planOf s.tab n).order == o

/-- A ramp step has begun: its step window runs (R103). -/
def stepBegun (s : State) (sd : Side) : Bool := (s.side.get sd).stepWindow.isSome

/-- The current step passes: the next higher order begins, or RUN is entered (R104). -/
def passStep (sd : Side) (n : Nat) (s : State) : State :=
  let s1 := modSide sd (fun r => { r with stepWindow := none }) s
  match (pumpsUp s.tab sd).find? fun k => decide ((planOf s.tab n).order < (planOf s.tab k).order) with
  | none => enterRun sd s1
  | some k => beginRampStep sd k s1

/-- The far view shows RAMP or RUN, at which a follower begins its first step (R103). -/
def leadRamps (s : State) (sd : Side) : Bool :=
  match farView s sd with
  | none => false
  | some r => r.shows .ramp || r.shows .run

/-- PROBE to RAMP (R100, R103). -/
def enterRamp (sd : Side) (s : State) : State :=
  let first := (pumpsUp s.tab sd).head?.map fun n => (planOf s.tab n).order
  let s1 := modSide sd (fun r =>
    { r with state := .ramp, probe := none, step := first, stepWindow := none, armed := false, late := false }) s
  if sd = .east ∨ leadRamps s1 sd = true then beginRamp sd s1 else s1

/-! ### PROBE -/

/-- Light the probe: probe drive to the probe-lit pumps (R97, R98). -/
def lightProbe (sd : Side) (s : State) : State :=
  probeCommand sd (modSide sd (fun r => { r with lit := true }) s)

/-- The far view shows VERIFIED. -/
def farVerified (s : State) (sd : Side) : Bool :=
  match farView s sd with
  | none => false
  | some r => r.verified

/-- LISTEN to PROBE (R94, R97, R98): the lead lights at once, the follower when its far view shows
VERIFIED. -/
def enterProbe (sd : Side) (s : State) : State :=
  let s1 := modSide sd (fun r =>
    { r with state := .probe, probe := some r.agree.duration.toNat, verified := false
             mismatchRun := 0, step := none, lit := false, armed := false }) s
  if sd = .east ∨ farVerified s1 sd = true then lightProbe sd s1 else s1

/-- The lead's conditions for PROBE (R94), the follower's (R98). -/
def mayProbe (s : State) (sd : Side) : Bool :=
  stateOf s sd == .listen && (s.side.get sd).ready &&
    match farView s sd, sd with
    | none, _ => false
    | some r, .east =>
      r.shows .listen && r.ready && decide (pacingCount s < hdrLimit s.tab.tables)
    | some r, .west => r.shows .probe

/-- Judge the move to PROBE. -/
def judgeProbe (sd : Side) (s : State) : State := if mayProbe s sd then enterProbe sd s else s

/-- The four conditions of READY (R91). -/
def readyConditions (s : State) (sd : Side) : Bool :=
  let r := s.side.get sd
  r.settle.isNone && r.agree.state == .settled && (s.ports.get sd).condition == .clear &&
    !s.lines.trip.get sd

/-- A side in LISTEN sets READY when the conditions hold, and then judges the move to PROBE (R91, R94,
R98). -/
def judgeReady (sd : Side) (s : State) : State :=
  if stateOf s sd = .listen ∧ readyConditions s sd = true then
    judgeProbe sd (modSide sd (fun r => { r with ready := true }) s)
  else s

/-- The back-off from PROBE to LISTEN (R95, R96): the probe goes dark, READY is judged afresh. -/
def backOff (sd : Side) (s : State) : State :=
  let s1 := zeroCommand sd (modSide sd (fun r =>
    { r with state := .listen, reason := .backOff, probe := none, verified := false, mismatchRun := 0
             lit := false }) s)
  modSide sd (fun r => { r with ready := readyConditions s1 sd }) s1

/-- The lead judges pacing at a change of its route view (R94, R95). -/
def leadJudge (s : State) : State :=
  match stateOf s .east with
  | .listen => judgeProbe .east s
  | .probe =>
    if (s.side.get .east).verified then s
    else if hdrLimit s.tab.tables ≤ lowerSpanCount s then backOff .east s
    else s
  | .absent => s
  | .unconfigured => s
  | .lockout => s
  | .hold => s
  | .dark => s
  | .ramp => s
  | .run => s
  | .stepdown => s

/-- An event taken by a side controller. A change of the West side's state changes the lead's route
view (R94, R95), which the lead judges before it takes its own copy of an event handed to both sides: the
spec leaves the order open, and this one is the model's choice (log 38). -/
def sideEvent (f : Side → State → State) (sd : Side) (s : State) : State :=
  let t := f sd s
  if sd = .west ∧ stateOf t .west ≠ stateOf s .west then leadJudge t else t

/-! ### Agreement (R84 to R90, R109 to R111) -/

/-- The own values of a side. -/
def ownAdvert (s : State) (sd : Side) : Advert :=
  let e := spanOf s sd
  { probe := e.probe, launch := e.launch, duration := e.duration, edition := hdrEdition s.tab.tables,
    agreedMode := e.agreed }

/-- The conditions of R87 under which an advertisement is refused. -/
def refuses (own far : Advert) : Bool :=
  far.agreedMode != own.agreedMode || decide (far.duration.toNat < 10) || decide (100 < far.duration.toNat) ||
    powerLt far.launch far.probe

/-- The longer of two durations. -/
def longer (a b : Octet) : Octet := if a.toNat < b.toNat then b else a

/-- The resolution of the agreement (R87, R88, R89). -/
def resolve (own far : Advert) (a : Agreement) : Agreement :=
  let m := far.edition != own.edition
  if refuses own far then { a with state := .refused, mismatch := m }
  else if own.agreedMode then
    { a with
      state := .settled, mismatch := m, probe := powerMin own.probe far.probe
      launch := powerMin own.launch far.launch, duration := longer own.duration far.duration }
  else if far.probe = own.probe ∧ far.launch = own.launch ∧ far.duration = own.duration ∧ far.edition = own.edition then
    { a with state := .settled, mismatch := m, probe := own.probe, launch := own.launch, duration := own.duration }
  else { a with state := .refused, mismatch := m }

/-- An agreement that is SETTLED or REFUSED becomes SETTLING (R85, R86). -/
def unsettle (st : AgreementState) : AgreementState :=
  match st with
  | .settled => .settling
  | .refused => .settling
  | .settling => .settling
  | .none => .none

/-- The agreement after a far report taken in LISTEN (R85, R86). -/
def agreeReport (own : Advert) (r : Report) (a : Agreement) : Agreement :=
  if !r.advertising then { a with far := none, count := 0, state := unsettle a.state }
  else if a.far = some r.advert then
    let b := { a with count := min 16 (a.count + 1) }
    if b.count = 16 ∧ b.state = .settling then resolve own r.advert b else b
  else { a with far := some r.advert, count := 0, state := unsettle a.state }

/-- A far report taken in LISTEN (R85, R86, R91, R94, R98). -/
def listenReport (sd : Side) (r : Report) (s : State) : State :=
  let s1 := modSide sd (fun x =>
    let a := agreeReport (ownAdvert s sd) r x.agree
    { x with agree := a, ready := x.ready && a.state == .settled }) s
  judgeProbe sd (judgeReady sd s1)

/-- The advertisement of a report taken in PROBE, RAMP or RUN (R109 to R111): true where it trips the
side with MISMATCH. -/
def advertTrips (own : Advert) (r : Report) (a : Agreement) : Bool :=
  a.far != some r.advert && (!own.agreedMode || refuses own r.advert)

/-- The agreement after a differing advertisement under AGREED mode (R110). -/
def lowerAgreement (own : Advert) (r : Report) (a : Agreement) : Agreement :=
  if a.far = some r.advert then a
  else
    { a with
      far := some r.advert, probe := powerMin a.probe r.probe, launch := powerMin a.launch r.launch
      mismatch := r.edition != own.edition }

/-! ### Far reports while active -/

/-- Count one outside result; the eighth trips the side (R99, R105). -/
def countOutside (sd : Side) (s : State) : State :=
  if (s.side.get sd).mismatchRun + 1 < 8 then
    modSide sd (fun x => { x with mismatchRun := x.mismatchRun + 1 }) s
  else tripLit sd .mismatch (modSide sd (fun x => { x with mismatchRun := x.mismatchRun + 1 }) s)

/-- Step 6 of R102: the lead goes to RAMP when both ends are verified (R100). -/
def leadToRamp (sd : Side) (s : State) : State :=
  if sd = .east ∧ stateOf s sd = .probe ∧ (s.side.get sd).verified = true ∧ farVerified s sd = true then
    enterRamp sd s
  else s

/-- Step 5 of R102: the verification test in PROBE (R99); a follower goes to RAMP as it verifies. -/
def probeTest (sd : Side) (r : Report) (s : State) : State :=
  if (s.side.get sd).verified then s
  else
    match verifyNow s sd r with
    | .pass =>
      let s1 := modSide sd (fun x => { x with verified := true, mismatchRun := 0 }) s
      if sd = .west then enterRamp sd s1 else s1
    | .outside => countOutside sd s
    | .below => modSide sd (fun x => { x with mismatchRun := 0 }) s

/-- Steps 3 to 6 of R102. -/
def probeAgreed (sd : Side) (r : Report) (s : State) : State :=
  if advertTrips (ownAdvert s sd) r (s.side.get sd).agree then tripLit sd .mismatch s
  else
    let s1 := modSide sd (fun x => { x with agree := lowerAgreement (ownAdvert s sd) r x.agree }) s
    if (s.side.get sd).lit then leadToRamp sd (probeTest sd r s1)
    else if r.verified then lightProbe sd s1
    else s1

/-- A far report taken in PROBE (R102). -/
def probeReport (sd : Side) (r : Report) (s : State) : State :=
  match sd with
  | .east =>
    if r.shows .listen || r.shows .probe || r.shows .ramp then probeAgreed sd r s else tripLit sd .farDark s
  | .west =>
    if r.shows .listen then backOff sd s
    else if r.shows .probe || r.shows .ramp then probeAgreed sd r s
    else tripLit sd .farDark s

/-- Step 5 of R108: an armed FAR-INPUT step judges the report (R105). -/
def rampTest (sd : Side) (r : Report) (s : State) : State :=
  match stepPump s sd with
  | none => s
  | some n =>
    if (s.side.get sd).armed && stepBegun s sd && (planOf s.tab n).check == .farInput then
      match verifyNow s sd r with
      | .pass => passStep sd n s
      | .outside => countOutside sd s
      | .below => modSide sd (fun x => { x with mismatchRun := 0 }) s
    else s

/-- A far report taken in RAMP (R108). -/
def rampReport (sd : Side) (r : Report) (s : State) : State :=
  if r.shows .probe || r.shows .ramp || r.shows .run then
    if advertTrips (ownAdvert s sd) r (s.side.get sd).agree then tripLit sd .mismatch s
    else
      let s1 := modSide sd (fun x => { x with agree := lowerAgreement (ownAdvert s sd) r x.agree }) s
      if stepBegun s sd then rampTest sd r s1
      else if r.shows .ramp || r.shows .run then beginRamp sd s1
      else s1
  else tripLit sd .farDark s

/-- What a far report does to starvation (R67): the excuse ends and the re-arm begins, or the excuse
returns during a re-arm. -/
def starvedReport (sd : Side) (r : Report) (s : State) : State :=
  let x := s.side.get sd
  if x.starved then
    (if r.throughDark then s else modSide sd (fun x => { x with starved := false, rearm := 0 }) s)
  else if inRearm s sd && r.throughDark then modSide sd (fun x => { x with starved := true, rearm := 0 }) s
  else s

/-- A far report taken in RUN (R62, R109, R67). -/
def runReport (sd : Side) (r : Report) (s : State) : State :=
  if r.shows .ramp || r.shows .run || r.shows .stepdown then
    if advertTrips (ownAdvert s sd) r (s.side.get sd).agree then tripLit sd .mismatch s
    else
      starvedReport sd r
        (modSide sd (fun x => { x with agree := lowerAgreement (ownAdvert s sd) r x.agree }) s)
  else tripLit sd .farDark s

/-- A far report taken by a side, already its far view (R49). -/
def farReport (r : Report) (sd : Side) (s : State) : State :=
  match stateOf s sd with
  | .listen => listenReport sd r s
  | .probe => probeReport sd r s
  | .ramp => rampReport sd r s
  | .run => runReport sd r s
  | .absent => s
  | .unconfigured => s
  | .lockout => s
  | .hold => s
  | .dark => s
  | .stepdown => s

/-! ### Scan results and detections at a side -/

/-- A dark detection begins (R66). -/
def darkBegun (sd : Side) (s : State) : State :=
  if stateOf s sd = .run then judgeDarkInput sd s else s

/-- A dark detection ends (R67, R68). -/
def darkEnded (sd : Side) (s : State) : State :=
  if stateOf s sd = .run then modSide sd (fun x => { x with starved := false, rearm := 0 }) s else s

/-- A scan result of the RX INPUT monitor during a re-arm (R67). -/
def rearmScan (value : Word16) (sd : Side) (s : State) : State :=
  if powerLt value (spanOf s sd).dark then
    if (s.side.get sd).rearm + 1 < hdrHoldOff s.tab.tables then
      modSide sd (fun x => { x with rearm := x.rearm + 1 }) s
    else tripLit sd .darkInput s
  else modSide sd (fun x => { x with rearm := 0 }) s

/-- The ceiling of a side (R65), in RAMP and RUN the launch limit, in PROBE the probe level, plus
0.50 dB; none in other states. -/
def ceiling (r : SideRecord) : Option Int :=
  match r.state with
  | .probe => some (r.agree.probe.toInt + 50)
  | .ramp => some (r.agree.launch.toInt + 50)
  | .run => some (r.agree.launch.toInt + 50)
  | .listen => none
  | .stepdown => none
  | .absent => none
  | .unconfigured => none
  | .lockout => none
  | .hold => none
  | .dark => none

/-- A result within expected output plus or minus 1.00 dB (R106). -/
def withinExpected (e : PumpEntry) (value : Word16) : Bool :=
  decide (e.expected.toInt - 100 ≤ value.toInt) && decide (value.toInt ≤ e.expected.toInt + 100)

/-- A scan result of the step pump's output monitor arms the step and judges it (R104, R106). -/
def stepScan (input : Nat) (value : Word16) (sd : Side) (s : State) : State :=
  match stepPump s sd with
  | none => s
  | some n =>
    if stateOf s sd = .ramp ∧ stepBegun s sd = true ∧ (planOf s.tab n).monitor = some input then
      let s1 := modSide sd (fun x => { x with armed := true }) s
      match (planOf s.tab n).check with
      | .free => passStep sd n s1
      | .ownOutput => if withinExpected (planOf s.tab n) value then passStep sd n s1 else s1
      | .farInput => s1
    else s

/-- A scan result of an OUTPUT monitor at its side (R65, R104, R106). One result both above the ceiling
and within the step's check is judged against the ceiling first: the model's choice (log 39). -/
def outputScan (input : Nat) (value : Word16) (sd : Side) (s : State) : State :=
  match ceiling (s.side.get sd) with
  | none => s
  | some c => if c < value.toInt then tripLit sd .overLevel s else stepScan input value sd s

/-- The completion of a full scan that ended after the step began, at a side: it arms, and so passes, a
step whose pump has no output monitor (R104, R106). -/
def armByScan (sd : Side) (s : State) : State :=
  match stepPump s sd with
  | none => s
  | some n =>
    if stateOf s sd = .ramp ∧ stepBegun s sd = true ∧ (planOf s.tab n).monitor = none ∧
        (planOf s.tab n).check = .free then
      passStep sd n (modSide sd (fun x => { x with armed := true }) s)
    else s

/-- The completion of a full scan at a side (R104, R122): a scan that ended before the step began arms
nothing, and the next one will. -/
def scanCompleted (sd : Side) (s : State) : State :=
  if (s.side.get sd).late then modSide sd (fun x => { x with late := false }) s else armByScan sd s

/-! ### Port events at a side -/

/-- DEGRADED begun clears READY in LISTEN (R91). -/
def degradedBegun (sd : Side) (s : State) : State :=
  if stateOf s sd = .listen then modSide sd (fun r => { r with ready := false }) s else s

/-- The event of a change of condition (R8, R54, R57, R61, R91). -/
def conditionEvent (old new : PortCondition) (sd : Side) (s : State) : State :=
  match old, new with
  | .clear, .clear => s
  | .degraded, .degraded => s
  | .withdrawn, .withdrawn => s
  | _, .withdrawn => tripEvent .withdrawn sd s
  | _, .degraded => degradedBegun sd s
  | .degraded, .clear => judgeReady sd s
  | .withdrawn, .clear => judgeDark sd s

end Sys2Proof.Machine
end

