-- ==== Sys2Proof/Machine/Holds.lean ====
section
/-! DEFINITION. The Hold Unit's recomputations (R135, R138 to R140) and the Notice Filter (R145 to
R150). -/

namespace Sys2Proof.Machine

/-! ### The Hold Unit -/

/-- The set that holds the own position alone. -/
def ownBit (s : State) : PosSet := (1 : PosSet) <<< pos s

/-- The obeyed hold view as R139 computes it; the own bit of a received set is left out (R138). -/
def viewOf (s : State) : PosSet :=
  (((s.hold.sets.west ||| s.hold.sets.east) &&& ~~~(ownBit s)) ||| (if s.hold.own then ownBit s else 0)) &&&
    obeySet s

/-- Recompute the view; a change between empty and non-empty goes to both sides (R139, R140). -/
def recomputeView (s : State) : State :=
  let v := viewOf s
  if v = s.hold.view then s
  else
    let t := { s with hold := { s.hold with view := v } }
    if s.hold.view = 0 then bothSides (sideEvent holdBegun) t
    else if v = 0 then bothSides (sideEvent holdEnded) t
    else t

/-- Recompute the own hold bit; a change recomputes the view (R135). -/
def recomputeOwn (s : State) : State :=
  let b := s.hold.request || s.lines.hold
  if b = s.hold.own then s else recomputeView { s with hold := { s.hold with own := b } }

/-- The own hold request flag takes a value (R136). -/
def setHoldRequest (b : Bool) (s : State) : State :=
  recomputeOwn { s with hold := { s.hold with request := b } }

/-- The HOLD line takes a level (R137). -/
def setHoldLine (b : Bool) (s : State) : State :=
  recomputeOwn { s with lines := { s.lines with hold := b } }

/-- The Hold Unit takes the last hold set of a port record as its west or east set (R138). -/
def takeHoldSet (sd : Side) (s : State) : State :=
  recomputeView { s with hold := { s.hold with sets := s.hold.sets.set sd (s.ports.get sd).holdSet } }

/-! ### The Notice Filter -/

/-- The action on a notice copy: the first matching entry's, or delivery (R147). -/
def noticeAction (s : State) (m : Message) : Action :=
  match (acceptsInForce s).find? fun e => e.accepts m.source m.kind with
  | none => .deliver
  | some e => e.action

/-- Deliver a copy to the local port (R150). -/
def deliverCopy (m : Message) (s : State) : State := onMsg (deliver { msg := m, resetDone := false }) s

/-- The Notice Filter takes a copy (R147 to R150). ACT-TRIP reaches West first and East second. The copy
joins the local delivery queue after the notices the sides make, and the lead judges West's move before it
takes its own trip: the spec gives neither order, and both are the model's choice (logs 38, 40). -/
def filterNotice (m : Message) (s : State) : State :=
  match noticeAction s m with
  | .trip => deliverCopy m (sideEvent (tripEvent .notice) .east (sideEvent (tripEvent .notice) .west s))
  | .defer => deliverCopy m (bothSides (sideEvent deferEvent) s)
  | .deliver => deliverCopy m s
  | .discard => s

end Sys2Proof.Machine
end

