-- ==== Sys2Proof/Machine/Validation.lean ====
section
/-! DEFINITION. The ranges of table fields (R34), the cross-table checks (R39, R40), the clearing of
the tables validated flag (R29, R113, R125), validation (R43) and the ABSENT sides (R44). -/

namespace Sys2Proof.Machine

/-! ### Ranges -/

/-- A field of a table entry with its range: one or two octets, signed or not, and whether 255 stands
for none. -/
structure FieldSpec where
  off : Nat
  wide : Bool
  signed : Bool
  lo : Int
  hi : Int
  noneOk : Bool
deriving DecidableEq, Repr

/-- One octet. -/
def octetField (off : Nat) (lo hi : Int) : FieldSpec := ⟨off, false, false, lo, hi, false⟩
/-- One octet, or 255 for none. -/
def optionField (off : Nat) (lo hi : Int) : FieldSpec := ⟨off, false, false, lo, hi, true⟩
/-- Two octets, unsigned. -/
def wordField (off : Nat) (lo hi : Int) : FieldSpec := ⟨off, true, false, lo, hi, false⟩
/-- Two octets, signed. -/
def signedField (off : Nat) (lo hi : Int) : FieldSpec := ⟨off, true, true, lo, hi, false⟩
/-- A power, −60.00..+33.00 dBm. -/
def powerField (off : Nat) : FieldSpec := signedField off (-6000) 3300

/-- The value of a field in an entry. -/
def FieldSpec.value (f : FieldSpec) (e : List Octet) : Int :=
  if f.wide then (if f.signed then (word16At e f.off).toInt else ((word16At e f.off).toNat : Int))
  else ((octetAt e f.off).toNat : Int)

/-- Whether a field lies in its range. -/
def FieldSpec.inRange (f : FieldSpec) (e : List Octet) : Bool :=
  (f.noneOk && f.value e == 255) || (decide (f.lo ≤ f.value e) && decide (f.value e ≤ f.hi))

/-- The fields of the six tables in ascending octet order (sections 2.2 to 2.7). -/
def fieldsOf (table : Nat) : List FieldSpec :=
  match table with
  | 1 => [wordField 0 1 65535, octetField 2 2 32, octetField 3 4 64, wordField 4 1 600, octetField 6 1 60,
      wordField 7 10 3600, octetField 9 1 15, wordField 10 10 1440, octetField 12 1 4, octetField 13 1 16,
      wordField 14 10 600, octetField 16 0 1]
  | 2 => [wordField 0 0 4500, wordField 2 0 4500, powerField 4, powerField 6, powerField 8,
      octetField 10 10 100, powerField 11, octetField 13 0 1]
  | 3 => [octetField 0 0 1, octetField 1 0 1, octetField 2 0 1, octetField 3 1 8, wordField 4 1 4095,
      wordField 6 0 4095, optionField 8 0 7, octetField 9 0 2, powerField 10, wordField 12 50 5000,
      optionField 14 0 7, octetField 15 1 50, powerField 16]
  | 4 => [octetField 0 0 1, octetField 1 0 3, octetField 2 0 1, signedField 3 (-1000) 1000]
  | 5 => [octetField 0 0 1, octetField 1 0 31, octetField 2 0 31, octetField 3 0 15, octetField 4 0 3]
  | 6 => [octetField 8 0 2]
  | _ => []

/-- Tables whose entries begin with a present octet. -/
def hasPresent (table : Nat) : Bool := table == 3 || table == 4 || table == 5

/-- Offset of the first field outside its range; an entry whose present octet is 0 is judged on that
octet alone (R34). -/
def firstBadField (table : Nat) (e : List Octet) : Option Nat :=
  if hasPresent table && octetAt e 0 == 0 then none
  else ((fieldsOf table).find? fun f => !f.inRange e).map FieldSpec.off

/-! ### The checks of R39 -/

/-- The sides that are not ABSENT (R40). -/
def presentSides (p : Nat) (t : Tables) : List Side :=
  [Side.west, Side.east].filter fun sd => !absentUnder p (hdrLength t) sd

/-- Span number of a side at a position. -/
def spanAt (p : Nat) : Side → Nat
  | .west => p
  | .east => p + 1

/-- The consulted span entries. -/
def consultedSpans (p : Nat) (t : Tables) : List Nat := (presentSides p t).map (spanAt p)

/-- The present entries of a table of eight. -/
def presentIn (l : List (List Octet)) : List Nat := eight.filter fun n => octetAt (entryAt l n) 0 != 0

/-- The first failing entry of one check. -/
def checkAll (table code : Nat) (indices : List Nat) (bad : Nat → Bool) : Option CheckFailure :=
  (indices.find? bad).map fun n => ⟨natOctet table, natOctet n, natOctet code⟩

/-- Pump n of a table set. -/
def pumpIn (t : Tables) (n : Nat) : PumpEntry := pumpEntryOf (entryAt t.pumps n)

/-- Monitor n of a table set. -/
def monitorIn (t : Tables) (n : Nat) : MonitorEntry := monitorEntryOf (entryAt t.monitors n)

/-- An entry of a table has a field outside its range. -/
def outOfRange (table : Nat) (e : List Octet) : Bool := (firstBadField table e).isSome

/-- PREREQUISITE (check 10). -/
def badPrereq (t : Tables) (n : Nat) : Bool :=
  match (pumpIn t n).prereq with
  | none => false
  | some q =>
    !(pumpIn t q).present || (pumpIn t q).side != (pumpIn t n).side ||
      decide ((pumpIn t n).order ≤ (pumpIn t q).order)

/-- PROBE-PREREQUISITE (check 11). -/
def badProbePrereq (t : Tables) (n : Nat) : Bool :=
  match (pumpIn t n).prereq with
  | none => false
  | some q => (pumpIn t n).probe != 0 && (pumpIn t q).probe == 0

/-- OUTPUT-MONITOR (check 13). -/
def badOutputMonitor (t : Tables) (n : Nat) : Bool :=
  match (pumpIn t n).monitor with
  | none => (pumpIn t n).check != .free
  | some m =>
    !(monitorIn t m).present || !(monitorIn t m).output || (monitorIn t m).side != (pumpIn t n).side ||
      (monitorIn t m).tx != (pumpIn t n).tx

/-- The present INPUT monitors on the RX face of a side. -/
def inputsOn (t : Tables) (sd : Side) : List Nat :=
  eight.filter fun n =>
    (monitorIn t n).present && !(monitorIn t n).output && !(monitorIn t n).tx && (monitorIn t n).side == sd

/-- INPUT-DUPLICATE (check 17): an input that follows another on the same RX face. -/
def duplicateInput (p : Nat) (t : Tables) (n : Nat) : Bool :=
  (presentSides p t).any fun sd => (inputsOn t sd).contains n && (inputsOn t sd).head? != some n

/-- The checks of R39 in their order; the first failure, if any. -/
def runChecks (p : Nat) (t : Tables) : Option CheckFailure :=
  let spans := consultedSpans p t
  let pumps := presentIn t.pumps
  let monitors := presentIn t.monitors
  let absent := fun sd => absentUnder p (hdrLength t) sd
  [ checkAll 1 1 [0] (fun _ => outOfRange 1 t.header),
    checkAll 1 2 [0] (fun _ => decide (hdrLength t ≤ p)),
    checkAll 2 1 spans (fun k => outOfRange 2 (entryAt t.spans (k - 1))),
    checkAll 3 1 pumps (fun n => outOfRange 3 (entryAt t.pumps n)),
    checkAll 4 1 monitors (fun n => outOfRange 4 (entryAt t.monitors n)),
    checkAll 5 1 (presentIn t.accepts) (fun n => outOfRange 5 (entryAt t.accepts n)),
    checkAll 6 1 [0] (fun _ => outOfRange 6 t.site),
    checkAll 2 3 spans (fun k => decide ((spanEntry t k).lossMax < (spanEntry t k).lossMin)),
    checkAll 2 4 spans (fun k => !powerLt (spanEntry t k).dark (spanEntry t k).light),
    checkAll 2 5 spans (fun k => powerLt (spanEntry t k).launch (spanEntry t k).probe),
    checkAll 3 6 pumps (fun n => absent (pumpIn t n).side),
    checkAll 3 7 pumps (fun n => pumps.any fun m =>
      decide (m < n) && (pumpIn t m).side == (pumpIn t n).side && (pumpIn t m).order == (pumpIn t n).order),
    checkAll 3 8 pumps (fun n => decide ((pumpIn t n).full.toNat < (pumpIn t n).probe.toNat) ||
      (!(pumpIn t n).tx && (pumpIn t n).probe != 0)),
    checkAll 3 9 pumps (badPrereq t),
    checkAll 3 10 pumps (badProbePrereq t),
    checkAll 3 11 pumps (fun n => !(pumpIn t n).tx && (pumpIn t n).check == .farInput),
    checkAll 3 12 pumps (badOutputMonitor t),
    checkAll 4 13 monitors (fun n => absent (monitorIn t n).side),
    checkAll 4 14 monitors (fun n => !(monitorIn t n).output && (monitorIn t n).tx),
    ((presentSides p t).find? fun sd => (inputsOn t sd).isEmpty).map
      (fun sd => ⟨2, natOctet (spanAt p sd), 15⟩),
    checkAll 4 16 monitors (duplicateInput p t) ].findSome? id

/-! ### Clearing the flag -/

/-- Every dark detection not holding with count 0 (R125). -/
def noDark : List Dark := List.replicate 8 ⟨false, 0⟩

/-- The end of a detection that held is handed to its side (R125). -/
def endDark (held : Bool) (sd : Side) (s : State) : State := if held then sideEvent darkEnded sd s else s

/-- The tables validated flag is cleared (R28, R29): channels that become unassigned go to zero
(R113), the detections end (R125), the view is recomputed (R139). -/
def clearFlag (s : State) : State :=
  if s.tab.validated then
    let above := eight.filter fun n => driveOf s.pdu n != 0
    let t := onPdu (zeroPumps s.tab above) s
    let u := { t with tab := { t.tab with validated := false }, scan := { t.scan with dark := noDark } }
    recomputeView (endDark (darkHolds s .east) .east (endDark (darkHolds s .west) .west u))
  else s

/-! ### ABSENT sides -/

/-- The move out of UNCONFIGURED or ABSENT at a validation: to LOCKOUT with its own reason where the
record says locked (R43, R44, R171); otherwise to DARK with the trip rest, which the latch turns into a
move to LOCKOUT with reason CUT (R79). -/
def configure (sd : Side) (s : State) : State :=
  if (s.side.get sd).lock.locked then
    enterLockout sd (s.side.get sd).lock.reason (s.side.get sd).lock.reason s
  else if s.pdu.latch then enterLockout sd .cut .cut s
  else enterDark sd (tripRest s) s

/-- The reason after a move that R48 gives no cause: UNCONFIGURED and LOCKOUT keep theirs, being steps
forward; a move from another state writes a free value (log 14). -/
def moveReason (s : State) (sd : Side) : Cause :=
  match stateOf s sd with
  | .unconfigured => (s.side.get sd).reason
  | .lockout => (s.side.get sd).reason
  | .absent => Config.unstatedCause s.free
  | .hold => Config.unstatedCause s.free
  | .dark => Config.unstatedCause s.free
  | .listen => Config.unstatedCause s.free
  | .probe => Config.unstatedCause s.free
  | .ramp => Config.unstatedCause s.free
  | .run => Config.unstatedCause s.free
  | .stepdown => Config.unstatedCause s.free

/-- The side record as the side becomes ABSENT (R44). -/
def SideRecord.gone (reason : Cause) (r : SideRecord) : SideRecord :=
  { r.cleared with
    state := .absent, reason := reason, failures := [], lock := { r.lock with arming := none } }

/-- The port record takes its reset values and the hold set with it (R23, R138); the port's own
transmitter runs its frame timer as the other port's record says, and not as a route-end port. -/
def restartPort (sd : Side) (s : State) : State :=
  let t := setPort sd PortRecord.reset s
  takeHoldSet sd (modTx sd (fun x => { x with frameTimer := originating t sd && !isAbsent t sd }) t)

/-- A side becomes ABSENT (R44) and its port a route-end port: waiting departures and the outbound
queue are discarded (R23, R156). -/
def becomeAbsent (sd : Side) (s : State) : State :=
  let s1 := modSide sd (SideRecord.gone (moveReason s sd)) (nextFree s)
  let s2 := if (stateOf s sd).lights then immediateCut sd s1 else s1
  let s3 := if stateOf s sd = .lockout then queueRecord (lockRecordOf sd s2) s2 else s2
  let s4 := modTx sd (fun x => { x with transit := [] }) (onMsg (emptyQueue sd) s3)
  restartPort sd s4

/-- A side leaves ABSENT (R44); its port starts again from the reset values (R23). -/
def leaveAbsent (sd : Side) (s : State) : State := restartPort sd (configure sd s)

/-- One side judged against the working route length (R44). -/
def judgeAbsent (sd : Side) (s : State) : State :=
  match isAbsent s sd, absentUnder (pos s) (hdrLength s.tab.tables) sd with
  | false, true => becomeAbsent sd s
  | true, false => leaveAbsent sd s
  | true, true => s
  | false, false => s

/-- Step 4 of R43 at one side. -/
def judgeUnconfigured (sd : Side) (s : State) : State :=
  if stateOf s sd = .unconfigured then configure sd s else s

/-! ### Validation -/

/-- Steps 1 and 2 of R43: the flag, the values in force, the rate, the view; counting of dark results
starts afresh (R125). -/
def bringInForce (s : State) : State :=
  recomputeView
    { s with
      tab := { s.tab with validated := true }
      scan := { s.scan with dark := noDark }
      loc := { s.loc with rateInForce := siteRate s.tab.tables } }

/-- Steps 3 and 4 of R43. -/
def moveSides (s : State) : State :=
  bothSides (sideEvent judgeUnconfigured) (bothSides (sideEvent judgeAbsent) s)

/-- The success of the checks (R43); nothing more where the flag was already set. -/
def validate (s : State) : State :=
  if s.tab.validated then s else bothSides (sideEvent judgeDark) (moveSides (bringInForce s))

/-- One if two states of a side differ. -/
def movedOne (a b : State) (sd : Side) : Nat := if stateOf a sd = stateOf b sd then 0 else 1

/-- The number of sides moved by the success (R43, log 24). -/
def movedSides (s : State) : Nat :=
  if s.tab.validated then 0
  else
    let a := bringInForce s
    let b := moveSides a
    movedOne a b .west + movedOne a b .east

end Sys2Proof.Machine
end

