-- ==== Sys2Proof/Machine/Loader.lean ====
section
/-! DEFINITION. The loader (R185 to R187, R182, R183). -/

namespace Sys2Proof.Machine

/-! ### What the loader reads -/

/-- A valid lock copy of a side in the store. -/
def storedCopy (m : Memory) (sd : Side) (copyB : Bool) : Option (List Octet) :=
  let l := Memory.readOctets m (lockCopyAddr sd copyB) 8
  if lockCopyValid sd l then some l else none

/-- The newest valid lock copy of a side, and which it is (R183). -/
def newestCopy (m : Memory) (sd : Side) : Option (Bool × List Octet) :=
  match storedCopy m sd false, storedCopy m sd true with
  | none, none => none
  | some a, none => some (false, a)
  | none, some b => some (true, b)
  | some a, some b => if octetAt b 0 = octetAt a 0 + 1 then some (true, b) else some (false, a)

/-- The note of the newest copy of a side (R186 step 2). -/
def copyNote (m : Memory) (sd : Side) : Option LockNote :=
  (newestCopy m sd).map fun c => { copyB := c.1, generation := octetAt c.2 0 }

/-- The octets of a trip log slot. -/
def slotOctets (m : Memory) (k : Nat) : List Octet := Memory.readOctets m (slotAddr k) 32

/-- The running number of a slot; 0 where its record is not valid. -/
def slotNumber (m : Memory) (k : Nat) : Nat :=
  if tripRecordValid (slotOctets m k) then (word32At (slotOctets m k) 0).toNat else 0

/-- The highest running number of the trip log; 0 where no record is valid. -/
def highestNumber (m : Memory) : Nat := ((List.range 64).map (slotNumber m)).foldl max 0

/-- The slots that hold a running number. -/
def slotsHolding (m : Memory) (n : Nat) : List Nat := (List.range 64).filter fun k => slotNumber m k == n

/-- The slots that hold the highest running number. (The cases are there so that evaluation computes the
number once; both are `slotsHolding m (highestNumber m)`.) -/
def highestSlots (m : Memory) : List Nat :=
  match highestNumber m with
  | 0 => slotsHolding m 0
  | n + 1 => slotsHolding m (n + 1)

/-- The number after a running number, wrapping to 1 (R191, log 33). -/
def numberAfter (n : Nat) : Word32 := if n = 4294967295 then 1 else BitVec.ofNat 32 (n + 1)

/-- The trip log position (R186 step 4): next slot and next number. Which of several slots with the
same highest number counts as newest is a free value (log 18). -/
def logPosition (m : Memory) (free : Nat) : Nat × Word32 :=
  if highestNumber m = 0 then (0, 1)
  else
    let l := highestSlots m
    let pick := if l.length = 1 then 0 else Config.newestAmongEqual free % l.length
    ((l.getD pick 0 + 1) % 64, numberAfter (highestNumber m))

/-- The image header judged in step 1 of the run (R185): `none` where it is complete. -/
def judgeHeader (l : List Octet) : Option LoaderResult :=
  if word16At l 0 = 0 then some .incomplete
  else if word16At l 0 ≠ 0x5C3A then some .blank
  else if Config.imageLength < (word16At l 4).toNat then some .oversize
  else if (word16At l 4).toNat < Config.imageLength then some .corrupt
  else none

/-- The tables the store's image carries. -/
def storedTables (m : Memory) : Tables := tablesOf (Memory.readOctets m 8 684)

/-- The image judged in step 2: its checksum (R185). -/
def judgeImage (m : Memory) : LoaderResult :=
  if imageChecksum (word16At (Memory.readOctets m 0 8) 2) (storedTables m) =
      word16At (Memory.readOctets m 0 8) 6 then .loaded
  else .corrupt

/-! ### Handing on the results (R186) -/

/-- The move of a side to UNCONFIGURED (R51), or to LOCKOUT under the latch (R79), by a loader run. A lit side
gives its cut and record (R69, R76); no rule names the cause that the move writes (R48, log 14). -/
def unconfigure (sd : Side) (s : State) : State :=
  if s.pdu.latch then enterLockout sd .cut .cut s
  else
    let t := tripRecordOf sd (Config.unstatedCause s.free) s
    let s1 := modSide sd (fun r => { r.cleared with state := .unconfigured, reason := Config.unstatedCause s.free })
      (nextFree s)
    if (stateOf s sd).lights then queueRecord (.trip t) (immediateCut sd s1) else s1

/-- Step 1 at one side: a side not in LOCKOUT is UNCONFIGURED until a validation moves it (R51, R186, R187). An
ABSENT side leaves ABSENT so (log 22), and its port starts again from the reset values (R23). -/
def toUnconfigured (sd : Side) (s : State) : State :=
  match stateOf s sd with
  | .absent => restartPort sd (unconfigure sd s)
  | .unconfigured => s
  | .lockout => s
  | .hold => unconfigure sd s
  | .dark => unconfigure sd s
  | .listen => unconfigure sd s
  | .probe => unconfigure sd s
  | .ramp => unconfigure sd s
  | .run => unconfigure sd s
  | .stepdown => unconfigure sd s

/-- The working lockout record that a stored lock copy gives (R182). -/
def recordFromCopy (l : List Octet) : LockRecord :=
  let reason := causeOf (octetAt l 3)
  let count := word16At l 4
  if octetAt l 2 = 0 then { locked := false, reason := reason, count := count, arming := none }
  else
    match reason with
    | .cut => { locked := false, reason := .cut, count := count, arming := none }
    | .manual => { locked := true, reason := .manual, count := count, arming := none }
    | .ordered => { locked := true, reason := .ordered, count := count, arming := none }
    | .budget => { locked := true, reason := .budget, count := count, arming := none }
    | _ => { locked := true, reason := .manual, count := count, arming := none }

/-- Whether a stored lock copy is a CUT lock, which the power-on or pin reset releases (R182). -/
def releasesCut (l : List Octet) : Bool := octetAt l 2 == 1 && octetAt l 3 == 16

/-- The stored lock record of a side applied to its working record at power-on and pin reset, where
that record is not locked (R182, R186). -/
def applyLock (copy : Option (Bool × List Octet)) (sd : Side) (s : State) : State :=
  if (s.side.get sd).lock.locked then s
  else
    match copy with
    | none => modSide sd (fun r => { r with lock := LockRecord.reset }) s
    | some c =>
      let s1 := modSide sd (fun r => { r with lock := recordFromCopy c.2 }) s
      if releasesCut c.2 then queueRecord (lockRecordOf sd s1) s1 else s1

/-- Step 2: the stored records at power-on and pin reset, and the notes of the newest copies. -/
def applyLocks (origin : LoaderOrigin) (read : Bool) (s : State) : State :=
  let copy := fun sd => if read then newestCopy s.store sd else none
  let s1 :=
    match origin with
    | .powerUp => bothSides (fun sd t => applyLock (copy sd) sd t) s
    | .routeReset => s
    | .reload _ => s
  onCtl (fun c => { c with notes :=
    if read then ⟨copyNote s.store .west, copyNote s.store .east⟩ else ⟨none, none⟩ }) s1

/-- The tables replaced by a LOADED image, the failure lists trimmed, the checks run (R46, R72). -/
def takeImage (s : State) : State :=
  let t := storedTables s.store
  let s1 := trimSides (hdrBudget t) { s with tab := { s.tab with tables := t, loadCheck := none } }
  match runChecks (pos s) t with
  | none => validate s1
  | some f => { s1 with tab := { s1.tab with loadCheck := some f } }

/-- The tables emptied, with both failure lists (R27). -/
def emptyTables (s : State) : State :=
  let s1 := { s with tab := { tables := Tables.emptied, validated := false, loadCheck := none } }
  modSide .west (fun r => { r with failures := [] }) (modSide .east (fun r => { r with failures := [] }) s1)

/-- Step 3. -/
def takeTables (result : LoaderResult) (s : State) : State :=
  if result = .loaded then takeImage s else emptyTables s

/-- Step 4. -/
def takeLogPosition (read : Bool) (s : State) : State :=
  let p := if read then logPosition s.store s.free else (0, 1)
  onCtl (fun c => { c with nextSlot := p.1, nextNumber := p.2 }) (nextFree s)

/-- Status of the response to a STORE-RELOAD (R187). -/
def reloadStatus (r : LoaderResult) : Status := if r = .absent then .storeFault else .done

/-- Step 5. -/
def endRun (origin : LoaderOrigin) (result : LoaderResult) (s : State) : State :=
  let s1 := onPdu (fun u => { u with startCut := false })
    (onCtl (fun c => { c with op := .idle, result := result, lastFault := decide (result = .absent) }) s)
  match origin with
  | .powerUp => s1
  | .routeReset => s1
  | .reload who =>
    respond 14 who.dest who.tag
      ([(reloadStatus result).code, loaderOctet result] ++ loadCheckOctets s1.tab.loadCheck) s1

/-- The end of a loader run (R186); `read` says whether it read the lock area and the trip log. -/
def loaderEnd (origin : LoaderOrigin) (result : LoaderResult) (read : Bool) (s : State) : State :=
  endRun origin result
    (takeLogPosition read
      (takeTables result
        (applyLocks origin read (bothSides (sideEvent toUnconfigured) s))))

/-- A store fault at the start of a step: the run ends with ABSENT, and whatever a step had read is left
unused (R185). That covers a lock area that step 3 had read where the fault meets step 4: its lock records are not
handed on, though R186 hands them on "where the lock area was read": the model's choice (log 45). -/
def loaderFault (origin : LoaderOrigin) (s : State) : State := loaderEnd origin .absent false s

/-! ### The steps (R185) -/

/-- Begin the read of a step; a missing acknowledgement ends the run (R184). -/
def beginRead (origin : LoaderOrigin) (step : LoaderStep) (verdict : LoaderResult) (s : State) : State :=
  if ackOf s then setOp (.loading origin step verdict) (popAck s) else loaderFault origin (popAck s)

/-- A loader run begins (R185). -/
def loaderStart (origin : LoaderOrigin) (s : State) : State :=
  beginRead origin .header .noneYet (clearFlag (setOp (.loading origin .header .noneYet) s))

/-- The read of a step completes. -/
def loaderRead (origin : LoaderOrigin) (step : LoaderStep) (verdict : LoaderResult) (s : State) : State :=
  match step with
  | .header =>
    match judgeHeader (Memory.readOctets s.store 0 8) with
    | none => beginRead origin .image .noneYet s
    | some v => beginRead origin .lockArea v s
  | .image => beginRead origin .lockArea (judgeImage s.store) s
  | .lockArea => beginRead origin .log verdict s
  | .log => loaderEnd origin verdict true s

/-- A loader read completes at the Store Controller (R184, R185). -/
def loaderProgress (s : State) : State :=
  match s.ctl.op with
  | .loading origin step verdict => loaderRead origin step verdict s
  | .idle => s
  | .committing _ _ _ => s
  | .suspended _ _ _ => s
  | .recording _ => s
  | .reading _ _ _ => s

end Sys2Proof.Machine
end

