-- ==== Sys2Proof/Machine/Requests.lean ====
section
/-! DEFINITION. The requests (R163 to R169, R34 to R38, R136, R173 to R179, R187, R188, R192), one
definition for each, and the handling of a taken request. -/

namespace Sys2Proof.Machine

/-! ### Judgments every request passes (R163) -/

/-- The request as handled: one from the local port has the own position as its source (R161). -/
def taken (s : State) (r : Request) : Request :=
  match r.via with
  | .line => r
  | .localPort => { r with source := posOctet s }

/-- The source lies in the manager set in force (R164). -/
def isManager (s : State) (source : Octet) : Bool :=
  decide (source.toNat < 32) && (managerSet s).getLsbD source.toNat

/-- A request from the line without permission (R164). -/
def denied (s : State) (r : Request) : Bool := r.via == .line && !isManager s r.source

/-- Answer a request with body octets. -/
def reply (kind : Octet) (r : Request) (body : List Octet) (s : State) : State :=
  respond kind r.source r.tag body s

/-- Steps 3 and 4 of R163: BUSY while a route reset is pending, else the rule. -/
def judgePending (kind : Octet) (r : Request) (refusal : Status → List Octet)
    (rule : State → State) (s : State) : State :=
  if s.msg.resetPhase = .idle then rule s else reply kind r (refusal .busy) s

/-- Steps 2 to 4 of R163 for a modifying request. -/
def judgeModifying (kind : Octet) (r : Request) (refusal : Status → List Octet)
    (rule : State → State) (s : State) : State :=
  if denied s r then reply kind r (refusal .denied) s else judgePending kind r refusal rule s

/-- A body of the status alone. -/
def alone (st : Status) : List Octet := [st.code]

/-- A request of a kind the part does not define (R163 step 1). -/
def reqUnknown (kind : Octet) (r : Request) (s : State) : State := reply kind r (alone .unknown) s

/-! ### Read requests -/

/-- Commanded drive octets of channels 0..7, 0 where a channel is left out (R165, R166). -/
def driveOctets (s : State) (keep : Nat → Bool) : List Octet :=
  eight.flatMap fun n => octets16 (if keep n then driveOf s.pdu n else 0)

/-- Five octets of a port on STATUS-READ page 1; the sequence of an absent last origin is a free value
(log 13). -/
def portOctets (s : State) (sd : Side) (free : Nat) : List Octet :=
  let r := s.ports.get sd
  [natOctet r.score, conditionOctet r.condition, portFlags s sd] ++
    (match r.last with
     | none => [255, Config.absentOctet free]
     | some (o, q) => [o, q])

/-- The body of STATUS-READ after its status and page (R165). -/
def statusPage (s : State) (page : Octet) : List Octet :=
  if page = 0 then
    [posOctet s, statusFlags s, holdFlags s] ++ octets16 (hdrEdition s.tab.tables) ++
      [natOctet (hdrLength s.tab.tables), (stateOf s .west).code, (stateOf s .east).code,
        storeStateOctet s.ctl.op, loaderOctet s.ctl.result] ++ loadCheckOctets s.tab.loadCheck ++
      octets32 s.hold.view ++ octets32 s.time.uptime
  else if page = 1 then
    portOctets s .west s.free ++ portOctets s .east (s.free + 1) ++ octets32 s.hold.sets.west ++
      octets32 s.hold.sets.east ++ [s.tx.east.counter, s.tx.west.counter]
  else if page = 2 then
    octets16 (BitVec.ofNat 16 s.msg.discarded) ++ octets16 (BitVec.ofNat 16 s.msg.localDrops) ++
      octets16 (BitVec.ofNat 16 s.msg.framingErrors) ++
      [natOctet s.msg.out.west.size, natOctet s.msg.out.east.size, natOctet s.msg.delivery.length,
        s.msg.noticeNumber, rateOctet s.loc.rateInForce] ++ octets16 (BitVec.ofNat 16 s.ctl.lost) ++
      [if s.ctl.lastFault then Status.storeFault.code else Status.done.code]
  else driveOctets s (assigned s.tab)

/-- STATUS-READ (R165). -/
def reqStatusRead (r : Request) (s : State) : State :=
  judgePending 1 r alone (fun s =>
    if r.len ≠ 1 then reply 1 r (alone .value) s
    else if 3 < (octetAt r.body 0).toNat then reply 1 r (alone .index) s
    else
      reply 1 r ([Status.done.code, octetAt r.body 0] ++ statusPage s (octetAt r.body 0))
        (nextFree (nextFree s))) s

/-- Whole seconds left to an arming's expiry, rounded up (R180); where the parts of the seconds decide
between two values the choice is free (log 16). -/
def armingSeconds (s : State) (a : Arming) : Octet :=
  let d := (s.time.uptime - a.since).toNat
  let left := if Config.armingRoundsUp s.free then 11 - d else 10 - d
  natOctet (max 1 (min 10 left))

/-- Free octets, for the fields of an absent subject (log 13). -/
def freeOctets (s : State) (n : Nat) : List Octet := (List.range n).map fun k => Config.absentOctet (s.free + k)

/-- Held far advertisement on SIDE-READ page 2. -/
def advertOctets (s : State) (a : Option Advert) : List Octet :=
  match a with
  | none => 0 :: freeOctets s 8
  | some a =>
    [1] ++ octets16 a.probe ++ octets16 a.launch ++ [a.duration] ++ octets16 a.edition ++
      [if a.agreedMode then 1 else 0]

/-- The arming on SIDE-READ page 2. -/
def armingOctets (s : State) (a : Option Arming) : List Octet :=
  match a with
  | none => 0 :: (freeOctets s 11).drop 8 ++ [0]
  | some a => [1, a.source] ++ octets16 a.number ++ [armingSeconds s a]

/-- Four failure list entries on SIDE-READ pages 3 to 6. -/
def failureOctets (l : List Word32) (page : Nat) : List Octet :=
  padTo 16 (((l.drop (4 * (page - 3))).take 4).flatMap octets32)

/-- Page 0 of SIDE-READ from octet 3. -/
def sidePage0 (s : State) (sd : Side) : List Octet :=
  let r := s.side.get sd
  [r.state.code, causeCode r.reason, timerFlags s sd, natOctet (r.step.getD 0),
    agreementOctet r.agree.state, natOctet r.agree.count, sideFlags s sd, natOctet r.mismatchRun,
    natOctet r.rearm] ++ octets16 r.agree.probe ++ octets16 r.agree.launch ++
    [r.agree.duration, natOctet r.failures.length, causeCode r.lock.reason] ++ octets16 r.lock.count

/-- The body of SIDE-READ from octet 3 (R166). -/
def sidePage (s : State) (sd : Side) (page : Octet) : List Octet :=
  let r := s.side.get sd
  if page = 0 then sidePage0 s sd
  else if page = 1 then
    (match farView s sd with | none => List.replicate 12 0 | some v => reportOctets v)
  else if page = 2 then advertOctets s r.agree.far ++ armingOctets s r.lock.arming
  else if page = 7 then channelFlags s sd :: driveOctets s (assignedTo s.tab sd)
  else natOctet r.failures.length :: failureOctets r.failures page.toNat

/-- Advance past the free values a SIDE-READ can use. -/
def afterSidePage (s : State) : State := { s with free := s.free + 11 }

/-- SIDE-READ (R166). -/
def reqSideRead (r : Request) (s : State) : State :=
  judgePending 2 r alone (fun s =>
    if r.len ≠ 2 then reply 2 r (alone .value) s
    else
      match sideOf (octetAt r.body 0) with
      | none => reply 2 r (alone .index) s
      | some sd =>
        if 7 < (octetAt r.body 1).toNat then reply 2 r (alone .index) s
        else
          reply 2 r ([Status.done.code, octetAt r.body 0, octetAt r.body 1] ++ sidePage s sd (octetAt r.body 1))
            (afterSidePage s)) s

/-- Running checks fixed on an input. -/
def checksOn (u : PumpUnit) (n : Nat) : Nat :=
  (u.checks.filter fun c => match c with | none => false | some c => c.monitor == n).length

/-- The body of MONITOR-READ after status and input (R167). -/
def monitorBody (s : State) (n : Nat) : List Octet :=
  let e := entryAt s.tab.tables.monitors n
  let d := s.scan.dark.getD n ⟨false, 0⟩
  octets16 (latestOf s n) ++
    [if !s.tab.validated || (mapOf s.tab n).present then 1 else 0, octetAt e 1, octetAt e 2] ++
    octets16 (offsetOf s.tab n) ++ [if d.holding then 1 else 0, natOctet d.count, natOctet (checksOn s.pdu n)]

/-- MONITOR-READ (R167). -/
def reqMonitorRead (r : Request) (s : State) : State :=
  judgePending 3 r alone (fun s =>
    if r.len ≠ 1 then reply 3 r (alone .value) s
    else if 7 < (octetAt r.body 0).toNat then reply 3 r (alone .index) s
    else
      reply 3 r ([Status.done.code, octetAt r.body 0] ++ monitorBody s (octetAt r.body 0).toNat) s) s

/-- ENTRY-READ (R168). -/
def reqEntryRead (r : Request) (s : State) : State :=
  judgePending 4 r alone (fun s =>
    let table := octetAt r.body 0
    let index := octetAt r.body 1
    if r.len ≠ 2 then reply 4 r (alone .value) s
    else if !entryExists table index then reply 4 r [Status.index.code, table, index] s
    else
      reply 4 r ([Status.done.code, table, index] ++ getEntry s.tab.tables table.toNat index.toNat) s) s

/-! ### Tables -/

/-- The Store Controller is LOADING. -/
def StoreOp.isLoading : StoreOp → Bool
  | .loading _ _ _ => true
  | .idle => false
  | .committing _ _ _ => false
  | .suspended _ _ _ => false
  | .recording _ => false
  | .reading _ _ _ => false

/-- The Store Controller is LOADING for a STORE-RELOAD (R187). -/
def StoreOp.isReloading : StoreOp → Bool
  | .loading (.reload _) _ _ => true
  | .loading .powerUp _ _ => false
  | .loading .routeReset _ _ => false
  | .idle => false
  | .committing _ _ _ => false
  | .suspended _ _ _ => false
  | .recording _ => false
  | .reading _ _ _ => false

/-- The Store Controller is LOADING, COMMITTING or SUSPENDED (R34, R169). -/
def StoreOp.locksTables : StoreOp → Bool
  | .loading _ _ _ => true
  | .committing _ _ _ => true
  | .suspended _ _ _ => true
  | .idle => false
  | .recording _ => false
  | .reading _ _ _ => false

/-- Either side is active (R34). -/
def eitherActive (s : State) : Bool := (stateOf s .west).active || (stateOf s .east).active

/-- Body of an ENTRY-WRITE response (section 2.8). -/
def writeBody (r : Request) (st : Status) (off : Octet) : List Octet :=
  [st.code, octetAt r.body 0, octetAt r.body 1, off]

/-- An accepted ENTRY-WRITE (R35, R36). -/
def acceptEntry (table index : Nat) (e : List Octet) (s : State) : State :=
  let s1 := clearFlag s
  let t := setEntry s1.tab.tables table index e
  let s2 := { s1 with tab := { s1.tab with tables := t } }
  if table = 1 then trimSides (hdrBudget t) s2 else s2

/-- The entry carried by an ENTRY-WRITE. -/
def writtenEntry (r : Request) : List Octet := (r.body.drop 2).take (entrySize (octetAt r.body 0))

/-- The judgments of R34 from step 2, and the write. -/
def judgeEntry (r : Request) (s : State) : State :=
  let table := octetAt r.body 0
  let index := octetAt r.body 1
  if s.ctl.op.locksTables then reply 5 r (writeBody r .busy 0) s
  else if eitherActive s then reply 5 r (writeBody r .state 0) s
  else if !entryExists table index then reply 5 r (writeBody r .index 0) s
  else if r.len.toNat ≠ 2 + entrySize table then reply 5 r (writeBody r .value 255) s
  else
    match firstBadField table.toNat (writtenEntry r) with
    | some off => reply 5 r (writeBody r .value (natOctet off)) s
    | none => reply 5 r (writeBody r .done 0) (acceptEntry table.toNat index.toNat (writtenEntry r) s)

/-- ENTRY-WRITE (R34, R35). -/
def reqEntryWrite (r : Request) (s : State) : State :=
  judgeModifying 5 r (fun st => writeBody r st 0) (judgeEntry r) s

/-- TABLES-CHECK (R38, R42, R43). No rule gives its body length; one above 23 matches no request (R163,
log 23). Such a length is judged before LOADING (R38), an order the spec leaves open: the model's choice
(log 41). -/
def reqTablesCheck (r : Request) (s : State) : State :=
  judgeModifying 6 r alone (fun s =>
    if 23 < r.len.toNat then reply 6 r (alone .value) s
    else if s.ctl.op.isLoading then reply 6 r (alone .busy) s
    else
      match runChecks (pos s) s.tab.tables with
      | some f => reply 6 r [Status.value.code, f.table, f.index, f.code] s
      | none =>
        reply 6 r ([Status.done.code] ++ octets16 (hdrEdition s.tab.tables) ++ [natOctet (movedSides s)])
          (validate s)) s

/-! ### Hold -/

/-- The DONE body of HOLD-SET and HOLD-CLEAR (R136). -/
def holdBody (s : State) : List Octet := [Status.done.code, holdFlags s] ++ octets32 s.hold.view

/-- HOLD-SET or HOLD-CLEAR (R136). The response is made after the notices of the sides that take the
change, as every response after the effects of its request: the model's choice (log 40). -/
def holdRequest (kind : Octet) (b : Bool) (r : Request) (s : State) : State :=
  judgeModifying kind r alone (fun s =>
    if r.len ≠ 0 then reply kind r (alone .value) s
    else
      let t := setHoldRequest b s
      reply kind r (holdBody t) t) s

/-- HOLD-SET. -/
def reqHoldSet (r : Request) (s : State) : State := holdRequest 7 true r s

/-- HOLD-CLEAR. -/
def reqHoldClear (r : Request) (s : State) : State := holdRequest 8 false r s

/-! ### Side requests (chapter 8) -/

/-- The body of a refusal that names a side (section 8.2). -/
def sideRefusal (r : Request) (st : Status) (code : Octet) : List Octet := [st.code, octetAt r.body 0, code]

/-- The judgments of R173; the rule takes the named side. -/
def sideRequest (kind : Octet) (len : Octet) (r : Request) (rule : Side → State → State) (s : State) : State :=
  judgeModifying kind r alone (fun s =>
    if r.len ≠ len then reply kind r (alone .value) s
    else
      match sideOf (octetAt r.body 0) with
      | none => reply kind r (sideRefusal r .index 0) s
      | some sd =>
        if isAbsent s sd then reply kind r (sideRefusal r .index (stateOf s sd).code) s else rule sd s) s

/-- The DONE body of SIDE-SHUT, SIDE-LOCK and UNLOCK-CONFIRM. -/
def sideDone (s : State) (sd : Side) : List Octet :=
  [Status.done.code, sideOctet sd, (stateOf s sd).code] ++ octets16 (s.side.get sd).lock.count

/-- The DONE body of SIDE-SHUT: a shut from RUN reports STEPDOWN, which it enters, even where a sequence
without pumps completes at once (R175, R117). That it then carries the lockout count before the entry to
LOCKOUT is the model's choice (log 43). `s` and `t` are the states before and after. -/
def shutDone (s t : State) (sd : Side) : List Octet :=
  if stateOf s sd = .run then
    [Status.done.code, sideOctet sd, SideState.stepdown.code] ++ octets16 (s.side.get sd).lock.count
  else sideDone t sd

/-- SIDE-SHUT at a side (R175). -/
def shutSide (sd : Side) (s : State) : State :=
  match stateOf s sd with
  | .run => enterStepdown sd s
  | .probe => enterLockout sd .ordered .ordered s
  | .ramp => enterLockout sd .ordered .ordered s
  | .dark => enterLockout sd .ordered .ordered s
  | .listen => enterLockout sd .ordered .ordered s
  | .hold => enterLockout sd .ordered .ordered s
  | .unconfigured => enterLockout sd .ordered .ordered s
  | .stepdown => s
  | .lockout => s
  | .absent => s

/-- SIDE-LOCK at a side (R174). -/
def lockSide (sd : Side) (s : State) : State :=
  match stateOf s sd with
  | .lockout => s
  | .absent => s
  | .run => enterLockout sd .manual .manual s
  | .probe => enterLockout sd .manual .manual s
  | .ramp => enterLockout sd .manual .manual s
  | .dark => enterLockout sd .manual .manual s
  | .listen => enterLockout sd .manual .manual s
  | .hold => enterLockout sd .manual .manual s
  | .unconfigured => enterLockout sd .manual .manual s
  | .stepdown => enterLockout sd .manual .manual s

/-- SIDE-SHUT (R175). -/
def reqSideShut (r : Request) (s : State) : State :=
  sideRequest 9 1 r (fun sd s =>
    let t := sideEvent shutSide sd s
    reply 9 r (shutDone s t sd) t) s

/-- SIDE-LOCK (R174). -/
def reqSideLock (r : Request) (s : State) : State :=
  sideRequest 10 1 r (fun sd s =>
    let t := sideEvent lockSide sd s
    reply 10 r (sideDone t sd) t) s

/-- Arm a side (R178). -/
def armSide (source : Octet) (sd : Side) (s : State) : State :=
  modSide sd (fun r =>
    { r with lock := { r.lock with arming := some { number := r.lock.count, source := source, since := s.time.uptime } } }) s

/-- UNLOCK-ARM (R178). -/
def reqUnlockArm (r : Request) (s : State) : State :=
  sideRequest 11 1 r (fun sd s =>
    if stateOf s sd ≠ .lockout then reply 11 r (sideRefusal r .state (stateOf s sd).code) s
    else if (s.side.get sd).lock.reason = .cut then reply 11 r (sideRefusal r .cutLatched (stateOf s sd).code) s
    else
      reply 11 r ([Status.done.code, sideOctet sd] ++ octets16 (s.side.get sd).lock.count ++ [10])
        (armSide r.source sd s)) s

/-- The side record as UNLOCK-CONFIRM releases it (R172, R179). -/
def SideRecord.released (r : SideRecord) : SideRecord :=
  { r with failures := [], lock := { r.lock with locked := false, arming := none } }

/-- The release (R179). The retry timer has just started, so R54 cannot hold yet. -/
def releaseSide (sd : Side) (s : State) : State :=
  let t := enterDark sd (tripRest s) (modSide sd SideRecord.released s)
  queueRecord (lockRecordOf sd t) t

/-- The request matches the arming (R179 step 3). -/
def confirmMatches (r : Request) (a : Option Arming) : Bool :=
  match a with
  | none => false
  | some a => r.source == a.source && word16At r.body 1 == a.number

/-- UNLOCK-CONFIRM (R179). -/
def reqUnlockConfirm (r : Request) (s : State) : State :=
  sideRequest 12 3 r (fun sd s =>
    if s.pdu.latch then reply 12 r (sideRefusal r .cutLatched (stateOf s sd).code) s
    else if stateOf s sd ≠ .lockout ∨ confirmMatches r (s.side.get sd).lock.arming = false then
      reply 12 r (sideRefusal r .notArmed (stateOf s sd).code) s
    else
      let t := sideEvent releaseSide sd s
      reply 12 r (sideDone t sd) t) s

/-! ### Store requests (chapter 9) -/

/-- STORE-COMMIT (R188): NOT-VALID before BUSY, but while a STORE-RELOAD's run is under way BUSY whatever
the flag (R187, log 35). -/
def reqStoreCommit (r : Request) (s : State) : State :=
  judgeModifying 13 r alone (fun s =>
    if r.len ≠ 0 then reply 13 r (alone .value) s
    else if s.ctl.op.isReloading then reply 13 r (alone .busy) s
    else if !s.tab.validated then reply 13 r (alone .notValid) s
    else if s.ctl.op ≠ .idle then reply 13 r (alone .busy) s
    else beginCommitPage ⟨r.source, r.tag⟩ 0 s) s

/-- STORE-RELOAD (R187). -/
def reqStoreReload (r : Request) (s : State) : State :=
  judgeModifying 14 r alone (fun s =>
    if r.len ≠ 0 then reply 14 r (alone .value) s
    else if s.ctl.op ≠ .idle then reply 14 r (alone .busy) s
    else if eitherActive s then reply 14 r (alone .state) s
    else loaderStart (.reload ⟨r.source, r.tag⟩) s) s

/-- Begin the read of a LOG-READ; a missing acknowledgement ends it (R184, R192). -/
def beginLogRead (r : Request) (s : State) : State :=
  if ackOf s then
    setOp (.reading ⟨r.source, r.tag⟩ (octetAt r.body 0).toNat (octetAt r.body 1).toNat) (popAck s)
  else reply 15 r (alone .storeFault) (onCtl (fun c => { c with lastFault := true }) (popAck s))

/-- LOG-READ (R192). -/
def reqLogRead (r : Request) (s : State) : State :=
  judgePending 15 r alone (fun s =>
    if r.len ≠ 2 then reply 15 r (alone .value) s
    else if 63 < (octetAt r.body 0).toNat ∨ 1 < (octetAt r.body 1).toNat then reply 15 r (alone .index) s
    else if s.ctl.op ≠ .idle then reply 15 r (alone .busy) s
    else beginLogRead r s) s

/-! ### PART-RESET -/

/-- The DONE response of a PART-RESET, with a route reset pending until it leaves or is lost (R169,
R170). -/
def acceptReset (r : Request) (s : State) : State :=
  let t := onMsg (fun m => { m with resetPhase := .pending }) s
  routeResponse { msg := responseTo 16 r.source r.tag (alone .done) t, resetDone := true } t

/-- PART-RESET (R169). -/
def reqPartReset (r : Request) (s : State) : State :=
  judgeModifying 16 r alone (fun s =>
    if r.len ≠ 0 then reply 16 r (alone .value) s
    else if s.ctl.op.locksTables then reply 16 r (alone .busy) s
    else acceptReset r s) s

/-! ### A request taken from a frame -/

/-- The request a kind names, handled by its rule (R163). -/
def handleRequest (kind : Octet) (r : Request) (s : State) : State :=
  match kind.toNat with
  | 1 => reqStatusRead r s
  | 2 => reqSideRead r s
  | 3 => reqMonitorRead r s
  | 4 => reqEntryRead r s
  | 5 => reqEntryWrite r s
  | 6 => reqTablesCheck r s
  | 7 => reqHoldSet r s
  | 8 => reqHoldClear r s
  | 9 => reqSideShut r s
  | 10 => reqSideLock r s
  | 11 => reqUnlockArm r s
  | 12 => reqUnlockConfirm r s
  | 13 => reqStoreCommit r s
  | 14 => reqStoreReload r s
  | 15 => reqLogRead r s
  | 16 => reqPartReset r s
  | _ => reqUnknown kind r s

/-- A message as a request taken from the line or the local port. -/
def requestOf (via : Via) (m : Message) : Request :=
  { via := via, source := m.source, tag := m.tag, len := m.len, body := m.body }

end Sys2Proof.Machine
end

