-- ==== Sys2Proof/Machine/Line.lean ====
section
/-! DEFINITION. The line units (R2 to R22): checking and taking an arrival, the loss timer, the
departures; the Message Engine's judgment of a slot (R153, R154); and the local port (R160 to R162). -/

namespace Sys2Proof.Machine

/-! ### Checking an arrival (R2, R3, R5) -/

/-- The outcome of the checks. -/
inductive ArrivalKind where
  | corrupt
  | neighbour
  | valid
deriving DecidableEq, Repr

/-- Position of the expected neighbour of a port; none outside 0..31 (R5). -/
def neighbourOf (p : Nat) : Side → Option Nat
  | .west => if p = 0 then none else some (p - 1)
  | .east => if p = 31 then none else some (p + 1)

/-- The checks of an arrival. -/
def classify (p : Nat) (port : Side) (l : List Octet) : ArrivalKind :=
  if l.length ≠ 80 then .corrupt
  else if crc16 (l.take 78) ≠ word16At l 78 then .corrupt
  else if octetAt l 0 ≠ 1 then .corrupt
  else if neighbourOf p port = some (octetAt l 7).toNat then .valid
  else .neighbour

/-! ### The transit slot (R13) -/

/-- A departure falls due on a transmitter; a route-end port's transmitter sends none (R23). -/
def queueDeparture (tx : Side) (d : Departure) (s : State) : State :=
  if isAbsent s tx then s else modTx tx (fun x => { x with transit := x.transit ++ [d] }) s

/-- All 31 entries UNKNOWN. -/
def unknownSpans : List Octet := List.replicate 31 0

/-! ### Invalid arrivals (R6, R7, R8, R12) -/

/-- The port record after an invalid arrival. -/
def PortRecord.afterInvalid (wrongSender : Bool) (r : PortRecord) : PortRecord :=
  let c := conditionFor r.condition (scoreInvalid r.score)
  { r with
    score := scoreInvalid r.score, condition := c, neighbour := r.neighbour || wrongSender
    spans := if r.condition ≠ .withdrawn ∧ c = .withdrawn then unknownSpans else r.spans }

/-- WITHDRAWN begun changes the route view (R94, R95). -/
def judgeWithdrawn (old new : PortCondition) (s : State) : State :=
  if old ≠ .withdrawn ∧ new = .withdrawn then leadJudge s else s

/-- An invalid arrival on a port; the change of condition reaches the side before the NEIGHBOUR event
(log 36), and a WITHDRAWN begun on the East port reaches its side before the lead judges the route view it
changes (R10, R57, R94): the model's choice (log 38). -/
def invalidArrival (port : Side) (wrongSender : Bool) (s : State) : State :=
  let r := s.ports.get port
  let r1 := r.afterInvalid wrongSender
  let s1 := sideEvent (conditionEvent r.condition r1.condition) port (setPort port r1 s)
  let s2 := if !r.neighbour && r1.neighbour then sideEvent (tripEvent .neighbour) port s1 else s1
  let s3 := judgeWithdrawn r.condition r1.condition s2
  if portBlocked r1 then s3 else queueDeparture port.other .originated s3

/-! ### The slot of a valid arrival (R153, R154) -/

/-- What the Message Engine leaves in the slot of the forwarded departure. -/
def slotAfter (p : Nat) (m : Message) : Message :=
  if m.kind = 0 then emptySlot
  else if m.dest.toNat = p then emptySlot
  else if m.dest = 255 ∧ isNoticeKind m.kind = false then emptySlot
  else m

/-- The Message Engine takes the slot. -/
def judgeSlot (m : Message) (s : State) : State :=
  if m.kind = 0 then s
  else if m.dest.toNat = pos s then
    (if isRequestKind m.kind then handleRequest m.kind (requestOf .line m) s
     else onMsg (deliver { msg := m, resetDone := false }) s)
  else if m.dest = 255 ∧ isNoticeKind m.kind = true then
    (if m.source = posOctet s then s else filterNotice m s)
  else s

/-! ### Valid arrivals (R7 to R11) -/

/-- The port record after a valid arrival. -/
def PortRecord.afterValid (threshold : Nat) (f : Frame) (r : PortRecord) : PortRecord :=
  let score := scoreValid r.last f.origin f.sequence r.score
  let c := conditionFor r.condition score
  let r1 :=
    { r with
      score := score, condition := c, loss := false, lossTimer := some threshold, neighbour := false
      last := some (f.origin, f.sequence) }
  if c = .withdrawn then
    { r1 with spans := if r.condition ≠ .withdrawn then unknownSpans else r.spans }
  else { r1 with report := some f.report, spans := f.spans, holdSet := f.holdSet }

/-- One of the four things an arrival hands on (R11). -/
def handOne (port : Side) (f : Frame) (h : HandOn) (s : State) : State :=
  match h with
  | .report => sideEvent (farReport f.report) port s
  | .view => leadJudge s
  | .holdSet => takeHoldSet port s
  | .slot => judgeSlot f.slot s

/-- The order in which they act: as the command gives it, the rest after it (R151, log 6). -/
def handOrder (l : List HandOn) : List HandOn := (l ++ [HandOn.report, HandOn.view, HandOn.holdSet, HandOn.slot]).eraseDups

/-- What an arrival hands on. -/
def handAll (port : Side) (f : Frame) (s : State) : State :=
  (handOrder s.choices.handOn).foldl (fun s h => handOne port f h s) s

/-- A valid arrival on a port (R11, R13). A WITHDRAWN begun on the East port reaches its side before the
lead judges the route view it changes: the model's choice (log 38). -/
def validArrival (port : Side) (f : Frame) (s : State) : State :=
  let r := s.ports.get port
  let r1 := r.afterValid (lossThreshold s) f
  let s1 := sideEvent (conditionEvent r.condition r1.condition) port (setPort port r1 s)
  let s2 := if r.loss || r.neighbour then sideEvent judgeDark port s1 else s1
  if r1.condition = .withdrawn then judgeWithdrawn r.condition r1.condition s2
  else
    queueDeparture port.other (.forwarded { f with slot := slotAfter (pos s) f.slot }) (handAll port f s2)

/-- An arrival on a port; a route-end port discards it (R23). -/
def takeArrival (port : Side) (l : List Octet) (s : State) : State :=
  if isAbsent s port then s
  else
    match classify (pos s) port l with
    | .corrupt => invalidArrival port false s
    | .neighbour => invalidArrival port true s
    | .valid => validArrival port (frameOf l) s

/-! ### The loss timer (R9, R10) -/

/-- The port record as it enters LOSS. -/
def PortRecord.lost (r : PortRecord) : PortRecord :=
  { r with loss := true, lossTimer := none, spans := unknownSpans }

/-- The loss timer expires. On the East port the side takes LOSS before the lead judges the route view it
changes (R10, R57, R94): the model's choice (log 38). -/
def enterLoss (port : Side) (s : State) : State :=
  if (s.ports.get port).lossTimer.isSome && !isAbsent s port then
    leadJudge (sideEvent (tripEvent .loss) port (setPort port (s.ports.get port).lost s))
  else s

/-! ### Departures (R14 to R22, R155) -/

/-- The frame timer expires (R13). -/
def frameDue (tx : Side) (s : State) : State :=
  if (s.tx.get tx).frameTimer then queueDeparture tx .originated s else s

/-- A hold set with the own bit as the Hold Unit has it (R17). -/
def withOwnHold (s : State) (h : PosSet) : PosSet :=
  (h &&& ~~~(ownBit s)) ||| (if s.hold.own then ownBit s else 0)

/-- The adjacent report about a side (R20, R21). The flag still stands in the drain of a route reset, in which a
side that was ABSENT is UNCONFIGURED: what its report advertises and measures is then free (log 42). -/
def reportAbout (s : State) (sd : Side) : Report :=
  if s.tab.validated then
    { sender := posOctet s, state := (stateOf s sd).code, flags := reportFlags s sd
      measured := reportedInput s sd, probe := (reportedSpan s sd).probe
      launch := (reportedSpan s sd).launch, duration := (reportedSpan s sd).duration
      edition := hdrEdition s.tab.tables }
  else
    { sender := posOctet s, state := (stateOf s sd).code, flags := reportFlags s sd
      measured := minPower, probe := 0, launch := 0, duration := 0, edition := 0 }

/-- Own nibbles in a span list (R18). -/
def withOwnNibbles (s : State) (l : List Octet) : List Octet :=
  writeNibbles (pos s) (stateOf s .west) (stateOf s .east) l

/-- The content of a departure before its slot is settled (R15, R16). -/
def compose (s : State) (tx : Side) (d : Departure) : Frame :=
  match d with
  | .forwarded f =>
    { f with
      holdSet := withOwnHold s f.holdSet, report := reportAbout s tx, spans := withOwnNibbles s f.spans }
  | .originated =>
    { origin := posOctet s, sequence := (s.tx.get tx).counter
      holdSet := withOwnHold s (s.ports.get tx.other).holdSet, report := reportAbout s tx
      spans := withOwnNibbles s unknownSpans, slot := emptySlot }

/-- The message the Message Engine offers to a departure: none where its slot is not empty. -/
def offered (s : State) (tx : Side) (f : Frame) : Option Queued :=
  if f.slot.kind = 0 then queueHead (s.msg.out.get tx) else none

/-- The frame with its slot settled (R152, R155). -/
def settleSlot (q : Option Queued) (f : Frame) : Frame :=
  match q with
  | some v => { f with slot := inserted v.msg }
  | none => if f.slot.kind = 0 then { f with slot := emptySlot } else f

/-- The Message Engine after it has filled a departure's slot (R155, R170). -/
def afterInsert (tx : Side) (q : Option Queued) (m : MsgEngine) : MsgEngine :=
  match q with
  | some v => releaseReset v { m with out := m.out.set tx (queueTail (m.out.get tx)) }
  | none => m

/-- The transmitter after a departure (R13, R16). -/
def Transmitter.sentOne (d : Departure) (octets : List Octet) (x : Transmitter) : Transmitter :=
  { x with
    transit := x.transit.tail, line := some octets
    counter := match d with
      | .originated => x.counter + 1
      | .forwarded _ => x.counter }

/-- The first waiting departure is composed, settled and sent (R19). The counter of free values advances with each
(log 42). -/
def depart (tx : Side) (s : State) : State :=
  match (s.tx.get tx).transit with
  | [] => s
  | d :: _ =>
    if isAbsent s tx then s
    else
      let f := compose s tx d
      let q := offered s tx f
      modTx tx (Transmitter.sentOne d (frameOctets (settleSlot q f))) (onMsg (afterInsert tx q) (nextFree s))

/-! ### The local port (R160 to R162) -/

/-- An answer given on the local port (R161). -/
def localAnswer (kind tag : Octet) (st : Status) (s : State) : State :=
  onMsg (deliver { msg := makeMessage (kind ||| 0x80) (posOctet s) (posOctet s) tag [st.code], resetDone := false }) s

/-- A request from the local port for another position (R161 case 4). -/
def forwardLocal (m : Message) (s : State) : State :=
  let sd := routeSide s m.dest
  if isAbsent s sd then localAnswer m.kind m.tag .index s
  else if (s.msg.out.get sd).size < Config.outQueueSize then
    onMsg (joinMessage sd { msg := { m with source := posOctet s }, resetDone := false }) s
  else localAnswer m.kind m.tag .queueFull s

/-- Set the local receiver's state. -/
def setReceiver (r : Receiver) (s : State) : State := { s with loc := { s.loc with receiver := r } }

/-- A framing error at the local receiver, which hunts again (R160). -/
def framingError (s : State) : State :=
  onMsg (fun m => { m with framingErrors := satInc m.framingErrors }) (setReceiver .hunting s)

/-- A local message (R161). -/
def localMessage (m : Message) (s : State) : State :=
  if isRequestKind m.kind = false then onMsg (fun e => { e with framingErrors := satInc e.framingErrors }) s
  else if 31 < m.dest.toNat then localAnswer m.kind m.tag .index s
  else if m.dest.toNat = pos s then handleRequest m.kind (taken s (requestOf .localPort m)) s
  else forwardLocal m s

/-- The rate in force is applied between two messages, and waits for the receiver to be hunting (R31, R160). -/
def applyRate (s : State) : State :=
  match s.loc.receiver with
  | .hunting => { s with loc := { s.loc with rateApplied := s.loc.rateInForce } }
  | .receiving _ => s

/-- The 30 octets after a start octet (R160). -/
def localFrame (l : List Octet) (s : State) : State :=
  if crc16 (l.take 28) = word16At l 28 then
    localMessage (messageOf l) (setReceiver .hunting s)
  else framingError s

/-- One octet arrives (R160): a hunting receiver waits for the start octet, with which the next message
starts at the rate in force (R31), and a receiving one stores every octet until it holds 30. -/
def takeOctet (s : State) (o : Octet) : State :=
  match s.loc.receiver with
  | .hunting => if o = 0xA5 then setReceiver (.receiving []) (applyRate s) else s
  | .receiving held =>
    if held.length < 29 then setReceiver (.receiving (held ++ [o])) s else localFrame (held ++ [o]) s

/-- Octets arrive one after the other. -/
def takeOctets (l : List Octet) (s : State) : State := l.foldl takeOctet s

/-- A reception ends in 10 ms without an octet or in a missing stop bit; a hunting receiver has nothing to
discard and counts nothing (R160). -/
def abandonReception (s : State) : State :=
  match s.loc.receiver with
  | .hunting => s
  | .receiving _ => framingError s

/-- The local transmitter begins the message at the head of the queue (R162). -/
def beginMessage (v : Queued) (rest : List Queued) (s : State) : State :=
  onMsg (fun m => releaseReset v { m with delivery := rest })
    { s with loc := { s.loc with sent := some { octets := localFrameOctets v.msg, rate := s.loc.rateApplied } } }

/-- The next message starts at the rate in force (R31), but for a change that waits for the receiver to be
hunting (R160). -/
def localSend (s : State) : State :=
  match s.msg.delivery with
  | [] => s
  | v :: rest => beginMessage v rest (applyRate s)

end Sys2Proof.Machine
end

