-- ==== Sys2Proof/Machine/Resets.lean ====
section
/-! DEFINITION. Power-on, pin reset, loss of power (R25, R80, R132, R142, R170, R193, R194) and the
route reset with its drain (R26, R81, R133, R142, R170, R193). -/

namespace Sys2Proof.Machine

/-- The state right after power-on or pin reset, before the loader: the reset values with the straps
and lines as sampled; a local frame being sent finishes (R170); the store, the waiting commands and the
model's own fields are kept. -/
def resetState (pins : PinLevels) (s : State) : State :=
  let p : Fin 32 := pins.straps.toFin
  { State.reset with
    position := p
    lines := { trip := ⟨pins.tripWest, pins.tripEast⟩, hold := pins.hold }
    hold := { HoldUnit.reset with own := pins.hold, view := if pins.hold then (1 : PosSet) <<< p.val else 0 }
    loc := { LocalPort.reset with sent := s.loc.sent }
    store := s.store, choices := s.choices, free := s.free, pending := s.pending }

/-- Power-on or pin reset: the store write under way is cut off (R194), the loader starts (R193). -/
def startUp (pins : PinLevels) (left : Residue) (s : State) : State :=
  loaderStart .powerUp (resetState pins (cutOff left s))

/-- Loss of power (R194): the part stops; the frames being sent end. -/
def losePower (left : Residue) (s : State) : State :=
  let t := cutOff left s
  let t1 := modTx .west (fun x => { x with line := none }) (modTx .east (fun x => { x with line := none }) t)
  { t1 with
    powered := false, loc := { t1.loc with sent := none }, ctl := { t1.ctl with op := .idle } }

/-! ### Route reset -/

/-- Step 1 of R81 at one side. -/
def resetCut (sd : Side) (s : State) : State :=
  if (stateOf s sd).lights then queueRecord (.trip (tripRecordOf sd .reset s)) (immediateCut sd s) else s

/-- Steps 2 to 5 of R81: the side record after a route reset. -/
def SideRecord.routeReset (latch : Bool) (r : SideRecord) : SideRecord :=
  let c : SideRecord := { r.cleared with agree := Agreement.reset, lock := { r.lock with arming := none } }
  if r.state = .lockout then c
  else if latch then { c with state := .lockout, reason := .cut, lock := r.lock.entered .cut }
  else { c with state := .unconfigured, reason := .reset, failures := [] }

/-- Steps 2 to 5 of R81 at one side, with the lock record of step 4. -/
def resetSide (sd : Side) (s : State) : State :=
  let t := modSide sd (SideRecord.routeReset s.pdu.latch) s
  if stateOf s sd ≠ .lockout ∧ s.pdu.latch = true then queueRecord (lockRecordOf sd t) t else t

/-- A transmitter after a route reset: the frame being sent completes (R26). -/
def Transmitter.routeReset (x : Transmitter) : Transmitter := { Transmitter.reset with line := x.line }

/-- The Store Controller at a route reset (R193): the access of a READING or of a record under way goes on
to its end, and every other operation gives way to RECORDING. LOADING, COMMITTING and SUSPENDED meet no route
reset (R193; log 26 for LOADING). -/
def drainOp (op : StoreOp) : StoreOp :=
  match op with
  | .reading who n part => .reading who n part
  | .recording r => .recording r
  | .idle => .recording none
  | .loading _ _ _ => .recording none
  | .committing _ _ _ => .recording none
  | .suspended _ _ _ => .recording none

/-- The blocks that take their route reset values whole: line units (R26), Hold Unit (R142), Message
Engine and Local Port (R170, R31), start-up cut and stepdown sequences (R133). -/
def resetBlocks (s : State) : State :=
  { s with
    ports := ⟨PortRecord.reset, PortRecord.reset⟩
    tx := ⟨s.tx.west.routeReset, s.tx.east.routeReset⟩
    hold := { HoldUnit.reset with own := s.lines.hold, view := if s.lines.hold then ownBit s else 0 }
    msg := MsgEngine.reset
    loc := { s.loc with rateInForce := .r9600, receiver := .hunting }
    pdu := { s.pdu with stepdown := ⟨none, none⟩, startCut := true } }

/-- The route reset takes effect (R170): the cuts and records first, then the sides, then the other
blocks; the Store Controller drains (R193). -/
def routeResetNow (s : State) : State :=
  if s.msg.resetPhase = .due then
    let s1 := onCtl (fun c => { c with op := drainOp c.op, draining := true }) s
    resetBlocks (bothSides resetSide (bothSides resetCut s1))
  else s

/-- The record queue has drained: records lost becomes 0 and the loader starts (R193). While another route
reset, accepted in the drain, is pending or due, the loader waits for it, so that LOADING meets no route reset:
the model's choice (log 26). -/
def startAfterDrain (s : State) : State :=
  if s.ctl.draining && s.ctl.op == .recording none && s.ctl.queue.isEmpty && s.msg.resetPhase == .idle then
    loaderStart .routeReset (onCtl (fun c => { c with draining := false, lost := 0 }) s)
  else s

/-! ### Uptime (R1) -/

/-- A second ends: uptime and the uptime second at both sides; after the largest uptime the value is
free (log 12). -/
def tickSecond (s : State) : State :=
  { s with
    time := { uptime := if s.time.uptime = BitVec.allOnes 32 then Config.uptimeAfterMax s.free else s.time.uptime + 1
              second := ⟨true, true⟩ }
    free := s.free + 1 }

/-- A side takes its uptime second: its failure list ages (R73). -/
def ageSide (sd : Side) (s : State) : State :=
  if s.time.second.get sd then
    modSide sd (fun r =>
      if r.budgetHeld then r
      else { r with failures := ageFailures s.time.uptime (60 * budgetWindow s) r.failures })
      { s with time := { s.time with second := s.time.second.set sd false } }
  else s

end Sys2Proof.Machine
end

