-- ==== Sys2Proof/Machine/Timers.lean ====
section
/-! DEFINITION. The side timers' expiries (R50), the trip lines (R63), scan results (R122 to R126,
R128), the extinction fault (R129) and the Store Controller's events (R184, R188 to R192). -/

namespace Sys2Proof.Machine

/-! ### Side timers -/

/-- The retry timer expires (R54). -/
def retryExpired (sd : Side) (s : State) : State :=
  if (s.side.get sd).retry.isSome then judgeDark sd (modSide sd (fun r => { r with retry := none }) s) else s

/-- The settle timer expires (R91). -/
def settleExpired (sd : Side) (s : State) : State :=
  if (s.side.get sd).settle.isSome then judgeReady sd (modSide sd (fun r => { r with settle := none }) s) else s

/-- The probe timer expires (R101). -/
def probeExpired (sd : Side) (s : State) : State :=
  if (s.side.get sd).probe.isSome ∧ stateOf s sd = .probe then tripLit sd .probeTimeout s else s

/-- The step window timer expires (R107). -/
def stepExpired (sd : Side) (s : State) : State :=
  if (s.side.get sd).stepWindow.isSome ∧ stateOf s sd = .ramp then tripLit sd .stepTimeout s else s

/-- The proving timer expires (R60). -/
def provingExpired (sd : Side) (s : State) : State := modSide sd (fun r => { r with proving := none }) s

/-- The arming's expiry timer runs out (R180). -/
def armingExpired (sd : Side) (s : State) : State :=
  modSide sd (fun r => { r with lock := { r.lock with arming := none } }) s

/-! ### Trip lines -/

/-- The level of a trip line. -/
def setTripLine (sd : Side) (b : Bool) (s : State) : State :=
  { s with lines := { s.lines with trip := s.lines.trip.set sd b } }

/-- A trip line goes to its active level (R63). -/
def assertTrip (sd : Side) (s : State) : State :=
  if s.lines.trip.get sd then s else sideEvent (tripEvent .tripLine) sd (setTripLine sd true s)

/-- A trip line leaves its active level (R63). -/
def releaseTrip (sd : Side) (s : State) : State :=
  if s.lines.trip.get sd then sideEvent judgeDark sd (setTripLine sd false s) else s

/-! ### Scan results -/

/-- The result becomes the latest value and the rotation moves on (R122). -/
def storeResult (n : Fin 8) (value : Word16) (s : State) : State :=
  { s with scan :=
    { s.scan with latest := s.scan.latest.set n.val value, next := n + 1, done := s.scan.done || n == 7 } }

/-- The scan result of a reading of an input: the offset in force added, clipped (R122). -/
def scanValue (s : State) (n : Nat) (reading : Word16) : Word16 :=
  clipPower ((clipPower reading.toInt).toInt + (offsetOf s.tab n).toInt)

/-- The Pump Drive Unit judges a converted reading: running checks pass, and stepdown steps that
waited for them end (R128, R118). -/
def judgeChecks (n : Nat) (raw : Word16) (s : State) : State :=
  let passed := eight.filter fun c => passes n raw (checkOf s.pdu c)
  bothSides (sideEvent (stepdownPassed passed))
    (onPdu (fun u => { u with checks := u.checks.map (judgeCheck n raw) }) s)

/-- A dark detection after a scan result (R124). -/
def darkAfter (e : SpanEntry) (holdOff : Nat) (value : Word16) (d : Dark) : Dark :=
  if d.holding then (if powerLt value e.light then d else ⟨false, d.count⟩)
  else if powerLt value e.dark then
    (if holdOff ≤ d.count + 1 then ⟨true, 0⟩ else ⟨false, d.count + 1⟩)
  else ⟨false, 0⟩

/-- A scan result of a present INPUT monitor: the detection, its beginning or end at the side, the
re-arm of a side (R124, R66 to R68). -/
def inputResult (n : Nat) (value : Word16) (sd : Side) (s : State) : State :=
  let d := s.scan.dark.getD n ⟨false, 0⟩
  let e := darkAfter (spanOf s sd) (hdrHoldOff s.tab.tables) value d
  let t := { s with scan := { s.scan with dark := s.scan.dark.set n e } }
  match d.holding, e.holding with
  | false, true => sideEvent darkBegun sd t
  | true, false => sideEvent darkEnded sd t
  | true, true => if inRearm t sd then sideEvent (rearmScan value) sd t else t
  | false, false => t

/-- The consumers of a scan result in the monitor map in force (R123). -/
def consumeResult (n : Nat) (value : Word16) (s : State) : State :=
  if !mapped s.tab n then s
  else if (mapOf s.tab n).output then sideEvent (outputScan n value) (mapOf s.tab n).side s
  else inputResult n value (mapOf s.tab n).side s

/-- The conversion of input 7 ends a full scan, which has ended after the beginning of every ramp step under
way (R122, R104). -/
def endScan (n : Fin 8) (s : State) : State :=
  if n = 7 then modSide .west (fun r => { r with late := false }) (modSide .east (fun r => { r with late := false }) s)
  else s

/-- A conversion of the input whose turn it is (R122). -/
def scanResult (reading : Word16) (s : State) : State :=
  let n := s.scan.next
  let value := scanValue s n.val reading
  consumeResult n.val value
    (judgeChecks n.val (clipPower reading.toInt) (endScan n (storeResult n value s)))

/-- A full scan completes at both sides (R122). -/
def completeScan (s : State) : State :=
  if s.scan.done then
    bothSides (sideEvent scanCompleted) { s with scan := { s.scan with done := false } }
  else s

/-! ### The extinction fault (R129) -/

/-- The trip record of the site cut. -/
def siteCutRecord (own : Word16) (view : PosSet) : TripRecord :=
  { side := none, cause := .cut, left := none, far := 255, ownInput := minPower, ownOutput := own
    farInput := minPower, view := view }

/-- Steps 1 to 3 of R129. -/
def PumpUnit.cut (u : PumpUnit) : PumpUnit :=
  { u with
    latch := true, checks := List.replicate 8 none, stepdown := ⟨none, none⟩
    drive := List.replicate 8 0 }

/-- The limit timer of a channel's check expires (R129), one sequence with no other event in its middle: the
lead judges no route view between the two cuts. A check that judged no reading has a free last value
(log 15). -/
def extinctionFault (n : Nat) (s : State) : State :=
  match checkOf s.pdu n with
  | none => s
  | some c =>
    let own := c.last.getD (Config.unjudgedReading s.free)
    let s1 := queueRecord (.trip (siteCutRecord own s.hold.view)) (onPdu PumpUnit.cut (nextFree s))
    bothSides cutEvent (sendNotice 115 255 0 .cut .lockout s1)

/-! ### The Store Controller's events -/

/-- The page timer expires and the store is addressed again (R184). -/
def pageTimer (acked : Bool) (s : State) : State :=
  match currentWrite s.ctl.op with
  | none => s
  | some w =>
    if w.done || w.elapsed != 0 then s
    else if acked then acknowledgeWrite w s
    else setOp (mapWrite (fun x => { x with elapsed := 5 }) s.ctl.op) s

/-- What the faulted page write of a record leaves: a lock copy does not become the one a loader finds (R191);
a residue that would make it so leaves the store as it was (log 25). -/
def recordResidue (r : StoreRecord) (left : Residue) (s : State) : State :=
  let t := leaveResidue left s
  match r with
  | .trip _ => t
  | .lock sd _ _ _ => if newestCopy t.store sd = newestCopy s.store sd then t else s

/-- What a page write that faults at 20 ms leaves: in the last page of a commit the signature stays 0000, and step 1
leaves the previous image invalidated or still whole (R188): a residue that would give another signature 5C3A leaves
the store as it was (log 25). -/
def faultResidue (left : Residue) (s : State) : State :=
  match s.ctl.op with
  | .committing _ k w =>
    if k = 11 then leaveResidue (some 0 :: some 0 :: left.drop 2) s
    else if signatureCut k s.store (residueOctets w.data left) then leaveResidue left s
    else s
  | .recording (some r) => recordResidue r.record left s
  | .suspended _ _ (some r) => recordResidue r.record left s
  | .recording none => s
  | .suspended _ _ none => s
  | .idle => s
  | .loading _ _ _ => s
  | .reading _ _ _ => s

/-- The address is repeated 1 ms later, up to 20 ms after the write began (R184). -/
def repeatAddress (acked : Bool) (left : Residue) (s : State) : State :=
  match currentWrite s.ctl.op with
  | none => s
  | some w =>
    if w.done || decide (w.elapsed < 5) then s
    else if acked then acknowledgeWrite w s
    else if w.elapsed + 1 < 20 then
      setOp (mapWrite (fun x => { x with elapsed := x.elapsed + 1 }) s.ctl.op) s
    else faultWrite (faultResidue left s)

/-- A commit's page write completes (R188, R189). -/
def commitPageDone (s : State) : State :=
  match s.ctl.op with
  | .committing who k w =>
    if !w.done then s
    else if k = 11 then finishCommit who s
    else if hdrSuspend s.tab.tables && !s.ctl.queue.isEmpty then
      startRecords s.ctl.queue (setOp (.suspended who (k + 1) none) s)
    else beginCommitPage who (k + 1) s
  | .idle => s
  | .loading _ _ _ => s
  | .suspended _ _ _ => s
  | .recording _ => s
  | .reading _ _ _ => s

/-- A record's write is done: it is noted, and the next record begins or the operation goes on (R189,
R191). -/
def recordDone (r : RecordWrite) (s : State) : State :=
  if r.write.done then startRecords s.ctl.queue (onCtl (completeRecord r.record) s) else s

/-- A record write completes at the Store Controller. -/
def recordWriteDone (s : State) : State :=
  match s.ctl.op with
  | .recording (some r) => recordDone r s
  | .suspended _ _ (some r) => recordDone r s
  | .recording none => s
  | .suspended _ _ none => s
  | .idle => s
  | .loading _ _ _ => s
  | .committing _ _ _ => s
  | .reading _ _ _ => s

/-- The body of a LOG-READ response to a slot's octets (R192). -/
def logBody (n part : Nat) (l : List Octet) : List Octet :=
  if tripRecordValid l then
    [Status.done.code, natOctet n, natOctet part] ++ octets32 (word32At l 0) ++ ((l.drop (16 * part)).take 16)
  else [Status.index.code]

/-- The read of a LOG-READ completes (R192); one that a route reset met is then abandoned without a response,
and the records drain (R193). -/
def logReadDone (s : State) : State :=
  match s.ctl.op with
  | .reading who n part =>
    if s.ctl.draining then onCtl (fun c => { c with op := .recording none, lastFault := false }) s
    else
      respond 15 who.dest who.tag
        (logBody n part (slotOctets s.store ((s.ctl.nextSlot + 64 - (n + 1)) % 64)))
        (onCtl (fun c => { c with op := .idle, lastFault := false }) s)
  | .idle => s
  | .loading _ _ _ => s
  | .committing _ _ _ => s
  | .suspended _ _ _ => s
  | .recording _ => s

end Sys2Proof.Machine
end

