-- ==== Sys2Proof/Machine/PowerCmds.lean ====
section
/-! DEFINITION. Meanings of the power, reset and uptime commands. -/

namespace Sys2Proof.Machine

/-- POWER_ON (R25, R80, R132, R142, R170, R193): the one command a part without power takes. -/
def execPowerOn (pins : PinLevels) (left : Residue) (ch : Choices) (s : State) : Host.Outcome State Fault Refusal :=
  runWith ch (startUp pins left) { s with powered := true }

/-- PIN_RESET (R25, R80, R132, R142, R170, R193, R194). -/
def execPinReset (pins : PinLevels) (left : Residue) (ch : Choices) (s : State) : Host.Outcome State Fault Refusal :=
  runWith ch (startUp pins left) s

/-- ROUTE_RESET (R170, R26, R81, R133, R142, R193). -/
def execRouteReset (ch : Choices) (s : State) : Host.Outcome State Fault Refusal :=
  runWith ch routeResetNow s

/-- LOADER_START_AFTER_DRAIN (R193). -/
def execLoaderStartAfterDrain (ch : Choices) (s : State) : Host.Outcome State Fault Refusal :=
  runWith ch startAfterDrain s

/-- UPTIME_SECOND (R1). -/
def execUptimeSecond (s : State) : Host.Outcome State Fault Refusal :=
  runWith Choices.default tickSecond s

/-- POWER_LOSS (R194); nothing happens at a part already without power. -/
def execPowerLoss (left : Residue) (s : State) : Host.Outcome State Fault Refusal :=
  if s.powered then .next (losePower left s) else .next s

end Sys2Proof.Machine
end

