-- ==== Sys2Proof/Machine/LineCmds.lean ====
section
/-! DEFINITION. Meanings of the line unit's commands (chapter 1). -/

namespace Sys2Proof.Machine

/-- ARRIVAL (R2 to R13). -/
def execArrival (port : Side) (octets : List Octet) (ch : Choices) (s : State) : Host.Outcome State Fault Refusal :=
  runWith ch (takeArrival port octets) s

/-- LOSS_TIMER_EXPIRY (R9, R10). -/
def execLossTimerExpiry (port : Side) (ch : Choices) (s : State) : Host.Outcome State Fault Refusal :=
  runWith ch (enterLoss port) s

/-- FRAME_TIMER_EXPIRY (R13). -/
def execFrameTimerExpiry (tx : Side) (s : State) : Host.Outcome State Fault Refusal :=
  runWith Choices.default (frameDue tx) s

/-- DEPARTURE (R13, R15 to R22, R155). -/
def execDeparture (tx : Side) (s : State) : Host.Outcome State Fault Refusal :=
  runWith Choices.default (depart tx) s

end Sys2Proof.Machine
end

