-- ==== Sys2Proof/Machine/LocalCmds.lean ====
section
/-! DEFINITION. Meanings of the local port's commands (section 7.4). -/

namespace Sys2Proof.Machine

/-- LOCAL_FRAME_RECEIVED (R160, R161). -/
def execLocalFrameReceived (octets : List Octet) (ch : Choices) (s : State) : Host.Outcome State Fault Refusal :=
  runWith ch (takeOctets octets) s

/-- LOCAL_RX_TIMEOUT (R160). -/
def execLocalRxTimeout (s : State) : Host.Outcome State Fault Refusal :=
  runWith Choices.default abandonReception s

/-- LOCAL_STOP_BIT_ERROR (R160). -/
def execLocalStopBitError (s : State) : Host.Outcome State Fault Refusal :=
  runWith Choices.default abandonReception s

/-- LOCAL_TRANSMIT (R162). -/
def execLocalTransmit (s : State) : Host.Outcome State Fault Refusal :=
  runWith Choices.default localSend s

/-- LOCAL_RATE_CHANGE (R31). -/
def execLocalRateChange (s : State) : Host.Outcome State Fault Refusal :=
  runWith Choices.default applyRate s

end Sys2Proof.Machine
end

