-- ==== Sys2Proof/Machine/RequestCmds.lean ====
section
/-! DEFINITION. Meanings of the requests (chapters 2, 6, 7, 8, 9). -/

namespace Sys2Proof.Machine

/-- UNKNOWN_REQUEST (R163). -/
def execUnknownRequest (kind : Octet) (req : Request) (s : State) : Host.Outcome State Fault Refusal :=
  runWith Choices.default (fun t => reqUnknown kind (taken t req) t) s

/-- STATUS_READ (R165). -/
def execStatusRead (req : Request) (s : State) : Host.Outcome State Fault Refusal :=
  runWith Choices.default (fun t => reqStatusRead (taken t req) t) s

/-- SIDE_READ (R166). -/
def execSideRead (req : Request) (s : State) : Host.Outcome State Fault Refusal :=
  runWith Choices.default (fun t => reqSideRead (taken t req) t) s

/-- MONITOR_READ (R167). -/
def execMonitorRead (req : Request) (s : State) : Host.Outcome State Fault Refusal :=
  runWith Choices.default (fun t => reqMonitorRead (taken t req) t) s

/-- ENTRY_READ (R168). -/
def execEntryRead (req : Request) (s : State) : Host.Outcome State Fault Refusal :=
  runWith Choices.default (fun t => reqEntryRead (taken t req) t) s

/-- ENTRY_WRITE (R34 to R37). -/
def execEntryWrite (req : Request) (ch : Choices) (s : State) : Host.Outcome State Fault Refusal :=
  runWith ch (fun t => reqEntryWrite (taken t req) t) s

/-- TABLES_CHECK (R38 to R45). -/
def execTablesCheck (req : Request) (ch : Choices) (s : State) : Host.Outcome State Fault Refusal :=
  runWith ch (fun t => reqTablesCheck (taken t req) t) s

/-- HOLD_SET (R136). -/
def execHoldSet (req : Request) (ch : Choices) (s : State) : Host.Outcome State Fault Refusal :=
  runWith ch (fun t => reqHoldSet (taken t req) t) s

/-- HOLD_CLEAR (R136). -/
def execHoldClear (req : Request) (ch : Choices) (s : State) : Host.Outcome State Fault Refusal :=
  runWith ch (fun t => reqHoldClear (taken t req) t) s

/-- SIDE_SHUT (R173, R175). -/
def execSideShut (req : Request) (ch : Choices) (s : State) : Host.Outcome State Fault Refusal :=
  runWith ch (fun t => reqSideShut (taken t req) t) s

/-- SIDE_LOCK (R173, R174). -/
def execSideLock (req : Request) (ch : Choices) (s : State) : Host.Outcome State Fault Refusal :=
  runWith ch (fun t => reqSideLock (taken t req) t) s

/-- UNLOCK_ARM (R173, R178). -/
def execUnlockArm (req : Request) (s : State) : Host.Outcome State Fault Refusal :=
  runWith Choices.default (fun t => reqUnlockArm (taken t req) t) s

/-- UNLOCK_CONFIRM (R173, R179). -/
def execUnlockConfirm (req : Request) (ch : Choices) (s : State) : Host.Outcome State Fault Refusal :=
  runWith ch (fun t => reqUnlockConfirm (taken t req) t) s

/-- STORE_COMMIT (R188). -/
def execStoreCommit (req : Request) (ch : Choices) (s : State) : Host.Outcome State Fault Refusal :=
  runWith ch (fun t => reqStoreCommit (taken t req) t) s

/-- STORE_RELOAD (R187). -/
def execStoreReload (req : Request) (ch : Choices) (s : State) : Host.Outcome State Fault Refusal :=
  runWith ch (fun t => reqStoreReload (taken t req) t) s

/-- LOG_READ (R192). -/
def execLogRead (req : Request) (ch : Choices) (s : State) : Host.Outcome State Fault Refusal :=
  runWith ch (fun t => reqLogRead (taken t req) t) s

/-- PART_RESET (R169). -/
def execPartReset (req : Request) (s : State) : Host.Outcome State Fault Refusal :=
  runWith Choices.default (fun t => reqPartReset (taken t req) t) s

end Sys2Proof.Machine
end

