-- ==== Sys2Proof/Machine/SideCmds.lean ====
section
/-! DEFINITION. Meanings of the lines' and the side timers' commands (chapters 3, 4, 6, 8). -/

namespace Sys2Proof.Machine

/-- TRIP_LINE_ASSERT (R63). -/
def execTripLineAssert (side : Side) (ch : Choices) (s : State) : Host.Outcome State Fault Refusal :=
  runWith ch (assertTrip side) s

/-- TRIP_LINE_RELEASE (R63, R54). -/
def execTripLineRelease (side : Side) (s : State) : Host.Outcome State Fault Refusal :=
  runWith Choices.default (releaseTrip side) s

/-- HOLD_LINE_ASSERT (R135, R137). -/
def execHoldLineAssert (ch : Choices) (s : State) : Host.Outcome State Fault Refusal :=
  runWith ch (setHoldLine true) s

/-- HOLD_LINE_RELEASE (R135, R137). -/
def execHoldLineRelease (ch : Choices) (s : State) : Host.Outcome State Fault Refusal :=
  runWith ch (setHoldLine false) s

/-- RETRY_TIMER_EXPIRY (R54). -/
def execRetryTimerExpiry (side : Side) (s : State) : Host.Outcome State Fault Refusal :=
  runWith Choices.default (sideEvent retryExpired side) s

/-- SETTLE_TIMER_EXPIRY (R91). -/
def execSettleTimerExpiry (side : Side) (s : State) : Host.Outcome State Fault Refusal :=
  runWith Choices.default (sideEvent settleExpired side) s

/-- PROBE_TIMER_EXPIRY (R101). -/
def execProbeTimerExpiry (side : Side) (ch : Choices) (s : State) : Host.Outcome State Fault Refusal :=
  runWith ch (sideEvent probeExpired side) s

/-- STEP_WINDOW_EXPIRY (R107). -/
def execStepWindowExpiry (side : Side) (ch : Choices) (s : State) : Host.Outcome State Fault Refusal :=
  runWith ch (sideEvent stepExpired side) s

/-- PROVING_TIMER_EXPIRY (R60). -/
def execProvingTimerExpiry (side : Side) (s : State) : Host.Outcome State Fault Refusal :=
  runWith Choices.default (provingExpired side) s

/-- ARMING_EXPIRY (R180). -/
def execArmingExpiry (side : Side) (s : State) : Host.Outcome State Fault Refusal :=
  runWith Choices.default (armingExpired side) s

/-- FAILURE_LIST_AGEING (R73). -/
def execFailureListAgeing (side : Side) (s : State) : Host.Outcome State Fault Refusal :=
  runWith Choices.default (ageSide side) s

end Sys2Proof.Machine
end

