-- ==== Sys2Proof/Machine/ScanCmds.lean ====
section
/-! DEFINITION. Meanings of the Monitor Scanner's and the Pump Drive Unit's commands (chapter 5). -/

namespace Sys2Proof.Machine

/-- MONITOR_SCAN_RESULT (R122 to R126, R128). -/
def execMonitorScanResult (reading : Word16) (ch : Choices) (s : State) : Host.Outcome State Fault Refusal :=
  runWith ch (scanResult reading) s

/-- SCAN_COMPLETE (R122). -/
def execScanComplete (ch : Choices) (s : State) : Host.Outcome State Fault Refusal :=
  runWith ch completeScan s

/-- EXTINCTION_FAULT (R129). -/
def execExtinctionFault (channel : Fin 8) (ch : Choices) (s : State) : Host.Outcome State Fault Refusal :=
  runWith ch (extinctionFault channel.val) s

/-- STEPDOWN_WAIT_EXPIRY (R118 to R120). -/
def execStepdownWaitExpiry (side : Side) (ch : Choices) (s : State) : Host.Outcome State Fault Refusal :=
  runWith ch (sideEvent stepdownWaited side) s

end Sys2Proof.Machine
end

