-- ==== Sys2Proof/Machine/StoreCmds.lean ====
section
/-! DEFINITION. Meanings of the Store Controller's commands (chapter 9). -/

namespace Sys2Proof.Machine

/-- PAGE_TIMER_EXPIRY (R184). -/
def execPageTimerExpiry (acked : Bool) (s : State) : Host.Outcome State Fault Refusal :=
  runWith Choices.default (pageTimer acked) s

/-- ADDRESS_REPEAT (R184). -/
def execAddressRepeat (acked : Bool) (left : Residue) (ch : Choices) (s : State) : Host.Outcome State Fault Refusal :=
  runWith ch (repeatAddress acked left) s

/-- LOADER_READ_COMPLETE (R185, R186). -/
def execLoaderReadComplete (ch : Choices) (s : State) : Host.Outcome State Fault Refusal :=
  runWith ch loaderProgress s

/-- COMMIT_PAGE_COMPLETE (R188, R189). -/
def execCommitPageComplete (ch : Choices) (s : State) : Host.Outcome State Fault Refusal :=
  runWith ch commitPageDone s

/-- RECORD_WRITE_COMPLETE (R189, R191). -/
def execRecordWriteComplete (ch : Choices) (s : State) : Host.Outcome State Fault Refusal :=
  runWith ch recordWriteDone s

/-- LOG_READ_COMPLETE (R192). -/
def execLogReadComplete (ch : Choices) (s : State) : Host.Outcome State Fault Refusal :=
  runWith ch logReadDone s

end Sys2Proof.Machine
end

