-- ==== Sys2Proof/Machine/Dispatch.lean ====
section
/-! DEFINITION. One arm for each command: its meaning. -/

namespace Sys2Proof.Machine

def exec (i : Instr) (s : State) : Host.Outcome State Fault Refusal :=
  match i with
  | .powerOn pins left ch => Sys2Proof.Machine.execPowerOn pins left ch s
  | .pinReset pins left ch => Sys2Proof.Machine.execPinReset pins left ch s
  | .arrival port octets ch => Sys2Proof.Machine.execArrival port octets ch s
  | .lossTimerExpiry port ch => Sys2Proof.Machine.execLossTimerExpiry port ch s
  | .frameTimerExpiry tx => Sys2Proof.Machine.execFrameTimerExpiry tx s
  | .departure tx => Sys2Proof.Machine.execDeparture tx s
  | .routeReset ch => Sys2Proof.Machine.execRouteReset ch s
  | .loaderStartAfterDrain ch => Sys2Proof.Machine.execLoaderStartAfterDrain ch s
  | .localFrameReceived octets ch => Sys2Proof.Machine.execLocalFrameReceived octets ch s
  | .localRxTimeout => Sys2Proof.Machine.execLocalRxTimeout s
  | .localStopBitError => Sys2Proof.Machine.execLocalStopBitError s
  | .localTransmit => Sys2Proof.Machine.execLocalTransmit s
  | .localRateChange => Sys2Proof.Machine.execLocalRateChange s
  | .unknownRequest kind req => Sys2Proof.Machine.execUnknownRequest kind req s
  | .statusRead req => Sys2Proof.Machine.execStatusRead req s
  | .sideRead req => Sys2Proof.Machine.execSideRead req s
  | .monitorRead req => Sys2Proof.Machine.execMonitorRead req s
  | .entryRead req => Sys2Proof.Machine.execEntryRead req s
  | .entryWrite req ch => Sys2Proof.Machine.execEntryWrite req ch s
  | .tablesCheck req ch => Sys2Proof.Machine.execTablesCheck req ch s
  | .holdSet req ch => Sys2Proof.Machine.execHoldSet req ch s
  | .holdClear req ch => Sys2Proof.Machine.execHoldClear req ch s
  | .sideShut req ch => Sys2Proof.Machine.execSideShut req ch s
  | .sideLock req ch => Sys2Proof.Machine.execSideLock req ch s
  | .unlockArm req => Sys2Proof.Machine.execUnlockArm req s
  | .unlockConfirm req ch => Sys2Proof.Machine.execUnlockConfirm req ch s
  | .storeCommit req ch => Sys2Proof.Machine.execStoreCommit req ch s
  | .storeReload req ch => Sys2Proof.Machine.execStoreReload req ch s
  | .logRead req ch => Sys2Proof.Machine.execLogRead req ch s
  | .partReset req => Sys2Proof.Machine.execPartReset req s
  | .tripLineAssert side ch => Sys2Proof.Machine.execTripLineAssert side ch s
  | .tripLineRelease side => Sys2Proof.Machine.execTripLineRelease side s
  | .holdLineAssert ch => Sys2Proof.Machine.execHoldLineAssert ch s
  | .holdLineRelease ch => Sys2Proof.Machine.execHoldLineRelease ch s
  | .retryTimerExpiry side => Sys2Proof.Machine.execRetryTimerExpiry side s
  | .settleTimerExpiry side => Sys2Proof.Machine.execSettleTimerExpiry side s
  | .probeTimerExpiry side ch => Sys2Proof.Machine.execProbeTimerExpiry side ch s
  | .stepWindowExpiry side ch => Sys2Proof.Machine.execStepWindowExpiry side ch s
  | .provingTimerExpiry side => Sys2Proof.Machine.execProvingTimerExpiry side s
  | .armingExpiry side => Sys2Proof.Machine.execArmingExpiry side s
  | .uptimeSecond => Sys2Proof.Machine.execUptimeSecond s
  | .failureListAgeing side => Sys2Proof.Machine.execFailureListAgeing side s
  | .monitorScanResult reading ch => Sys2Proof.Machine.execMonitorScanResult reading ch s
  | .scanComplete ch => Sys2Proof.Machine.execScanComplete ch s
  | .extinctionFault channel ch => Sys2Proof.Machine.execExtinctionFault channel ch s
  | .stepdownWaitExpiry side ch => Sys2Proof.Machine.execStepdownWaitExpiry side ch s
  | .pageTimerExpiry acked => Sys2Proof.Machine.execPageTimerExpiry acked s
  | .loaderReadComplete ch => Sys2Proof.Machine.execLoaderReadComplete ch s
  | .commitPageComplete ch => Sys2Proof.Machine.execCommitPageComplete ch s
  | .recordWriteComplete ch => Sys2Proof.Machine.execRecordWriteComplete ch s
  | .logReadComplete ch => Sys2Proof.Machine.execLogReadComplete ch s
  | .powerLoss left => Sys2Proof.Machine.execPowerLoss left s
  | .addressRepeat acked left ch => Sys2Proof.Machine.execAddressRepeat acked left ch s

end Sys2Proof.Machine
end

