-- ==== Sys2Proof/Machine/Step.lean ====
section
/-! DEFINITION. One step of the machine: the command at the front of the queue, or idling. -/

namespace Sys2Proof.Machine

/-- The state with its queue replaced. -/
def State.withPending (s : State) (q : List Instr) : State := { s with pending := q }

/-- One step: take the front command and run it on the state with the queue's rest; on an empty queue
the part idles (log 4). -/
def step (s : State) : Host.Outcome State Fault Refusal :=
  match s.pending with
  | [] => .next s
  | c :: rest => exec c (s.withPending rest)

/-- The state with the command a word spells put at the front of its queue; unchanged where the word
spells none. -/
def State.withFetchWord (s : State) (nbits w : Nat) : State :=
  match decodeTableWord nbits w with
  | some c => s.withPending (c :: s.pending)
  | none => s

end Sys2Proof.Machine
end

