-- ==== Sys2Proof/Safety.lean ====
section
/-! DEFINITION. Laws of the device that the spec states, and the canonical form of the store, as
predicates on a state. -/

namespace Sys2Proof.Machine

/-- The store's list is in its canonical form. -/
def StoreCanonical (s : State) : Prop := Memory.wf s.store = true

/-- A side is in LOCKOUT or ABSENT. -/
def SideDown (s : State) (sd : Side) : Prop := stateOf s sd = .lockout ∨ stateOf s sd = .absent

/-- R130: while the master cut latch is set, every side is in LOCKOUT or ABSENT. -/
def LatchLaw (s : State) : Prop := s.pdu.latch = true → ∀ sd, SideDown s sd

/-- R8: a port whose score is 255 is WITHDRAWN and a port whose score is 0 is not. -/
def PortLaw (r : PortRecord) : Prop :=
  (r.score = 255 → r.condition = .withdrawn) ∧ (r.score = 0 → r.condition ≠ .withdrawn)

/-- R8 at both ports. -/
def ScoreLaw (s : State) : Prop := ∀ sd, PortLaw (s.ports.get sd)

/-- R140: while the obeyed hold view is not empty, no side is in LISTEN, PROBE, RAMP, RUN or STEPDOWN. -/
def HoldLaw (s : State) : Prop := s.hold.view ≠ 0 → ∀ sd, (stateOf s sd).active = false

/-- A notice of this part: SITE-CUT, or one about the West or the East side (R157). -/
def OwnNotice (n : Message) : Prop := n.kind = 115 ∨ octetAt n.body 0 = 0 ∨ octetAt n.body 0 = 1

/-- R156, R157: an outbound queue holds at most 8 messages, notices of this part alone in its notice class and
no two of them about one subject. -/
def QueueLaw (q : OutQueue) : Prop :=
  q.size ≤ 8 ∧ q.notices.Pairwise (fun a b => sameSubject a b = false) ∧ ∀ n ∈ q.notices, OwnNotice n

/-- R28: a side is in LISTEN, PROBE, RAMP, RUN or STEPDOWN only while the working tables are validated. -/
def FlagLaw (s : State) : Prop := s.tab.validated = false → ∀ sd, (stateOf s sd).active = false

/-- R116, R114: a channel above zero is a pump in force of a side in RAMP, RUN or STEPDOWN, or a probe-lit pump
of a side in PROBE; so every other pump and every channel not in the plan in force is at zero. -/
def PumpLaw (s : State) : Prop :=
  ∀ n, driveOf s.pdu n ≠ 0 → ∃ sd,
    (n ∈ pumpsUp s.tab sd ∧ stateOf s sd ∈ [.ramp, .run, .stepdown]) ∨
    (n ∈ probeLit s.tab sd ∧ stateOf s sd = .probe)

/-- R28: set, the flag says that the working tables pass the checks; it is clear throughout a loader run. -/
def TablesLaw (s : State) : Prop :=
  (s.tab.validated = true → runChecks (pos s) s.tab.tables = none) ∧
  (s.ctl.op.isLoading = true → s.tab.validated = false)

/-- R72: no restart failure list is longer than 15, and a side that is not in LOCKOUT holds fewer failures than a
restart budget that is not 0. -/
def FailureLaw (s : State) : Prop :=
  ∀ sd, (s.side.get sd).failures.length ≤ 15 ∧
    (stateOf s sd ≠ .lockout → hdrBudget s.tab.tables ≠ 0 →
      (s.side.get sd).failures.length < hdrBudget s.tab.tables)

/-- R115: no pump stands above zero while its prerequisite pump stands at zero. -/
def PrereqLaw (s : State) : Prop :=
  ∀ n q, driveOf s.pdu n ≠ 0 → (planOf s.tab n).prereq = some q → driveOf s.pdu q ≠ 0

/-- R114: no pump stands above its full drive, and no pump of a side in PROBE above its probe drive. -/
def LevelLaw (s : State) : Prop :=
  ∀ sd, ∀ n ∈ pumpsUp s.tab sd,
    (driveOf s.pdu n).toNat ≤ (planOf s.tab n).full.toNat ∧
    (stateOf s sd = .probe → (driveOf s.pdu n).toNat ≤ (planOf s.tab n).probe.toNat)

/-- R190: the record queue holds at most 4 records and at most one lock record of a side, and records lost is at
most 65535. -/
def RecordQueueLaw (c : StoreCtl) : Prop :=
  c.queue.length ≤ 4 ∧ (∀ sd, (c.queue.filter (StoreRecord.locksSide sd)).length ≤ 1) ∧ c.lost ≤ 65535

/-- Section 2.1: each working table has its number of entries, each entry its number of octets. -/
def TablesShaped (t : Tables) : Prop :=
  t.header.length = 17 ∧ (t.spans.length = 31 ∧ ∀ e ∈ t.spans, e.length = 14) ∧
  (t.pumps.length = 8 ∧ ∀ e ∈ t.pumps, e.length = 18) ∧ (t.monitors.length = 8 ∧ ∀ e ∈ t.monitors, e.length = 5) ∧
  (t.accepts.length = 8 ∧ ∀ e ∈ t.accepts, e.length = 5) ∧ t.site.length = 9

/-! ### Words of the statements -/

/-- The state as a command with these choices begins: its choices in place. -/
def withChoices (ch : Choices) (s : State) : State := { s with choices := ch }

/-- The state as a command without choices begins. -/
def begun (s : State) : State := withChoices Choices.default s

/-- A request of a kind answered with body octets: the response goes to the request's source (R163). -/
def answer (kind : Octet) (req : Request) (body : List Octet) (s : State) : State :=
  respond kind (taken s req).source req.tag body s

/-- Kind and command of the modifying requests (section 7.1). -/
def modifyingKind : Instr → Option (Octet × Request)
  | .entryWrite req _ => some (5, req)
  | .tablesCheck req _ => some (6, req)
  | .holdSet req _ => some (7, req)
  | .holdClear req _ => some (8, req)
  | .sideShut req _ => some (9, req)
  | .sideLock req _ => some (10, req)
  | .unlockArm req => some (11, req)
  | .unlockConfirm req _ => some (12, req)
  | .storeCommit req _ => some (13, req)
  | .storeReload req _ => some (14, req)
  | .partReset req => some (16, req)
  | _ => none

/-- Kind and command of the reading requests (section 7.1). -/
def readingKind : Instr → Option (Octet × Request)
  | .statusRead req => some (1, req)
  | .sideRead req => some (2, req)
  | .monitorRead req => some (3, req)
  | .entryRead req => some (4, req)
  | .logRead req _ => some (15, req)
  | _ => none

/-- The choices a command carries; a command without choices runs with the default ones. -/
def choicesOf : Instr → Choices
  | .entryWrite _ ch => ch
  | .tablesCheck _ ch => ch
  | .holdSet _ ch => ch
  | .holdClear _ ch => ch
  | .sideShut _ ch => ch
  | .sideLock _ ch => ch
  | .unlockConfirm _ ch => ch
  | .storeCommit _ ch => ch
  | .storeReload _ ch => ch
  | .logRead _ ch => ch
  | _ => Choices.default

/-- The body of a refusal that gives the status alone, but for ENTRY-WRITE (R163, section 2.8). -/
def refusalBody (kind : Octet) (req : Request) (status : Octet) : List Octet :=
  if kind = 5 then [status, octetAt req.body 0, octetAt req.body 1, 0] else [status]

/-- A request from the local port, or from a position in the manager set in force (R164). -/
def Permitted (s : State) (req : Request) : Prop :=
  req.via = .localPort ∨ (req.source.toNat < 32 ∧ (managerSet s).getLsbD req.source.toNat = true)

/-- A modifying request that passes the judgments of R163: permitted, with no route reset pending, in
a powered part. -/
def Accepted (s : State) (req : Request) : Prop :=
  s.powered = true ∧ Permitted s req ∧ s.msg.resetPhase = .idle

/-- These octets end with the 30th octet of a local frame (R160): a receiver that holds the frame's first octets takes
its last ones, or a hunting one takes the start octet and all 30 after octets it discards, and with the start octet
the rate in force (R31, log 9). `u` is the state in which the frame is judged, the receiver hunting again. -/
def FrameCompleted (octets frame : List Octet) (s u : State) : Prop :=
  frame.length = 30 ∧
  ((∃ held, s.loc.receiver = .receiving held ∧ held.length < 30 ∧ frame = held ++ octets ∧
      u = { s with loc := { s.loc with receiver := .hunting } }) ∨
    (∃ noise, s.loc.receiver = .hunting ∧ octets = noise ++ 0xA5 :: frame ∧ (∀ o ∈ noise, o ≠ 0xA5) ∧
      u = { s with loc := { s.loc with receiver := .hunting, rateApplied := s.loc.rateInForce } }))

/-- R7: an arrival's octets repeat the last origin with a sequence other than the last plus one modulo 256. -/
def scoreSkips (r : PortRecord) (octets : List Octet) : Bool :=
  match r.last with
  | none => false
  | some (origin, sequence) => octetAt octets 1 == origin && octetAt octets 2 != sequence + 1

/-- The refusals of the four side requests (R173), whose response carries the side octet and the side's state
code (section 8.2). -/
def SideRefusals (kind len : Octet) (c : Instr) (req : Request) (s : State) : Prop :=
  (req.len ≠ len → exec c s = .next (settle (answer kind req [4] (withChoices (choicesOf c) s)))) ∧
  (req.len = len → 1 < (octetAt req.body 0).toNat →
    exec c s = .next (settle (answer kind req [3, octetAt req.body 0, 0] (withChoices (choicesOf c) s)))) ∧
  (∀ sd, req.len = len → octetAt req.body 0 = sideOctet sd → isAbsent s sd = true →
    exec c s = .next (settle (answer kind req [3, sideOctet sd, 1] (withChoices (choicesOf c) s))))

/-- What a side or the Pump Drive Unit hands over reaches the Store Controller in this order (R190): a controller
with an operation of its own keeps it and takes the records into its queue; one that is IDLE with nothing waiting
begins to write the first (R184), where the store acknowledges and writes begin at once (log 6). -/
def RecordsHanded (ch : Choices) (l : List StoreRecord) (s t : State) : Prop :=
  (s.ctl.op ≠ .idle → s.ctl.op ≠ .recording none → t.ctl = l.foldl (fun c r => joinRecord r c) s.ctl) ∧
  (s.ctl.op = .idle → s.ctl.queue = [] → ch.acks = [] → ch.lateStart = false →
    (l = [] → t.ctl = s.ctl) ∧
    ∀ r rest, l = r :: rest → t.ctl =
      { rest.foldl (fun c r => joinRecord r c) s.ctl with op := .recording (some ⟨r, recordWrite s r⟩) })

/-- The Store Controller after a store fault has ended a record's write (R191): the record is lost and counted, and the
slot and number of a trip record advance all the same. -/
def recordLost (r : StoreRecord) (c : StoreCtl) : StoreCtl :=
  match r with
  | .trip _ =>
    { c with
      nextSlot := (c.nextSlot + 1) % 64, nextNumber := if c.nextNumber = 4294967295 then 1 else c.nextNumber + 1
      lost := min 65535 (c.lost + 1), lastFault := true }
  | .lock _ _ _ _ => { c with lost := min 65535 (c.lost + 1), lastFault := true }

/-- How a Store Controller in RECORDING or SUSPENDED goes on with the records of its queue (R189, R191): the oldest
begins to be written where the store acknowledges its address, and is lost where it does not, so that the next one
follows. With none left a suspended commit begins its next page, or ends by the store fault that this access meets
(R188), and RECORDING ends, or waits while a route reset drains (R193). -/
def RecordsGoOn : List StoreRecord → State → State → Prop
  | [], s, t =>
    (∀ w, s.ctl.op = .recording w →
      t = { s with ctl := { s.ctl with queue := [], op := if s.ctl.draining then .recording none else .idle } }) ∧
    ∀ who k w, s.ctl.op = .suspended who k w →
      let asked : Choices := { s.choices with acks := s.choices.acks.tail }
      (ackOf s = true → t = { s with
        ctl := { s.ctl with queue := [], op := .committing who k (commitPage s.tab.tables k) }, choices := asked }) ∧
      (ackOf s = false → t = respond 13 who.dest who.tag
        [10, if k = 0 then 255 else if k = 11 then 0 else natOctet k]
        { s with ctl := { s.ctl with queue := [], op := .idle, lastFault := true }, choices := asked })
  | r :: q, s, t =>
    let asked : Choices := { s.choices with acks := s.choices.acks.tail }
    (ackOf s = true →
      (∀ w, s.ctl.op = .recording w → t = { s with
        ctl := { s.ctl with queue := q, op := .recording (some ⟨r, recordWrite s r⟩) }, choices := asked }) ∧
      ∀ who k w, s.ctl.op = .suspended who k w → t = { s with
        ctl := { s.ctl with queue := q, op := .suspended who k (some ⟨r, recordWrite s r⟩) }, choices := asked }) ∧
    (ackOf s = false →
      RecordsGoOn q { s with ctl := { recordLost r s.ctl with queue := q }, choices := asked } t)

/-- The lock record of a side that is locked out anew: the lockout record after the entry (R77, R171, R182). -/
def lockedRecord (sd : Side) (cause : Cause) (s : State) : StoreRecord :=
  .lock sd true cause ((s.side.get sd).lock.count + 1)

/-- R79: as a loader run ends, the master cut latch locks out a side that is in neither LOCKOUT nor UNCONFIGURED. -/
def latchForced (s : State) (sd : Side) : Bool :=
  s.pdu.latch && stateOf s sd != .lockout && stateOf s sd != .unconfigured

/-- The lock records that the end of a loader run queues, in their order (R77, R182, R186). In step 1 a side that the
latch locks out hands on its new record; in step 2 a stored CUT lock that a power-on or pin reset releases, where the
working record is not locked, is queued as not locked, with its reason and count; in step 3, where an image of this
route length passes its checks, a side in LOCKOUT that becomes ABSENT hands on its record as it stands, and then a
side that leaves UNCONFIGURED for LOCKOUT its new one. `copy` gives the newest copies that were read, `stored` the
lockout records after step 2. -/
def runEndRecords (ch : Choices) (origin : LoaderOrigin) (copy : Side → Option (Bool × List Octet))
    (stored : Side → LockRecord) (length : Option Nat) (s : State) : List StoreRecord :=
  let inOrder := fun (f : Side → List StoreRecord) =>
    if ch.eastFirst then f .east ++ f .west else f .west ++ f .east
  let validated := fun (f : Nat → Side → List StoreRecord) =>
    match length with
    | none => []
    | some l => inOrder (f l)
  inOrder (fun sd => if latchForced s sd then [lockedRecord sd .cut s] else []) ++
  inOrder (fun sd =>
    if origin = .powerUp ∧ latchForced s sd = false ∧ (s.side.get sd).lock.locked = false then
      match copy sd with
      | none => []
      | some c => if octetAt c.2 2 = 1 ∧ octetAt c.2 3 = 16 then [.lock sd false .cut (word16At c.2 4)] else []
    else []) ++
  validated (fun l sd =>
    if absentUnder (pos s) l sd = false then []
    else if latchForced s sd then [lockedRecord sd .cut s]
    else if stateOf s sd = .lockout then [.lock sd (stored sd).locked (stored sd).reason (stored sd).count]
    else []) ++
  validated (fun l sd =>
    if absentUnder (pos s) l sd = true ∨ latchForced s sd = true ∨ stateOf s sd = .lockout then []
    else if (stored sd).locked then [.lock sd true (stored sd).reason ((stored sd).count + 1)]
    else if s.pdu.latch then [.lock sd true .cut ((stored sd).count + 1)]
    else [])

/-- The end of a loader run has queued these records, and the Store Controller leaves LOADING as R184 states: for
RECORDING where a record waits, whose write begins where the store acknowledges its access, and else for IDLE. -/
def RunEndQueued (acked : Bool) (l : List StoreRecord) (s t : State) : Prop :=
  let c := l.foldl (fun c r => joinRecord r c) s.ctl
  (∃ u, t = settle u ∧ u.ctl.op = .idle ∧ u.ctl.queue = c.queue ∧ u.ctl.lost = c.lost) ∧
  (c.queue = [] → t.ctl.op = .idle ∧ t.ctl.queue = [] ∧ t.ctl.lost = c.lost) ∧
  ∀ r q, c.queue = r :: q → acked = true →
    t.ctl.op = .recording (some ⟨r, recordWrite t r⟩) ∧ t.ctl.queue = q ∧ t.ctl.lost = c.lost

/-- The trip record of a side (R76), its fields read off the state after the command, in which ports, readings,
tables and view stand as at the exit. -/
def tripRecordAt (sd : Side) (cause : Cause) (left : SideState) (t : State) : StoreRecord :=
  .trip
    { side := some sd, cause := cause, left := some left
      far := match (t.ports.get sd).report with | none => 255 | some r => r.sender
      ownInput := rxValue t sd
      ownOutput := match txReading t sd with | none => minPower | some o => o
      farInput := match (t.ports.get sd).report with | none => minPower | some r => r.measured
      view := t.hold.view }

/-- What a notice of this part says (R75, R143): its kind, the side it is about, the cause and the state entered. -/
structure Made where
  kind : Octet
  side : Option Side
  cause : Cause
  entered : SideState

/-- The notice as it occupies the message slot, with its notice number (R143). -/
def noticeOf (s : State) (x : Made) (number : Octet) : Message :=
  { kind := x.kind, dest := 255, source := posOctet s, tag := number, len := 4
    body :=
      [match x.side with | none => 255 | some sd => sideOctet sd,
       match x.side with | none => 0 | some .west => natOctet (pos s) | some .east => natOctet (pos s + 1),
       causeCode x.cause, x.entered.code] ++ List.replicate 19 0 }

/-- The notices made, in this order: each takes the next notice number, and its copies join the outbound queue of
each side that is not ABSENT and the local delivery queue (R143, R144). -/
def NoticesMade (l : List Made) (s t : State) : Prop :=
  t.msg = l.foldl (fun m x =>
    postNotice (isAbsent s .west) (isAbsent s .east) (noticeOf s x m.noticeNumber) m) s.msg

/-- What an entry to LOCKOUT hands on (R75, R76, R77, R171): from a state that lights its pumps the trip record
with the recorded cause, then the lock record; the SIDE-LOCK notice follows the notices before it. -/
def LockoutHandsOn (ch : Choices) (before : List Made) (sd : Side) (cause recorded : Cause) (left : SideState)
    (s t : State) : Prop :=
  RecordsHanded ch
    ((if left.lights then [tripRecordAt sd recorded left t] else []) ++ [lockedRecord sd cause s]) s t ∧
  NoticesMade (before ++ [⟨114, some sd, cause, .lockout⟩]) s t

/-- What a trip from PROBE, RAMP or RUN hands on (R72, R75, R76, R77): its trip record, and the SIDE-TRIP notice
with its cause; the failure that reaches the budget locks the side out with reason BUDGET. -/
def TripHandsOn (ch : Choices) (before : List Made) (sd : Side) (cause : Cause) (left : SideState) (s t : State) :
    Prop :=
  let spent : Prop := (stateOf s sd ≠ .run ∨ (s.side.get sd).proving ≠ none) ∧
    hdrBudget s.tab.tables ≤ (s.side.get sd).failures.length + 1
  (spent → LockoutHandsOn ch before sd .budget cause left s t) ∧
  (¬ spent → RecordsHanded ch [tripRecordAt sd cause left t] s t ∧
    NoticesMade (before ++ [⟨112, some sd, cause, .dark⟩]) s t)

/-- A side at rest after an exit from an active state: DARK with a reason and retry timer, or on to HOLD under
a hold view (R53). -/
def RestsWith (sd : Side) (cause : Cause) (retry : Nat) (s t : State) : Prop :=
  stateOf t sd = (if s.hold.view = 0 then .dark else .hold) ∧
  (t.side.get sd).reason = (if s.hold.view = 0 then cause else .hold) ∧
  (t.side.get sd).retry = (if s.hold.view = 0 then some retry else none)

/-- The record of a side after an exit from PROBE, RAMP or RUN (R70), its pumps dark and its stepdown sequence
idle (R69). -/
def Extinguished (sd : Side) (s t : State) : Prop :=
  (t.side.get sd).settle = none ∧ (t.side.get sd).probe = none ∧ (t.side.get sd).stepWindow = none ∧
  (t.side.get sd).proving = none ∧ (t.side.get sd).step = none ∧ (t.side.get sd).ready = false ∧
  (t.side.get sd).verified = false ∧ (t.side.get sd).mismatchRun = 0 ∧ (t.side.get sd).starved = false ∧
  (t.side.get sd).rearm = 0 ∧ (t.side.get sd).agree.state = .none ∧ (t.side.get sd).agree.count = 0 ∧
  (∀ n ∈ pumpsUp s.tab sd, driveOf t.pdu n = 0) ∧ t.pdu.stepdown.get sd = none

/-- A side in PROBE, RAMP or RUN has tripped with a cause (R61 to R66, R69 to R72): a counted failure below the
budget waits the restart interval, at the budget it locks the side out, and an uncounted trip waits the trip
rest. -/
def Tripped (sd : Side) (cause : Cause) (s t : State) : Prop :=
  let counted : Prop := stateOf s sd ≠ .run ∨ (s.side.get sd).proving ≠ none
  let list := (s.side.get sd).failures ++ [s.time.uptime]
  (counted → list.length < hdrBudget s.tab.tables →
    RestsWith sd cause (restartInterval s) s t ∧ (t.side.get sd).failures = list ∧
    (t.side.get sd).lock = (s.side.get sd).lock) ∧
  (counted → hdrBudget s.tab.tables ≤ list.length →
    stateOf t sd = .lockout ∧ (t.side.get sd).reason = .budget ∧ (t.side.get sd).retry = none ∧
    (t.side.get sd).failures = list ∧
    (t.side.get sd).lock =
      { locked := true, reason := .budget, count := (s.side.get sd).lock.count + 1, arming := none }) ∧
  (¬ counted →
    RestsWith sd cause (tripRest s) s t ∧ (t.side.get sd).failures = (s.side.get sd).failures ∧
    (t.side.get sd).lock = (s.side.get sd).lock) ∧
  Extinguished sd s t

/-- A side in PROBE, RAMP or RUN has tripped with a cause, and what it hands on. -/
def Trips (ch : Choices) (sd : Side) (cause : Cause) (s t : State) : Prop :=
  Tripped sd cause s t ∧ TripHandsOn ch [] sd cause (stateOf s sd) s t

/-- A side has taken a trip cause that acts in LISTEN too (R57, R61, R63): from LISTEN it rests for the trip
rest, no failure counted and nothing handed on. -/
def TookTrip (ch : Choices) (sd : Side) (cause : Cause) (s t : State) : Prop :=
  (stateOf s sd = .listen →
    RestsWith sd cause (tripRest s) s t ∧ (t.side.get sd).settle = none ∧ (t.side.get sd).ready = false ∧
    (t.side.get sd).agree.state = .none ∧ (t.side.get sd).failures = (s.side.get sd).failures ∧
    (t.side.get sd).lock = (s.side.get sd).lock ∧ RecordsHanded ch [] s t ∧ NoticesMade [] s t) ∧
  (stateOf s sd ∈ [.probe, .ramp, .run] → Trips ch sd cause s t)

/-- A dark input judged at a side in RUN, or entering it from RAMP (R66), with the notices made before it. What is
handed on stands where the command moves no other side. -/
def DarkInputJudged (alone : Prop) (ch : Choices) (before : List Made) (sd : Side) (s t : State) : Prop :=
  (∀ r, farView s sd = some r → r.throughDark = true →
    stateOf t sd = .run ∧ (t.side.get sd).starved = true ∧
    (alone → RecordsHanded ch [] s t ∧ NoticesMade before s t)) ∧
  ((∀ r, farView s sd = some r → r.throughDark = false) →
    Tripped sd .darkInput s t ∧ (alone → TripHandsOn ch before sd .darkInput .run s t))

/-- The SIDE-RUN notice of a side (R60, R75). -/
def ranNotice (sd : Side) : Made := ⟨113, some sd, .none, .run⟩

/-- A pump's prerequisite is a pump of its own side, as the checks require (R39, check 9). -/
def PrereqsOwn (t : TableMem) : Prop :=
  ∀ n q, assigned t n = true → (planOf t n).prereq = some q → (planOf t q).side = (planOf t n).side

/-- The prerequisite of a pump that a side lights in PROBE is lit there too and has a lower order, as the checks
require (R39, checks 9 and 10). -/
def LitInOrder (t : TableMem) (sd : Side) : Prop :=
  ∀ n ∈ probeLit t sd, ∀ q, (planOf t n).prereq = some q →
    q ∈ probeLit t sd ∧ (planOf t q).order < (planOf t n).order

/-- A side's pumps stand as before. The lead's judgment may follow a West side's event (log 38), and under
prerequisites within a side it leaves them so. -/
def DrivesKept (sd : Side) (s t : State) : Prop :=
  sd = .east ∨ PrereqsOwn s.tab → ∀ n ∈ pumpsUp s.tab sd, driveOf t.pdu n = driveOf s.pdu n

/-- A side has lit its probe (R97, R98): the lighting is done, and with no latch set each of its probe-lit pumps
stands at probe drive and its other pumps as before (R114, R115). -/
def Lighted (sd : Side) (s t : State) : Prop :=
  (t.side.get sd).lit = true ∧
  (s.pdu.latch = false → s.pdu.drive.length = 8 → LitInOrder s.tab sd → sd = .east ∨ PrereqsOwn s.tab →
    (∀ n ∈ probeLit s.tab sd, driveOf t.pdu n = (planOf s.tab n).probe) ∧
    ∀ n ∈ pumpsUp s.tab sd, n ∉ probeLit s.tab sd → driveOf t.pdu n = driveOf s.pdu n)

/-- A side has entered PROBE from LISTEN (R94, R97, R98): its probe timer runs for the agreed duration, and it lights
its probe as the lead, or as a follower whose far view shows VERIFIED at the entry. -/
def ProbeEntered (sd : Side) (verified : Bool) (s t : State) : Prop :=
  stateOf t sd = .probe ∧ (t.side.get sd).probe = some (t.side.get sd).agree.duration.toNat ∧
  (t.side.get sd).verified = false ∧ (t.side.get sd).mismatchRun = 0 ∧ (t.side.get sd).step = none ∧
  (sd = .east ∨ verified = true → Lighted sd s t) ∧
  (sd = .west → verified = false → (t.side.get sd).lit = false ∧ DrivesKept sd s t)

/-- The ramp step of pump `n` has begun (R103, R104): its order is the current step, its step window runs, the
mismatch run count is 0, and full drive is commanded to it. Where nothing stands against the raise (R114, R115, R130)
the pump stands at full drive, its extinction check withdrawn (R128), and the side's other pumps as before; the other
side's too, where the command moves no other side. -/
def StepBegun (alone : Prop) (sd : Side) (n : Nat) (s t : State) : Prop :=
  stateOf t sd = .ramp ∧ (t.side.get sd).step = some (planOf s.tab n).order ∧
  (t.side.get sd).stepWindow = some (planOf s.tab n).window ∧ (t.side.get sd).mismatchRun = 0 ∧
  (t.side.get sd).armed = false ∧
  (s.pdu.latch = false → s.pdu.drive.length = 8 → (planOf s.tab n).full ≠ 0 →
    (∀ q, (planOf s.tab n).prereq = some q → driveOf s.pdu q ≠ 0) →
    (alone ∨ PrereqsOwn s.tab →
      driveOf t.pdu n = (planOf s.tab n).full ∧ checkOf t.pdu n = none ∧
      ∀ m ∈ pumpsUp s.tab sd, m ≠ n → driveOf t.pdu m = driveOf s.pdu m) ∧
    (alone → ∀ m, m ≠ n → driveOf t.pdu m = driveOf s.pdu m))

/-- A side has entered RUN from RAMP (R60): its proving timer runs, its SIDE-RUN notice is made, and its dark input is
judged at once. What is handed on stands where the command moves no other side. -/
def RunEntered (alone : Prop) (ch : Choices) (sd : Side) (s t : State) : Prop :=
  (darkHolds s sd = false →
    stateOf t sd = .run ∧ (t.side.get sd).step = none ∧ (t.side.get sd).stepWindow = none ∧
    (t.side.get sd).proving = some (hdrProving s.tab.tables) ∧
    (alone → RecordsHanded ch [] s t ∧ NoticesMade [ranNotice sd] s t)) ∧
  (darkHolds s sd = true → DarkInputJudged alone ch [ranNotice sd] sd s t)

/-- The ramp step of pump `n` has passed (R104, R60): the next higher order begins, or RUN is entered. What is handed
on stands where the command moves no other side. -/
def StepPassed (alone : Prop) (ch : Choices) (sd : Side) (n : Nat) (s t : State) : Prop :=
  (∀ k, (pumpsUp s.tab sd).find? (fun k => decide ((planOf s.tab n).order < (planOf s.tab k).order)) = some k →
    StepBegun alone sd k s t ∧ (alone → RecordsHanded ch [] s t ∧ NoticesMade [] s t)) ∧
  ((∀ k ∈ pumpsUp s.tab sd, (planOf s.tab k).order ≤ (planOf s.tab n).order) → RunEntered alone ch sd s t)

/-- A stepdown step of pump `n` has ended (R118, R119, R120, R176): the next lower order begins, or the side is
locked out with reason ORDERED. What is handed on stands where the command moves no other side. -/
def StepdownStepEnded (alone : Prop) (ch : Choices) (sd : Side) (n : Nat) (s t : State) : Prop :=
  (∀ k, (pumpsDown s.tab sd).find? (fun k => decide ((planOf s.tab k).order < (planOf s.tab n).order)) = some k →
    stateOf t sd = .stepdown ∧ (t.side.get sd).step = some (planOf s.tab k).order ∧ driveOf t.pdu k = 0 ∧
    ((planOf s.tab k).monitor = none → t.pdu.stepdown.get sd = some ⟨k, .timer (planOf s.tab k).window⟩) ∧
    ((planOf s.tab k).monitor ≠ none → ∃ l, t.pdu.stepdown.get sd = some ⟨k, .checks (k :: l)⟩) ∧
    (alone → RecordsHanded ch [] s t ∧ NoticesMade [] s t)) ∧
  ((∀ k ∈ pumpsDown s.tab sd, (planOf s.tab n).order ≤ (planOf s.tab k).order) →
    stateOf t sd = .lockout ∧ (t.side.get sd).reason = .ordered ∧ t.pdu.stepdown.get sd = none ∧
    (t.side.get sd).lock =
      { locked := true, reason := .ordered, count := (s.side.get sd).lock.count + 1, arming := none } ∧
    (∀ k ∈ pumpsUp s.tab sd, driveOf t.pdu k = 0) ∧
    (alone → LockoutHandsOn ch [] sd .ordered .ordered .stepdown s t))

/-- A far report judged by the verification test (R83): against the light threshold and the window below the
TX output reading. -/
def TestBelow (s : State) (sd : Side) (r : Report) : Prop := r.measured.toInt < (spanOf s sd).light.toInt

/-- The test passes: at or above the threshold, and inside the window where a TX output reading stands. -/
def TestPass (s : State) (sd : Side) (r : Report) : Prop :=
  (spanOf s sd).light.toInt ≤ r.measured.toInt ∧
  ∀ o, txReading s sd = some o →
    o.toInt - (spanOf s sd).lossMax ≤ r.measured.toInt ∧ r.measured.toInt ≤ o.toInt - (spanOf s sd).lossMin

/-- What one outside result does (R99, R105): it counts, and the eighth trips with MISMATCH. -/
def OutsideCounted (sd : Side) (s t : State) : Prop :=
  ((s.side.get sd).mismatchRun + 1 < 8 →
    stateOf t sd = stateOf s sd ∧ (t.side.get sd).mismatchRun = (s.side.get sd).mismatchRun + 1) ∧
  (8 ≤ (s.side.get sd).mismatchRun + 1 → Trips s.choices sd .mismatch s t)

/-- The advertisement of a report is refused at a resolution (R87). -/
def Refused (s : State) (sd : Side) (r : Report) : Prop :=
  r.agreedMode ≠ (spanOf s sd).agreed ∨ r.duration.toNat < 10 ∨ 100 < r.duration.toNat ∨
    r.launch.toInt < r.probe.toInt

/-- The advertisement of a report taken in PROBE, RAMP or RUN trips the side (R109 to R111). -/
def AdvertTrips (s : State) (sd : Side) (r : Report) : Prop :=
  (s.side.get sd).agree.far ≠ some r.advert ∧ ((spanOf s sd).agreed = false ∨ Refused s sd r)

/-- The agreement after a tolerated advertisement taken in PROBE, RAMP or RUN (R109, R110). -/
def AdvertLowered (sd : Side) (r : Report) (s t : State) : Prop :=
  ((s.side.get sd).agree.far = some r.advert → (t.side.get sd).agree = (s.side.get sd).agree) ∧
  ((s.side.get sd).agree.far ≠ some r.advert → (t.side.get sd).agree =
    { (s.side.get sd).agree with
      far := some r.advert, probe := powerMin (s.side.get sd).agree.probe r.probe
      launch := powerMin (s.side.get sd).agree.launch r.launch
      mismatch := r.edition != hdrEdition s.tab.tables })

/-- The agreement after a resolution (R87, R88, R89) on the held advertisement of a report. -/
def Resolved (sd : Side) (r : Report) (s : State) (a : Agreement) : Prop :=
  let e := spanOf s sd
  a.far = some r.advert ∧ a.count = 16 ∧ a.mismatch = (r.edition != hdrEdition s.tab.tables) ∧
  (Refused s sd r → a.state = .refused) ∧
  (¬ Refused s sd r → e.agreed = true →
    a.state = .settled ∧ a.probe = powerMin e.probe r.probe ∧ a.launch = powerMin e.launch r.launch ∧
    a.duration = if e.duration.toNat < r.duration.toNat then r.duration else e.duration) ∧
  (¬ Refused s sd r → e.agreed = false →
    let equal : Prop := r.probe = e.probe ∧ r.launch = e.launch ∧ r.duration = e.duration ∧
      r.edition = hdrEdition s.tab.tables
    (equal → a.state = .settled ∧ a.probe = e.probe ∧ a.launch = e.launch ∧ a.duration = e.duration) ∧
    (¬ equal → a.state = .refused))

/-- The far view lets a READY side go to PROBE: the lead by R94, the follower by R98. -/
def ProbeAllowed (s : State) (sd : Side) (r : Report) : Prop :=
  match sd with
  | .east => r.shows .listen = true ∧ r.ready = true ∧ pacingCount s < hdrLimit s.tab.tables
  | .west => r.shows .probe = true

/-- A far report taken in LISTEN (R85, R86, R91, R94, R98). -/
def FarInListen (sd : Side) (r : Report) (s t : State) : Prop :=
  let a := (s.side.get sd).agree
  let b := (t.side.get sd).agree
  (r.advertising = false → b = { a with far := none, count := 0, state := unsettle a.state }) ∧
  (r.advertising = true → a.far ≠ some r.advert →
    b = { a with far := some r.advert, count := 0, state := unsettle a.state }) ∧
  (r.advertising = true → a.far = some r.advert → ¬ (15 ≤ a.count ∧ a.state = .settling) →
    b = { a with count := min 16 (a.count + 1) }) ∧
  (r.advertising = true → a.far = some r.advert → 15 ≤ a.count → a.state = .settling → Resolved sd r s b) ∧
  (b.state ≠ .settled → stateOf t sd = .listen ∧ (t.side.get sd).ready = false) ∧
  (b.state = .settled →
    let ready : Prop := (s.side.get sd).ready = true ∨ ((s.side.get sd).settle = none ∧
      (s.ports.get sd).condition = .clear ∧ s.lines.trip.get sd = false)
    ((t.side.get sd).ready = true ↔ ready) ∧
    (ready → ProbeAllowed s sd r → ProbeEntered sd r.verified s t) ∧
    (¬ (ready ∧ ProbeAllowed s sd r) → stateOf t sd = .listen))

/-- A side has gone from PROBE to RAMP at a far report (R100, R103): the current step is the lowest order. The lead
begins its first step, and so does a follower whose far view shows RAMP or RUN; another follower waits with its pumps
as they stood. A side without pumps enters RUN where its first step would begin. -/
def RampEntered (sd : Side) (r : Report) (s t : State) : Prop :=
  let first : Prop := sd = .east ∨ r.shows .ramp = true ∨ r.shows .run = true
  (∀ n l, pumpsUp s.tab sd = n :: l →
    stateOf t sd = .ramp ∧ (t.side.get sd).probe = none ∧ (t.side.get sd).step = some (planOf s.tab n).order ∧
    (first → StepBegun (sd = .east) sd n s t) ∧
    (¬ first → (t.side.get sd).stepWindow = none ∧ DrivesKept sd s t)) ∧
  (pumpsUp s.tab sd = [] →
    (first → RunEntered True s.choices sd s t) ∧
    (¬ first → stateOf t sd = .ramp ∧ (t.side.get sd).probe = none ∧ (t.side.get sd).step = none ∧
      (t.side.get sd).stepWindow = none))

/-- The verification test in PROBE (R99, R100) at a side that has lit its probe and is not verified. -/
def ProbeTested (sd : Side) (r : Report) (s t : State) : Prop :=
  (TestBelow s sd r → stateOf t sd = .probe ∧ (t.side.get sd).verified = false ∧ (t.side.get sd).mismatchRun = 0) ∧
  (TestPass s sd r → sd = .east → r.verified = false →
    stateOf t sd = .probe ∧ (t.side.get sd).verified = true ∧ (t.side.get sd).mismatchRun = 0) ∧
  (TestPass s sd r → sd = .west ∨ r.verified = true →
    (stateOf t sd ∈ [.ramp, .run] → (t.side.get sd).verified = true) ∧ RampEntered sd r s t) ∧
  (¬ TestBelow s sd r → ¬ TestPass s sd r → OutsideCounted sd s t)

/-- A far report taken in PROBE (R102): compatibility, advertisement, lighting, test and the lead's move. -/
def FarInProbe (sd : Side) (r : Report) (s t : State) : Prop :=
  let tolerated : Prop := r.shows .probe = true ∨ r.shows .ramp = true ∨ (sd = .east ∧ r.shows .listen = true)
  (sd = .west → r.shows .listen = true →
    stateOf t sd = .listen ∧ (t.side.get sd).reason = .backOff ∧ (t.side.get sd).probe = none ∧
    (t.side.get sd).verified = false ∧ (t.side.get sd).mismatchRun = 0 ∧
    (t.side.get sd).agree = (s.side.get sd).agree ∧ (t.side.get sd).failures = (s.side.get sd).failures ∧
    ∀ n ∈ probeLit s.tab sd, driveOf t.pdu n = 0) ∧
  (¬ tolerated → (sd = .west → r.shows .listen = false) → Trips s.choices sd .farDark s t) ∧
  (tolerated → AdvertTrips s sd r → Trips s.choices sd .mismatch s t) ∧
  (tolerated → ¬ AdvertTrips s sd r →
    (stateOf t sd ∈ [.probe, .ramp, .run] → AdvertLowered sd r s t) ∧
    ((s.side.get sd).lit = false →
      stateOf t sd = .probe ∧ (t.side.get sd).verified = (s.side.get sd).verified ∧
      (r.verified = true → Lighted sd s t) ∧
      (r.verified = false → (t.side.get sd).lit = false ∧ t.pdu = s.pdu)) ∧
    ((s.side.get sd).lit = true → (s.side.get sd).verified = false → ProbeTested sd r s t) ∧
    ((s.side.get sd).lit = true → (s.side.get sd).verified = true → sd = .east → r.verified = true →
      RampEntered sd r s t) ∧
    ((s.side.get sd).lit = true → (s.side.get sd).verified = true → sd = .west ∨ r.verified = false →
      stateOf t sd = .probe))

/-- A far report taken in RAMP (R108, R103, R105). -/
def FarInRamp (sd : Side) (r : Report) (s t : State) : Prop :=
  let tolerated : Prop := r.shows .probe = true ∨ r.shows .ramp = true ∨ r.shows .run = true
  (¬ tolerated → Trips s.choices sd .farDark s t) ∧
  (tolerated → AdvertTrips s sd r → Trips s.choices sd .mismatch s t) ∧
  (tolerated → ¬ AdvertTrips s sd r →
    (stateOf t sd ∈ [.ramp, .run] → AdvertLowered sd r s t) ∧
    ((s.side.get sd).stepWindow = none →
      (∀ n l, r.shows .ramp = true ∨ r.shows .run = true → pumpsUp s.tab sd = n :: l → StepBegun True sd n s t) ∧
      (r.shows .ramp = true ∨ r.shows .run = true → pumpsUp s.tab sd = [] → RunEntered True s.choices sd s t) ∧
      (r.shows .ramp = false → r.shows .run = false →
        stateOf t sd = .ramp ∧ (t.side.get sd).stepWindow = none ∧ t.pdu = s.pdu)) ∧
    (∀ n, (s.side.get sd).stepWindow ≠ none → stepPump s sd = some n →
      ((s.side.get sd).armed = false ∨ (planOf s.tab n).check ≠ .farInput →
        stateOf t sd = .ramp ∧ (t.side.get sd).step = (s.side.get sd).step ∧ t.pdu = s.pdu) ∧
      ((s.side.get sd).armed = true → (planOf s.tab n).check = .farInput →
        (TestBelow s sd r → stateOf t sd = .ramp ∧ (t.side.get sd).mismatchRun = 0) ∧
        (TestPass s sd r → StepPassed True s.choices sd n s t) ∧
        (¬ TestBelow s sd r → ¬ TestPass s sd r → OutsideCounted sd s t))))

/-- A far report taken in RUN (R62, R109, R67). -/
def FarInRun (sd : Side) (r : Report) (s t : State) : Prop :=
  let tolerated : Prop := r.shows .ramp = true ∨ r.shows .run = true ∨ r.shows .stepdown = true
  (¬ tolerated → Trips s.choices sd .farDark s t) ∧
  (tolerated → AdvertTrips s sd r → Trips s.choices sd .mismatch s t) ∧
  (tolerated → ¬ AdvertTrips s sd r →
    stateOf t sd = .run ∧ AdvertLowered sd r s t ∧ t.pdu = s.pdu ∧
    ((s.side.get sd).starved = true →
      ((t.side.get sd).starved = true ↔ r.throughDark = true) ∧
      (r.throughDark = false → (t.side.get sd).rearm = 0)) ∧
    ((s.side.get sd).starved = false →
      ((t.side.get sd).starved = true ↔ darkHolds s sd = true ∧ r.throughDark = true) ∧
      ((t.side.get sd).starved = true → (t.side.get sd).rearm = 0)))

/-- What a far report, already the far view, does to its side (R49). -/
def FarReportTaken (sd : Side) (r : Report) (s t : State) : Prop :=
  (stateOf s sd = .listen → FarInListen sd r s t) ∧
  (stateOf s sd = .probe → FarInProbe sd r s t) ∧
  (stateOf s sd = .ramp → FarInRamp sd r s t) ∧
  (stateOf s sd = .run → FarInRun sd r s t) ∧
  (stateOf s sd ∉ [.listen, .probe, .ramp, .run] → t = s)

/-- What the lead does at a change of its route view (R94, R95): in LISTEN it enters PROBE when READY, its far view
and the pacing count allow it, and lights its probe; in PROBE, not verified, it backs off when the lower spans fill
the restart limit; else nothing. -/
def LeadJudged (s t : State) : Prop :=
  let r := s.side.get .east
  let q := t.side.get .east
  let goes : Prop := stateOf s .east = .listen ∧ r.ready = true ∧ pacingCount s < hdrLimit s.tab.tables ∧
    ∃ f, (s.ports.get .east).report = some f ∧ f.shows .listen = true ∧ f.ready = true
  let gives : Prop := stateOf s .east = .probe ∧ r.verified = false ∧ hdrLimit s.tab.tables ≤ lowerSpanCount s
  (¬ goes → ¬ gives → t = s) ∧
  (goes → q.state = .probe ∧ q.reason = r.reason ∧ q.probe = some r.agree.duration.toNat ∧
    q.verified = false ∧ q.ready = true ∧ Lighted .east s t) ∧
  (gives → q.state = .listen ∧ q.reason = .backOff ∧ q.probe = none ∧ q.verified = false ∧
    (q.ready = true ↔ r.settle = none ∧ r.agree.state = .settled ∧ (s.ports.get .east).condition = .clear ∧
      s.lines.trip.get .east = false) ∧
    ∀ n ∈ probeLit s.tab .east, driveOf t.pdu n = 0) ∧
  (goes ∨ gives → q.mismatchRun = 0 ∧ q.agree = r.agree ∧ q.failures = r.failures ∧ q.lock = r.lock ∧
    q.settle = r.settle) ∧
  t = { s with side := s.side.set .east q, pdu := t.pdu }

/-- The lead judges its route view where an event has moved the West side (R94, R95): from the state before the
event, the one the event leaves, and the one after the judgment. -/
def ViewJudged (before s t : State) : Prop :=
  (stateOf s .west = stateOf before .west → t = s) ∧ (stateOf s .west ≠ stateOf before .west → LeadJudged s t)

/-- The conditions under which a side in DARK moves to LISTEN (R54). -/
def MayListen (sd : Side) (s : State) : Prop :=
  stateOf s sd = .dark ∧ (s.ports.get sd).loss = false ∧ (s.ports.get sd).condition ≠ .withdrawn ∧
    (s.ports.get sd).neighbour = false ∧ (s.side.get sd).retry = none ∧ s.tab.validated = true ∧
    s.hold.view = 0 ∧ s.lines.trip.get sd = false

/-- A side has entered LISTEN from DARK (R56, R84), and nothing else has changed. -/
def ListenEntered (sd : Side) (s t : State) : Prop :=
  let r := s.side.get sd
  let q := t.side.get sd
  t = { s with side := s.side.set sd q } ∧ q.state = .listen ∧ q.reason = r.reason ∧
  q.settle = some (hdrSettle s.tab.tables) ∧ q.ready = false ∧
  q.agree = { r.agree with state := .settling, count := 0, far := none, mismatch := false } ∧
  q.failures = r.failures ∧ q.lock = r.lock

/-- A side in DARK has judged R54, and where it may it is in LISTEN (R56, R84). The lead judges a move of the West side
(R94, R95). -/
def DarkJudged (sd : Side) (s t : State) : Prop :=
  (¬ MayListen sd s → t = s) ∧
  (MayListen sd s → ∃ u, ListenEntered sd s u ∧ (sd = .east → t = u) ∧ (sd = .west → ViewJudged s u t))

/-- A side in LISTEN has judged READY (R91), and with it the move to PROBE (R94, R98). -/
def ReadyJudged (sd : Side) (s t : State) : Prop :=
  let ready : Prop := stateOf s sd = .listen ∧ (s.side.get sd).settle = none ∧
    (s.side.get sd).agree.state = .settled ∧ (s.ports.get sd).condition = .clear ∧ s.lines.trip.get sd = false
  (¬ ready → t = s) ∧
  (ready → (t.side.get sd).ready = true ∧
    (∀ r, (s.ports.get sd).report = some r → ProbeAllowed s sd r → ProbeEntered sd r.verified s t) ∧
    ((∀ r, (s.ports.get sd).report = some r → ¬ ProbeAllowed s sd r) →
      t = { s with side := s.side.set sd { s.side.get sd with ready := true } }))

/-- A side has taken a change of its port's condition (R91, R92, R54): DEGRADED begun clears READY in LISTEN, DEGRADED
ended judges it, and WITHDRAWN ended judges R54. -/
def ConditionTaken (sd : Side) (old new : PortCondition) (s t : State) : Prop :=
  (old = new → t = s) ∧
  (old = .clear → new = .degraded → t = { s with
    side := s.side.set sd (if stateOf s sd = .listen then { s.side.get sd with ready := false }
      else s.side.get sd) }) ∧
  (old = .degraded → new = .clear → ReadyJudged sd s t) ∧
  (old = .withdrawn → new = .clear → DarkJudged sd s t)

/-- The clearing of R70 and R176: READY, VERIFIED, the mismatch run, the starved flag, the re-arm count and the
proving timer; the agreement returns to NONE and keeps its far view and last values. -/
def Cleared (sd : Side) (s t : State) : Prop :=
  (t.side.get sd).ready = false ∧ (t.side.get sd).verified = false ∧ (t.side.get sd).mismatchRun = 0 ∧
  (t.side.get sd).starved = false ∧ (t.side.get sd).rearm = 0 ∧ (t.side.get sd).proving = none ∧
  (t.side.get sd).agree = { (s.side.get sd).agree with state := .none, count := 0 }

/-- A side in STEPDOWN has been overtaken (R177): it is locked out with reason ORDERED, its pumps dark. -/
def StepdownOvertaken (sd : Side) (s t : State) : Prop :=
  stateOf t sd = .lockout ∧ (t.side.get sd).reason = .ordered ∧ t.pdu.stepdown.get sd = none ∧
  (t.side.get sd).failures = (s.side.get sd).failures ∧
  (t.side.get sd).lock =
    { locked := true, reason := .ordered, count := (s.side.get sd).lock.count + 1, arming := none } ∧
  (∀ n ∈ pumpsUp s.tab sd, driveOf t.pdu n = 0) ∧ LockoutHandsOn s.choices [] sd .ordered .ordered .stepdown s t

/-- A side takes the trip event of an accepted ACT-TRIP notice (R57, R64, R148): a stepdown is overtaken and its side
locked out with reason ORDERED (R177), and a side in another state that is not active keeps everything. -/
def NoticeTripTaken (sd : Side) (s t : State) : Prop :=
  TookTrip s.choices sd .notice s t ∧
  (stateOf s sd = .stepdown → StepdownOvertaken sd s t) ∧
  (stateOf s sd ∉ [.listen, .probe, .ramp, .run, .stepdown] → t = s)

/-- A side takes the defer event of an accepted ACT-DEFER notice (R55, R57, R149): the retry timer of a side in DARK
restarts with the restart interval, a longer wait is not shortened (log 17), and a side in LISTEN falls to DARK with
reason DEFER, no failure counted and nothing handed on. -/
def Deferred (sd : Side) (s t : State) : Prop :=
  let r := s.side.get sd
  let longer := match sd with | .west => s.choices.westLonger | .east => s.choices.eastLonger
  (stateOf s sd = .dark →
    (∀ n, r.retry = some n → longer = true → restartInterval s < n → t = s) ∧
    ((∀ n, r.retry = some n → longer = false ∨ n ≤ restartInterval s) →
      t = { s with side := s.side.set sd { r with retry := some (restartInterval s) } })) ∧
  (stateOf s sd = .listen →
    RestsWith sd .defer (restartInterval s) s t ∧ (t.side.get sd).settle = none ∧ (t.side.get sd).ready = false ∧
    (t.side.get sd).agree.state = .none ∧ (t.side.get sd).failures = r.failures ∧ (t.side.get sd).lock = r.lock ∧
    t = { s with side := s.side.set sd (t.side.get sd) }) ∧
  (stateOf s sd ∉ [.dark, .listen] → t = s)

/-- A side that leaves UNCONFIGURED or ABSENT at a validation (R43, R44, R51, R79), with the lockout record it
then holds. -/
def Configured (sd : Side) (lock : LockRecord) (s t : State) : Prop :=
  (lock.locked = true →
    stateOf t sd = .lockout ∧ (t.side.get sd).reason = lock.reason ∧
    (t.side.get sd).lock = { locked := true, reason := lock.reason, count := lock.count + 1, arming := none }) ∧
  (lock.locked = false → s.pdu.latch = true →
    stateOf t sd = .lockout ∧ (t.side.get sd).reason = .cut ∧
    (t.side.get sd).lock = { locked := true, reason := .cut, count := lock.count + 1, arming := none }) ∧
  (lock.locked = false → s.pdu.latch = false →
    stateOf t sd = (if t.hold.view = 0 then .dark else .hold) ∧ (t.side.get sd).lock = lock ∧
    (t.hold.view = 0 → (t.side.get sd).retry = some (tripRest t)))

/-- The parts of the state no side event changes are the same, but for the hold unit. -/
def SameOutside (s t : State) : Prop :=
  t.powered = s.powered ∧ t.position = s.position ∧ t.time = s.time ∧ t.ports = s.ports ∧ t.tx = s.tx ∧
    t.tab = s.tab ∧ t.scan = s.scan ∧ t.loc = s.loc ∧ t.store = s.store ∧ t.free = s.free ∧
    t.pending = s.pending ∧ t.pdu.latch = s.pdu.latch ∧ t.pdu.startCut = s.pdu.startCut

/-- An event of one side has left the other side's record, the hold unit and the lines as they were, and under
prerequisites within a side (R39) the other side's pumps. -/
def OneSide (sd : Side) (s t : State) : Prop :=
  t.side.get sd.other = s.side.get sd.other ∧ t.hold = s.hold ∧ t.lines = s.lines ∧ SameOutside s t ∧
  (PrereqsOwn s.tab → ∀ n ∈ pumpsUp s.tab sd.other, driveOf t.pdu n = driveOf s.pdu n)

/-- An event of both sides, taken one after the other in the order of the command's choices. The lead judges a move
of the West side at once (R94, R95), before the East side takes the event: the model's choice (log 38). -/
def SidesInTurn (taken : Side → State → State → Prop) (s t : State) : Prop :=
  (s.choices.eastFirst = false → ∃ u v, taken .west s u ∧ ViewJudged s u v ∧ taken .east v t) ∧
  (s.choices.eastFirst = true → ∃ u v, taken .east s u ∧ taken .west u v ∧ ViewJudged u v t)

/-- The record of a side gone to HOLD with reason HOLD (R58): no side timer runs, and no failure is counted. -/
def InHold (sd : Side) (s t : State) : Prop :=
  let r := s.side.get sd
  let q := t.side.get sd
  q.state = .hold ∧ q.reason = .hold ∧ q.retry = none ∧ q.settle = none ∧ q.probe = none ∧ q.stepWindow = none ∧
  q.proving = none ∧ q.ready = false ∧ q.agree = { r.agree with state := .none, count := 0 } ∧
  q.failures = r.failures ∧ q.lock = r.lock

/-- A side has taken hold-begun (R58, R140, R177): from DARK and LISTEN it goes to HOLD and hands nothing on, from
PROBE, RAMP and RUN with its immediate cut, a trip record and a SIDE-TRIP notice with cause HOLD (R69, R70, R75,
R76); a stepdown is overtaken, and a side in another state keeps everything. -/
def HoldBegunTaken (sd : Side) (s t : State) : Prop :=
  (stateOf s sd ∈ [.dark, .listen] → InHold sd s t ∧ t = { s with side := s.side.set sd (t.side.get sd) }) ∧
  (stateOf s sd ∈ [.probe, .ramp, .run] →
    InHold sd s t ∧ Extinguished sd s t ∧ OneSide sd s t ∧
    RecordsHanded s.choices [tripRecordAt sd .hold (stateOf s sd) t] s t ∧
    NoticesMade [⟨112, some sd, .hold, .hold⟩] s t) ∧
  (stateOf s sd = .stepdown → StepdownOvertaken sd s t ∧ OneSide sd s t) ∧
  (stateOf s sd ∉ [.dark, .listen, .probe, .ramp, .run, .stepdown] → t = s)

/-- A side has taken hold-ended (R59, R140): from HOLD it goes to DARK for the trip rest, its reason kept, where the
running retry timer keeps it; a side in DARK judges R54, and a side in another state keeps everything. -/
def HoldEndedTaken (sd : Side) (s t : State) : Prop :=
  let r := s.side.get sd
  let q := t.side.get sd
  (stateOf s sd = .hold →
    q.state = .dark ∧ q.reason = r.reason ∧ q.retry = some (tripRest s) ∧ q.settle = none ∧ q.ready = false ∧
    q.agree = { r.agree with state := .none, count := 0 } ∧ q.failures = r.failures ∧ q.lock = r.lock ∧
    t = { s with side := s.side.set sd q }) ∧
  (stateOf s sd = .dark → (¬ MayListen sd s → t = s) ∧ (MayListen sd s → ListenEntered sd s t)) ∧
  (stateOf s sd ∉ [.hold, .dark] → t = s)

/-- The obeyed hold view of the received sets, the own bit and the obey set in force (R138, R139); the own position's
bit of a received set is left out. -/
def heldView (s : State) : PosSet :=
  let bit : PosSet := (1 : PosSet) <<< pos s
  (((s.hold.sets.west ||| s.hold.sets.east) &&& ~~~bit) ||| (if s.hold.own then bit else 0)) &&& obeySet s

/-- The Hold Unit has recomputed the obeyed hold view, and both sides have taken its change between empty and
non-empty (R139, R140); a recomputation that gives the same set changes nothing. -/
def ViewRecomputed (s t : State) : Prop :=
  let u : State := { s with hold := { s.hold with view := heldView s } }
  (s.hold.view = 0 → heldView s ≠ 0 → SidesInTurn HoldBegunTaken u t) ∧
  (s.hold.view ≠ 0 → heldView s = 0 → SidesInTurn HoldEndedTaken u t) ∧
  ((s.hold.view = 0 ↔ heldView s = 0) → t = u)

end Sys2Proof.Machine
end

