-- ==== Sys2Proof/Certificates/Slice0/Obligations.lean ====
section
/-! DEFINITION. The statements for the provers. -/

open Sys2Proof Sys2Proof.Machine

/-! ### The machine -/

/-- A step takes the command at the front of the queue and runs it on the state with the queue's rest; on
an empty queue the part idles, which is the model's choice (log 4). -/
def Obligations.StepRunsFrontCommand : Prop :=
  (∀ (c : Instr) (s : State), step (s.withPending (c :: s.pending)) = exec c s) ∧
  (∀ (c : Instr) (rest : List Instr) (s : State), s.pending = c :: rest →
    step s = exec c (s.withPending rest)) ∧
  (∀ s : State, s.pending = [] → step s = .next s)

/-- What every command ends with (R184): only the Store Controller's state can change, and the command's
choices are put away (log 6). With no record waiting nothing else happens; an IDLE controller with a
record waiting begins to write the oldest, and goes on with the next where the store refuses its access (R191). -/
def Obligations.CommandEndStartsWaitingRecord : Prop :=
  (∀ s : State, settle s = { s with ctl := (settle s).ctl, choices := Choices.default }) ∧
  (∀ s : State, s.ctl.queue = [] → settle s = { s with choices := Choices.default }) ∧
  (∀ (s : State) (r : StoreRecord) (q : List StoreRecord), s.ctl.op = .idle → s.ctl.queue = r :: q →
    ackOf s = true →
    (settle s).ctl = { s.ctl with op := .recording (some ⟨r, recordWrite s r⟩), queue := q }) ∧
  (∀ s : State, s.ctl.op = .idle ∨ s.ctl.op = .recording none → s.ctl.queue ≠ [] →
    ∃ u, RecordsGoOn s.ctl.queue { s with ctl := { s.ctl with op := .recording none } } u ∧
      settle s = { u with choices := Choices.default })

/-! ### Reset -/

/-- The reset state: what R1, R25, R27, R28, R31, R80, R132, R142, R170 and R193 give. The own position
0, the released lines, the read under way and the empty store are the model's choices (logs 1, 2, 3); so
are the fields no section gives a reset value: `lit`, `armed` and `late` of a side (log 31), the transmitters'
`line` and the Local Port's `sent` (log 8), and `rateApplied` (log 9). The Monitor Scanner's turn and the flag of a
completed scan are those of log 11. -/
def Obligations.ResetStateValues : Prop :=
  State.reset.time.uptime = 0 ∧ State.reset.position = 0 ∧
  State.reset.lines = { trip := ⟨false, false⟩, hold := false } ∧
  (∀ sd, State.reset.ports.get sd =
    { score := 0, condition := .clear, loss := true, neighbour := false, last := none, report := none
      spans := List.replicate 31 0, holdSet := 0, lossTimer := none }) ∧
  (∀ sd, State.reset.tx.get sd = { frameTimer := true, counter := 0, transit := [], line := none }) ∧
  tablesOctets State.reset.tab.tables = List.replicate 684 0 ∧ State.reset.tab.validated = false ∧
  State.reset.tab.loadCheck = none ∧
  (∀ sd, State.reset.side.get sd =
    { state := .unconfigured, reason := .none, retry := none, settle := none, probe := none
      stepWindow := none, proving := none, step := none
      agree := { state := .none, far := none, count := 0, probe := 0, launch := 0, duration := 0, mismatch := false }
      ready := false, verified := false, mismatchRun := 0, lit := false, armed := false, late := false
      starved := false, rearm := 0, failures := [], lock := { locked := false, reason := .none, count := 0, arming := none } }) ∧
  State.reset.pdu =
    { drive := List.replicate 8 0, checks := List.replicate 8 none, stepdown := ⟨none, none⟩
      latch := false, startCut := true } ∧
  cutAsserted State.reset = true ∧
  State.reset.scan =
    { latest := List.replicate 8 minPower, dark := List.replicate 8 ⟨false, 0⟩, next := 0, done := false } ∧
  State.reset.hold = { request := false, own := false, sets := ⟨0, 0⟩, view := 0 } ∧
  State.reset.msg =
    { out := ⟨⟨[], []⟩, ⟨[], []⟩⟩, delivery := [], discarded := 0, localDrops := 0, framingErrors := 0
      noticeNumber := 0, resetPhase := .idle } ∧
  State.reset.loc = { rateInForce := .r9600, rateApplied := .r9600, receiver := .hunting, sent := none } ∧
  State.reset.ctl =
    { op := .loading .powerUp .header .noneYet, draining := false, queue := [], lost := 0
      lastFault := false, result := .noneYet, nextSlot := 0, nextNumber := 1, notes := ⟨none, none⟩ } ∧
  State.reset.store = [] ∧ State.reset.pending = []

/-- R25, R80, R132, R142, R170, R193, R194: POWER_ON and PIN_RESET with the first loader read
acknowledged leave the reset state with the straps and lines as sampled; a local frame being sent finishes
(R170, log 8), and the store keeps its octets but for what a page write under way left. -/
def Obligations.PowerOnAndPinResetGiveResetValues : Prop :=
  ∀ (pins : PinLevels) (left : Residue) (ch : Choices) (s : State), ch.acks.headD true = true →
    let t : State :=
      { State.reset with
        position := pins.straps.toFin
        lines := { trip := ⟨pins.tripWest, pins.tripEast⟩, hold := pins.hold }
        hold :=
          { request := false, own := pins.hold, sets := ⟨0, 0⟩
            view := if pins.hold then (1 : PosSet) <<< pins.straps.toNat else 0 }
        loc := { rateInForce := .r9600, rateApplied := .r9600, receiver := .hunting, sent := s.loc.sent }
        store := (cutOff left s).store, free := s.free, pending := s.pending }
    exec (.powerOn pins left ch) s = .next t ∧
    (s.powered = true → exec (.pinReset pins left ch) s = .next t)

/-- R81, R26, R133, R142, R170, R193, R1: a due route reset. The trip records of the sides that leave an
active state come before the lock records of the master cut (log 37); under R116's law every pump is then at
zero. A LOG-READ's access goes on to its end; any other controller is in RECORDING. -/
def Obligations.RouteResetTakesEveryBlock : Prop :=
  ∀ (ch : Choices) (s : State), s.powered = true → s.msg.resetPhase = .due →
    let order : List Side := if ch.eastFirst then [.east, .west] else [.west, .east]
    let records : List StoreRecord :=
      ((order.filter fun sd => (stateOf s sd).lights).map fun sd => .trip (tripRecordOf sd .reset s)) ++
      (if s.pdu.latch then (order.filter fun sd => stateOf s sd != .lockout).map fun sd =>
        .lock sd true .cut ((s.side.get sd).lock.count + 1) else [])
    ∃ t, exec (.routeReset ch) s = .next t ∧
      (∀ sd,
        (t.side.get sd).retry = none ∧ (t.side.get sd).settle = none ∧ (t.side.get sd).probe = none ∧
        (t.side.get sd).stepWindow = none ∧ (t.side.get sd).proving = none ∧ (t.side.get sd).step = none ∧
        (t.side.get sd).ready = false ∧ (t.side.get sd).verified = false ∧ (t.side.get sd).starved = false ∧
        (t.side.get sd).mismatchRun = 0 ∧ (t.side.get sd).rearm = 0 ∧ (t.side.get sd).lock.arming = none ∧
        (t.side.get sd).agree =
          { state := .none, far := none, count := 0, probe := 0, launch := 0, duration := 0, mismatch := false } ∧
        (stateOf s sd = .lockout →
          stateOf t sd = .lockout ∧ (t.side.get sd).reason = (s.side.get sd).reason ∧
          (t.side.get sd).failures = (s.side.get sd).failures ∧
          (t.side.get sd).lock = { (s.side.get sd).lock with arming := none }) ∧
        (stateOf s sd ≠ .lockout → s.pdu.latch = true →
          stateOf t sd = .lockout ∧ (t.side.get sd).reason = .cut ∧
          (t.side.get sd).lock =
            { locked := true, reason := .cut, count := (s.side.get sd).lock.count + 1, arming := none }) ∧
        (stateOf s sd ≠ .lockout → s.pdu.latch = false →
          stateOf t sd = .unconfigured ∧ (t.side.get sd).reason = .reset ∧ (t.side.get sd).failures = [] ∧
          (t.side.get sd).lock = { (s.side.get sd).lock with arming := none }) ∧
        t.ports.get sd = PortRecord.reset ∧
        t.tx.get sd = { frameTimer := true, counter := 0, transit := [], line := (s.tx.get sd).line } ∧
        t.pdu.stepdown.get sd = none) ∧
      t.hold =
        { request := false, own := s.lines.hold, sets := ⟨0, 0⟩
          view := if s.lines.hold then (1 : PosSet) <<< pos s else 0 } ∧
      t.msg = MsgEngine.reset ∧ t.loc.rateInForce = .r9600 ∧ t.loc.receiver = .hunting ∧
      t.loc.sent = s.loc.sent ∧ t.pdu.startCut = true ∧ t.pdu.latch = s.pdu.latch ∧
      (∀ n, driveOf t.pdu n = driveOf s.pdu n ∨ driveOf t.pdu n = 0) ∧
      (∀ sd n, (stateOf s sd).lights = true → n ∈ pumpsUp s.tab sd → driveOf t.pdu n = 0) ∧
      (PumpLaw s → ∀ n, driveOf t.pdu n = 0) ∧
      t.ctl.draining = true ∧
      (∀ who n part, s.ctl.op = .reading who n part → t.ctl.op = .reading who n part) ∧
      ((∀ who n part, s.ctl.op ≠ .reading who n part) → ∃ w, t.ctl.op = .recording w) ∧
      (∀ w, s.ctl.op = .recording (some w) → t.ctl =
        { records.foldl (fun c r => joinRecord r c) { s.ctl with draining := true } with
          op := .recording (some w) }) ∧
      (s.ctl.op = .idle → s.ctl.queue = [] → ch.acks = [] →
        (records = [] → t.ctl = { s.ctl with op := .recording none, draining := true }) ∧
        (∀ r rest, records = r :: rest → t.ctl =
          { s.ctl with op := .recording (some ⟨r, recordWrite s r⟩), queue := rest, draining := true })) ∧
      t.time = s.time ∧ t.position = s.position ∧ t.lines = s.lines ∧ t.tab = s.tab ∧
      t.scan = s.scan ∧ t.store = s.store ∧ t.pending = s.pending

/-- R193, R28, R113, R125: the record queue has drained after a route reset, and the loader starts, which
clears the flag. While another route reset is pending or due the loader waits for it: the model's choice
(log 26). -/
def Obligations.DrainedRouteResetStartsLoader : Prop :=
  ∀ (ch : Choices) (s : State), s.powered = true → s.ctl.draining = true → s.ctl.op = .recording none →
    s.ctl.queue = [] →
    (s.msg.resetPhase ≠ .idle → exec (.loaderStartAfterDrain ch) s = .next (settle (withChoices ch s))) ∧
    (s.msg.resetPhase = .idle → s.tab.validated = false → ch.acks.headD true = true →
      exec (.loaderStartAfterDrain ch) s = .next
        { s with
          ctl := { s.ctl with op := .loading .routeReset .header .noneYet, draining := false, lost := 0 }
          choices := Choices.default }) ∧
    (s.msg.resetPhase = .idle → ch.acks.headD true = true →
      ∃ t, exec (.loaderStartAfterDrain ch) s = .next t ∧
        t.ctl.op = .loading .routeReset .header .noneYet ∧ t.ctl.draining = false ∧ t.ctl.lost = 0 ∧
        t.tab = { s.tab with validated := false } ∧
        (s.tab.validated = true → t.scan = { s.scan with dark := List.replicate 8 ⟨false, 0⟩ }) ∧
        (s.tab.validated = true → s.pdu.drive.length = 8 → t.pdu.drive = List.replicate 8 0) ∧
        t.pdu.startCut = s.pdu.startCut ∧ t.pdu.latch = s.pdu.latch ∧ t.ports = s.ports ∧ t.tx = s.tx ∧
        t.loc = s.loc ∧ t.lines = s.lines ∧ t.time = s.time ∧ t.store = s.store ∧ t.position = s.position ∧
        t.pending = s.pending)

/-- R194, R183: a loss of power stops the part, and the store keeps every octet outside a page write under
way. That write is completed or leaves the octets of the residue, within what the next loader is said to find: a
signature that is not 5C3A, or after step 1 the one that stood; a lock copy that is not valid, so that the other copy
is the newest; a trip log slot that is not valid, unless its octets happen to be a valid record's (R183), into which
the next record is then written. A pin reset cuts the write off alike. That a residue which R194 excludes completes
the write is the model's reading (log 25). A part without power takes no command but POWER_ON, and holds what it held:
the model's choice (log 7). -/
def Obligations.PowerLossStopsPart : Prop :=
  (∀ (c : Instr) (s : State), s.powered = false → (∀ pins left ch, c ≠ .powerOn pins left ch) →
    exec c s = .next s) ∧
  (∀ (left : Residue) (s : State), s.powered = true → StoreCanonical s →
    ∃ t, exec (.powerLoss left) s = .next t ∧ t.powered = false ∧ t.store = (cutOff left s).store ∧
      (currentWrite s.ctl.op = none → t.store = s.store) ∧
      (∀ w, currentWrite s.ctl.op = some w → w.done = true → t.store = s.store) ∧
      (∀ w a, currentWrite s.ctl.op = some w → (a < w.addr ∨ w.addr + w.data.length ≤ a) →
        Memory.read t.store a = Memory.read s.store a)) ∧
  ∀ (left : Residue) (w : PageWrite) (s : State), StoreCanonical s → currentWrite s.ctl.op = some w →
    w.done = false →
    let m := (cutOff left s).store
    let found := Memory.readOctets m w.addr w.data.length
    let l := residueOctets w.data left
    let writes := fun (r : RecordWrite) =>
      s.ctl.op = .recording (some r) ∨ ∃ who k, s.ctl.op = .suspended who k (some r)
    (found = w.data ∨ found = l) ∧
    (∀ who k, s.ctl.op = .committing who k w →
      (k ≠ 0 → k ≠ 11 → found = l) ∧ (word16At l 0 ≠ 0x5C3A → found = l) ∧
      (k = 0 → word16At l 0 = word16At (Memory.readOctets s.store 0 2) 0 → found = l)) ∧
    (∀ r sd locked reason count, writes r → r.record = .lock sd locked reason count → lockCopyValid sd l = false →
      found = l) ∧
    (∀ r x, writes r → r.record = .trip x → found = l) ∧
    (∀ who, s.ctl.op = .committing who 0 w → w.addr = 0 → w.data = [0, 0] →
      word16At (Memory.readOctets m 0 8) 0 = word16At (Memory.readOctets s.store 0 8) 0 ∨
      judgeHeader (Memory.readOctets m 0 8) ∈ [some .incomplete, some .blank]) ∧
    (2 ≤ w.addr → word16At (Memory.readOctets s.store 0 8) 0 = 0 →
      judgeHeader (Memory.readOctets m 0 8) = some .incomplete) ∧
    (∀ who, s.ctl.op = .committing who 11 w → w.addr = 0 → 2 ≤ w.data.length →
      found = w.data ∨ judgeHeader (Memory.readOctets m 0 8) ∈ [some .incomplete, some .blank]) ∧
    (∀ r sd copyB locked reason count, writes r → r.record = .lock sd locked reason count →
      w.addr = lockCopyAddr sd copyB → w.data.length = 8 →
      found = w.data ∨ (storedCopy m sd copyB = none ∧
        newestCopy m sd = (storedCopy s.store sd (!copyB)).map fun c => (!copyB, c))) ∧
    (∀ k free, k < 64 → w.addr = slotAddr k → w.data.length = 32 → tripRecordValid found = false →
      let newest := (k + 63) % 64
      slotNumber m k = 0 ∧ (∀ i, i < 64 → i ≠ k → slotNumber m i = slotNumber s.store i) ∧
      (slotNumber s.store newest ≠ 0 →
        (∀ i, i < 64 → i ≠ k → i ≠ newest → slotNumber s.store i < slotNumber s.store newest) →
        (logPosition m free).1 = k ∧ (logPosition m free).2 =
          if slotNumber s.store newest = 4294967295 then 1 else BitVec.ofNat 32 (slotNumber s.store newest + 1)))

/-- R1: uptime is 0 at power-on and pin reset (stated where the store acknowledges the first loader read);
each second adds 1, and is handed to both side controllers as a mark for each (log 21); a route reset keeps
uptime. What follows the largest uptime is a free value (log 12). -/
def Obligations.UptimeCountsSeconds : Prop :=
  (∀ pins left ch s, ch.acks.headD true = true →
    ∃ t, exec (.powerOn pins left ch) s = .next t ∧ t.time.uptime = 0) ∧
  (∀ pins left ch s, s.powered = true → ch.acks.headD true = true →
    ∃ t, exec (.pinReset pins left ch) s = .next t ∧ t.time.uptime = 0) ∧
  (∀ s : State, s.powered = true → s.time.uptime ≠ BitVec.allOnes 32 →
    exec .uptimeSecond s = .next (settle { begun s with
      time := { uptime := s.time.uptime + 1, second := ⟨true, true⟩ }, free := s.free + 1 })) ∧
  (∀ s : State, s.powered = true →
    ∃ t, exec .uptimeSecond s = .next t ∧ t.time.second = ⟨true, true⟩) ∧
  (∀ ch s, s.powered = true → ∃ t, exec (.routeReset ch) s = .next t ∧ t.time.uptime = s.time.uptime)

/-! ### Line ports -/

/-- R2, R3, R5: the checks of an arrival in their order; R23: a route-end port discards every arrival
without checking it. -/
def Obligations.ArrivalChecks : Prop :=
  (∀ (port : Side) (octets : List Octet) (ch : Choices) (s : State), s.powered = true →
    isAbsent s port = true → exec (.arrival port octets ch) s = .next (settle (withChoices ch s))) ∧
  ∀ (s : State) (port : Side) (l : List Octet),
    (l.length ≠ 80 → classify (pos s) port l = .corrupt) ∧
    (l.length = 80 → crc16 (l.take 78) ≠ word16At l 78 → classify (pos s) port l = .corrupt) ∧
    (l.length = 80 → octetAt l 0 ≠ 1 → classify (pos s) port l = .corrupt) ∧
    (l.length = 80 → crc16 (l.take 78) = word16At l 78 → octetAt l 0 = 1 →
      classify (pos s) port l =
        if (port = .west ∧ (octetAt l 7).toNat + 1 = pos s) ∨
           (port = .east ∧ (octetAt l 7).toNat = pos s + 1 ∧ pos s < 31) then .valid else .neighbour)

/-- R6, R7, R8, R12, R13, R57, R61, R91, R92: an invalid arrival on a port that is no route end: score up by 8 to at
most 255, the condition that follows it, the NEIGHBOUR indication, and the trips of WITHDRAWN begun and of NEIGHBOUR,
with what they hand on (R75 to R77), and READY cleared in LISTEN where DEGRADED begins. A side takes the change of
condition first (log 36), and the East side takes WITHDRAWN before the lead judges its route view: the model's choice
(log 38). -/
def Obligations.InvalidArrivalEffect : Prop :=
  ∀ (port : Side) (octets : List Octet) (ch : Choices) (s : State), s.powered = true →
    isAbsent s port = false → classify (pos s) port octets ≠ .valid →
    let r := s.ports.get port
    let score := min 255 (r.score + 8)
    let withdraws : Prop := r.condition ≠ .withdrawn ∧ score = 255
    let begins : Prop := r.neighbour = false ∧ classify (pos s) port octets = .neighbour
    ∃ t, exec (.arrival port octets ch) s = .next t ∧
      (t.ports.get port).score = score ∧
      (r.condition = .withdrawn → (t.ports.get port).condition = if score = 0 then .clear else .withdrawn) ∧
      (r.condition ≠ .withdrawn → (t.ports.get port).condition =
        if score = 255 then .withdrawn else if score < 96 then .clear else .degraded) ∧
      (t.ports.get port).neighbour = (r.neighbour || classify (pos s) port octets == .neighbour) ∧
      (t.ports.get port).loss = r.loss ∧ (t.ports.get port).lossTimer = r.lossTimer ∧
      (t.ports.get port).last = r.last ∧ (t.ports.get port).report = r.report ∧
      (t.ports.get port).holdSet = r.holdSet ∧
      (withdraws → (t.ports.get port).spans = List.replicate 31 0) ∧
      (¬ withdraws → (t.ports.get port).spans = r.spans) ∧
      (withdraws → TookTrip ch port .withdrawn s t) ∧
      (¬ withdraws → begins → (r.condition ≠ .degraded ∨ 96 ≤ score) → TookTrip ch port .neighbour s t) ∧
      (¬ withdraws → ¬ begins → (t.ports.get port).condition = r.condition → t.side.get port = s.side.get port) ∧
      (¬ withdraws → ¬ begins → r.condition = .clear → 96 ≤ score →
        t.side = s.side.set port (if stateOf s port = .listen then { s.side.get port with ready := false }
          else s.side.get port) ∧ t.pdu = s.pdu ∧ t.msg = s.msg) ∧
      t.ports.get port.other = s.ports.get port.other ∧
      (t.tx.get port.other).transit =
        (if portBlocked (t.ports.get port) || isAbsent t port.other then (s.tx.get port.other).transit
         else (s.tx.get port.other).transit ++ [.originated]) ∧
      t.tx.get port = s.tx.get port ∧
      t.position = s.position ∧ t.time = s.time ∧ t.lines = s.lines ∧ t.tab = s.tab ∧ t.scan = s.scan ∧
      t.hold = s.hold ∧ t.loc = s.loc ∧ t.store = s.store ∧ t.pending = s.pending

/-- R7, R8, R9, R11, R13, R49, R54, R58, R59, R91, R92, R94, R95, R97, R98, R100, R103, R104, R138, R139, R140, R151,
R153: a valid arrival that leaves its port not WITHDRAWN. The record takes the arrival, the change of condition and
the ends of LOSS and NEIGHBOUR reach the side, and the far report, the route view, the hold set and the slot are
handed on in the order of the command, or in the order of R11 (log 6); the lead judges its changed route view (R94,
R95); the Hold Unit takes the hold set and recomputes the obeyed hold view, whose begin and end both sides take; then
the frame joins the opposite transmitter, its slot as R153 leaves it. What the far report does at the side follows
chapters 3 and 4. The lead's judgment between the two sides is the model's choice (log 38), and so is the obey set of
a view recomputed in the drain of a route reset (log 44). -/
def Obligations.ValidArrivalEffect : Prop :=
  ∀ (port : Side) (octets : List Octet) (ch : Choices) (s : State), s.powered = true →
    isAbsent s port = false → classify (pos s) port octets = .valid →
    let r := s.ports.get port
    let f := frameOf octets
    let score := if scoreSkips r octets then min 255 (r.score + 4) else r.score - 1
    let condition : PortCondition :=
      if r.condition = .withdrawn then (if score = 0 then .clear else .withdrawn)
      else if score = 255 then .withdrawn else if score < 96 then .clear else .degraded
    let record : PortRecord :=
      { score := score, condition := condition, loss := false, neighbour := false
        last := some (octetAt octets 1, octetAt octets 2), report := some f.report, spans := f.spans
        holdSet := word32At octets 3
        lossTimer := some (if s.tab.validated then hdrLossThreshold s.tab.tables else 8) }
    let s1 := sideEvent (conditionEvent r.condition condition) port (setPort port record (withChoices ch s))
    let s2 := if r.loss || r.neighbour then sideEvent judgeDark port s1 else s1
    let act := fun (h : HandOn) (x : State) => match h with
      | .report => sideEvent (farReport f.report) port x
      | .view => leadJudge x
      | .holdSet => takeHoldSet port x
      | .slot => judgeSlot f.slot x
    let hold := { s.hold with sets := s.hold.sets.set port (word32At octets 3) }
    (condition ≠ .withdrawn →
      ConditionTaken port r.condition condition (setPort port record (withChoices ch s)) s1 ∧
      (r.loss = true ∨ r.neighbour = true → DarkJudged port s1 s2) ∧
      exec (.arrival port octets ch) s = .next (settle (queueDeparture port.other
        (.forwarded { f with slot := slotAfter (pos s) f.slot }) (handAll port f s2))) ∧
      (ch.handOn = [] → handAll port f s2 =
        judgeSlot f.slot (takeHoldSet port (leadJudge (sideEvent (farReport f.report) port s2)))) ∧
      (∀ h1 h2 h3 h4, ch.handOn = [h1, h2, h3, h4] → ch.handOn.Nodup →
        handAll port f s2 = act h4 (act h3 (act h2 (act h1 s2)))) ∧
      (∀ x : State, x.ports.get port = record →
        ViewRecomputed { x with hold := { x.hold with sets := x.hold.sets.set port (word32At octets 3) } }
          (takeHoldSet port x)) ∧
      farView s2 port = some f.report ∧
      FarReportTaken port f.report s2 (sideEvent (farReport f.report) port s2) ∧
      LeadJudged (sideEvent (farReport f.report) port s2) (leadJudge (sideEvent (farReport f.report) port s2)) ∧
      (octetAt octets 50 = 0 →
        ∃ t, exec (.arrival port octets ch) s = .next t ∧ t.ports.get port = record ∧
          t.ports.get port.other = s.ports.get port.other ∧
          t.hold = { hold with view := heldView { s with hold := hold } } ∧
          (t.tx.get port.other).transit =
            (if isAbsent t port.other then (s.tx.get port.other).transit
             else (s.tx.get port.other).transit ++ [.forwarded { f with slot := emptySlot }]) ∧
          (t.tx.get port.other).frameTimer = false ∧ t.tx.get port = s.tx.get port ∧
          t.position = s.position ∧ t.time = s.time ∧ t.lines = s.lines ∧ t.tab = s.tab ∧ t.scan = s.scan ∧
          t.loc = s.loc ∧ t.store = s.store ∧ t.pending = s.pending))

/-- R11, R7, R8: a valid arrival that leaves its port WITHDRAWN moves the score, the timer, the indications and
the last origin alone, and the span list where WITHDRAWN begins: the far report, hold set, span list and slot of
the arrival are handed on to nobody, and the frame is not forwarded. On a port that was WITHDRAWN already
nothing else in the part changes; where WITHDRAWN begins its side trips (R57, R61), on the East port before the
lead judges its route view: the model's choice (log 38). -/
def Obligations.WithdrawnPortTakesNothing : Prop :=
  ∀ (port : Side) (octets : List Octet) (ch : Choices) (s : State), s.powered = true →
    isAbsent s port = false → classify (pos s) port octets = .valid →
    let r := s.ports.get port
    let score := if scoreSkips r octets then min 255 (r.score + 4) else r.score - 1
    let record : PortRecord :=
      { r with
        score := score, condition := .withdrawn, loss := false, neighbour := false
        last := some (octetAt octets 1, octetAt octets 2)
        lossTimer := some (if s.tab.validated then hdrLossThreshold s.tab.tables else 8) }
    let tx := s.tx.set port.other { s.tx.get port.other with frameTimer := !isAbsent s port.other }
    (r.condition = .withdrawn → score ≠ 0 →
      exec (.arrival port octets ch) s = .next (settle { withChoices ch s with
        ports := s.ports.set port record, tx := tx })) ∧
    (r.condition ≠ .withdrawn → score = 255 →
      ∃ t, exec (.arrival port octets ch) s = .next t ∧
        t.ports = s.ports.set port { record with spans := List.replicate 31 0 } ∧ t.tx = tx ∧
        TookTrip ch port .withdrawn s t ∧
        (stateOf s port ∉ [.listen, .probe, .ramp, .run] → t.side.get port = s.side.get port) ∧
        (stateOf s port ∉ [.probe, .ramp, .run] → t.msg = s.msg) ∧
        t.hold = s.hold ∧ t.tab = s.tab ∧ t.store = s.store ∧ t.scan = s.scan ∧ t.loc = s.loc ∧
        t.lines = s.lines ∧ t.time = s.time ∧ t.position = s.position ∧ t.pending = s.pending)

/-- R153, R161, R163: what the Message Engine does with the slot of a valid arrival, and what it leaves of it. A
request so addressed is handled as the request row of its kind (sections 7.1 and 8.1), one from the local port with
the own position as its source; a kind whose row carries no choices (log 10) handles it alike under any. -/
def Obligations.SlotJudgedByKindAndDestination : Prop :=
  (∀ (c : Instr) (kind : Octet) (req : Request) (s : State), s.powered = true →
    (modifyingKind c = some (kind, req) ∨ readingKind c = some (kind, req) ∨
      (c = .unknownRequest kind req ∧ (kind = 0 ∨ 16 < kind.toNat))) →
    exec c s = .next (settle (handleRequest kind (taken s req) (withChoices (choicesOf c) s)))) ∧
  (∀ (kind : Octet) (req : Request) (ch : Choices) (s : State),
    (kind ∈ [0, 1, 2, 3, 4, 11, 16] ∨ 16 < kind.toNat) →
    handleRequest kind req (withChoices ch s) = withChoices ch (handleRequest kind req s)) ∧
  (∀ (req : Request) (s : State),
    (req.via = .line → taken s req = req) ∧
    (req.via = .localPort → taken s req = { req with source := posOctet s })) ∧
  ∀ (m : Message) (s : State),
    (m.kind = 0 → judgeSlot m s = s ∧ slotAfter (pos s) m = emptySlot) ∧
    (m.kind ≠ 0 → m.dest.toNat = pos s → slotAfter (pos s) m = emptySlot ∧
      judgeSlot m s = if isRequestKind m.kind then
          handleRequest m.kind { via := .line, source := m.source, tag := m.tag, len := m.len, body := m.body } s
        else onMsg (deliver { msg := m, resetDone := false }) s) ∧
    (m.dest = 255 → 112 ≤ m.kind.toNat → m.kind.toNat ≤ 115 → slotAfter (pos s) m = m ∧
      judgeSlot m s = if m.source = posOctet s then s else filterNotice m s) ∧
    (m.kind ≠ 0 → m.dest = 255 → (m.kind.toNat < 112 ∨ 115 < m.kind.toNat) →
      slotAfter (pos s) m = emptySlot ∧ judgeSlot m s = s) ∧
    (m.kind ≠ 0 → m.dest.toNat ≠ pos s → m.dest ≠ 255 → slotAfter (pos s) m = m ∧ judgeSlot m s = s)

/-- R147 to R150, R55, R57, R64, R177: the Notice Filter's action on a copy, by the first matching acceptance entry in
force; a copy that none matches is delivered, and under clear tables none is in force. ACT-TRIP and ACT-DEFER reach
both sides, whose effects are stated, the lead judging a move of the West side before it takes its own event: the
model's choice (log 38). So is that the copy joins the local delivery queue after the sides have acted (log 40). -/
def Obligations.NoticeFilterActs : Prop :=
  ∀ (m : Message) (s : State),
    (s.tab.validated = false → filterNotice m s = onMsg (deliver { msg := m, resetDone := false }) s) ∧
    ((∀ e ∈ acceptsInForce s, e.accepts m.source m.kind = false) →
      filterNotice m s = onMsg (deliver { msg := m, resetDone := false }) s) ∧
    (∀ e, (acceptsInForce s).find? (fun e => e.accepts m.source m.kind) = some e →
      (e.action = .trip → filterNotice m s = onMsg (deliver { msg := m, resetDone := false })
        (sideEvent (tripEvent .notice) .east (sideEvent (tripEvent .notice) .west s))) ∧
      (e.action = .trip → ∃ u w v, NoticeTripTaken .west s u ∧ ViewJudged s u w ∧ NoticeTripTaken .east w v ∧
        filterNotice m s = onMsg (deliver { msg := m, resetDone := false }) v) ∧
      (e.action = .defer → filterNotice m s = onMsg (deliver { msg := m, resetDone := false })
        (bothSides (sideEvent deferEvent) s)) ∧
      (e.action = .defer → ∃ v, SidesInTurn Deferred s v ∧
        filterNotice m s = onMsg (deliver { msg := m, resetDone := false }) v) ∧
      (e.action = .deliver → filterNotice m s = onMsg (deliver { msg := m, resetDone := false }) s) ∧
      (e.action = .discard → filterNotice m s = s))

/-- R9, R10, R13, R57, R61, R94, R95: the loss timer of a port that is no route end expires, and its side takes LOSS.
On the East port it does so before the lead judges its route view, the model's choice (log 38), and so leaves the
lead nothing to judge; on the West port the lead judges a move of the West side, and then the changed view. -/
def Obligations.LossTimerExpiryEntersLoss : Prop :=
  ∀ (port : Side) (ch : Choices) (s : State), s.powered = true → isAbsent s port = false →
    (s.ports.get port).lossTimer ≠ none →
    ∃ t, exec (.lossTimerExpiry port ch) s = .next t ∧
      t.ports.get port =
        { s.ports.get port with loss := true, lossTimer := none, spans := List.replicate 31 0 } ∧
      t.ports.get port.other = s.ports.get port.other ∧
      (isAbsent s port.other = false → (t.tx.get port.other).frameTimer = true) ∧
      TookTrip ch port .loss s t ∧
      (stateOf s port ∉ [.listen, .probe, .ramp, .run] → t.side.get port = s.side.get port) ∧
      (port = .east → stateOf t .east ∉ [.listen, .probe]) ∧
      (port = .west → ∃ u w v : State, u.side.west = t.side.west ∧ u.side.east = s.side.east ∧ u.ports = t.ports ∧
        u.tab = s.tab ∧ u.lines = s.lines ∧ ViewJudged s u w ∧ LeadJudged w v ∧ t = settle v) ∧
      (t.tx.get port.other).transit = (s.tx.get port.other).transit ∧ t.tx.get port = s.tx.get port ∧
      t.hold = s.hold ∧ t.tab = s.tab ∧ t.scan = s.scan ∧ t.lines = s.lines ∧ t.time = s.time ∧
      t.store = s.store ∧ t.loc = s.loc ∧ t.position = s.position ∧ t.pending = s.pending

/-- R13: the frame timer of an originating transmitter gives one originated departure and runs on. -/
def Obligations.FrameTimerGivesOriginatedDeparture : Prop :=
  ∀ (tx : Side) (s : State), s.powered = true → (s.tx.get tx).frameTimer = true → isAbsent s tx = false →
    exec (.frameTimerExpiry tx) s = .next (settle { begun s with
      tx := s.tx.set tx { s.tx.get tx with transit := (s.tx.get tx).transit ++ [.originated] } })

/-- R16, R17, R18, R19, R20, R155, R170: an originated departure, composed, filled from its outbound queue and
sent. -/
def Obligations.OriginatedDepartureSent : Prop :=
  ∀ (tx : Side) (rest : List Departure) (s : State), s.powered = true → isAbsent s tx = false →
    (s.tx.get tx).transit = .originated :: rest →
    ∃ (f : Frame) (m : MsgEngine),
      exec (.departure tx) s = .next (settle { begun s with
        tx := s.tx.set tx { s.tx.get tx with
          transit := rest, counter := (s.tx.get tx).counter + 1, line := some (frameOctets f) }
        msg := m, free := s.free + 1 }) ∧
      f.origin = posOctet s ∧ f.sequence = (s.tx.get tx).counter ∧
      f.holdSet = (((s.ports.get tx.other).holdSet &&& ~~~((1 : PosSet) <<< pos s)) |||
        (if s.hold.own then (1 : PosSet) <<< pos s else 0)) ∧
      f.report = reportAbout s tx ∧
      f.spans = writeNibbles (pos s) (stateOf s .west) (stateOf s .east) (List.replicate 31 0) ∧
      (frameOctets f).length = 80 ∧
      (queueHead (s.msg.out.get tx) = none → f.slot = emptySlot ∧ m = s.msg) ∧
      (∀ v, queueHead (s.msg.out.get tx) = some v →
        f.slot = { v.msg with body := padTo 23 (v.msg.body.take v.msg.len.toNat) } ∧
        m = { s.msg with
          out := s.msg.out.set tx (queueTail (s.msg.out.get tx))
          resetPhase := if v.resetDone then .due else s.msg.resetPhase })

/-- R15, R17, R18, R19, R152, R155, R170: a forwarded departure. A message in transit keeps its slot; an empty
slot takes the head of the transmitter's queue, or leaves empty. -/
def Obligations.ForwardedDepartureSent : Prop :=
  ∀ (tx : Side) (g : Frame) (rest : List Departure) (s : State), s.powered = true → isAbsent s tx = false →
    (s.tx.get tx).transit = .forwarded g :: rest →
    ∃ (f : Frame) (m : MsgEngine),
      exec (.departure tx) s = .next (settle { begun s with
        tx := s.tx.set tx { s.tx.get tx with transit := rest, line := some (frameOctets f) }, msg := m
        free := s.free + 1 }) ∧
      f.origin = g.origin ∧ f.sequence = g.sequence ∧ f.report = reportAbout s tx ∧
      f.holdSet = ((g.holdSet &&& ~~~((1 : PosSet) <<< pos s)) |||
        (if s.hold.own then (1 : PosSet) <<< pos s else 0)) ∧
      f.spans = writeNibbles (pos s) (stateOf s .west) (stateOf s .east) g.spans ∧
      (g.slot.kind ≠ 0 → f.slot = g.slot ∧ m = s.msg) ∧
      (g.slot.kind = 0 → queueHead (s.msg.out.get tx) = none → f.slot = emptySlot ∧ m = s.msg) ∧
      (∀ v, g.slot.kind = 0 → queueHead (s.msg.out.get tx) = some v →
        f.slot = { v.msg with body := padTo 23 (v.msg.body.take v.msg.len.toNat) } ∧
        m = { s.msg with
          out := s.msg.out.set tx (queueTail (s.msg.out.get tx))
          resetPhase := if v.resetDone then .due else s.msg.resetPhase })

/-- R19, R3: every frame this part sends carries format 1, the sender of its report and a correct check code (a
span list has 31 entries). R20, R21, R22: the report about a side, under validated tables with the values of its
span entry and its RX INPUT monitor, and while they are not validated with no advertised values. What a side without
them reports in the drain of a route reset is free (log 42). -/
def Obligations.SentFramesAndUnvalidatedReports : Prop :=
  (∀ f : Frame, f.spans.length = 31 →
    (frameOctets f).length = 80 ∧ octetAt (frameOctets f) 0 = 1 ∧
    octetAt (frameOctets f) 7 = f.report.sender ∧
    crc16 ((frameOctets f).take 78) = word16At (frameOctets f) 78) ∧
  ∀ (s : State) (sd : Side),
    let r := reportAbout s sd
    let e := spanOf s sd
    r.sender = posOctet s ∧ r.state = (stateOf s sd).code ∧
    r.ready = (s.side.get sd).ready ∧ r.verified = (s.side.get sd).verified ∧
    (r.throughDark = true ↔ isAbsent s sd.other = false ∧
      (stateOf s sd.other ≠ .run ∨ darkHolds s sd.other = true)) ∧
    r.flags.getLsbD 4 = ((s.ports.get sd).condition == .degraded) ∧
    r.flags.getLsbD 5 = false ∧ r.flags.getLsbD 6 = false ∧ r.flags.getLsbD 7 = false ∧
    (s.tab.validated = true →
      r.edition = hdrEdition s.tab.tables ∧
      (∀ n, rxInput s sd = some n → r.measured = clipPower (latestOf s n).toInt) ∧
      (absentUnder (pos s) (hdrLength s.tab.tables) sd = false →
        r.probe = e.probe ∧ r.launch = e.launch ∧ r.duration = e.duration ∧ r.agreedMode = e.agreed)) ∧
    (s.tab.validated = false →
      r.measured = minPower ∧ r.probe = 0 ∧ r.launch = 0 ∧ r.duration = 0 ∧ r.edition = 0 ∧
      r.agreedMode = false ∧ r.advertising = false)

/-! ### Local port -/

/-- R160: the local receiver octet by octet, in whatever portions the octets come. A hunting receiver discards every
octet but the start octet; a receiving one stores octets, the start octet's value among them, until it holds 30, and
hunts again; a wrong check is counted, and the octets that go on are taken after it. A timeout or a missing stop bit
is counted while receiving and is nothing while hunting. R31: a message that is received starts at the rate in force
(log 9). -/
def Obligations.LocalReceptionErrorsCounted : Prop :=
  (∀ s : State, s.powered = true →
    (s.loc.receiver = .hunting →
      exec .localRxTimeout s = .next (settle (begun s)) ∧ exec .localStopBitError s = .next (settle (begun s))) ∧
    (∀ held, s.loc.receiver = .receiving held →
      let t : State := settle { begun s with
        msg := { s.msg with framingErrors := min 65535 (s.msg.framingErrors + 1) }
        loc := { s.loc with receiver := .hunting } }
      exec .localRxTimeout s = .next t ∧ exec .localStopBitError s = .next t)) ∧
  (∀ (l more : List Octet) (o : Octet) (x : State),
    takeOctets [] x = x ∧ takeOctets (l ++ more) x = takeOctets more (takeOctets l x) ∧
    (x.loc.receiver = .hunting → o ≠ 0xA5 → takeOctets [o] x = x) ∧
    (x.loc.receiver = .hunting → takeOctets [0xA5] x =
      { x with loc := { x.loc with receiver := .receiving [], rateApplied := x.loc.rateInForce } }) ∧
    (∀ held, x.loc.receiver = .receiving held → held.length < 29 →
      takeOctets [o] x = { x with loc := { x.loc with receiver := .receiving (held ++ [o]) } }) ∧
    (∀ held, x.loc.receiver = .receiving held → held.length = 29 → takeOctets [o] x =
      if crc16 ((held ++ [o]).take 28) = word16At (held ++ [o]) 28 then
        localMessage (messageOf (held ++ [o])) { x with loc := { x.loc with receiver := .hunting } }
      else { x with
        msg := { x.msg with framingErrors := min 65535 (x.msg.framingErrors + 1) }
        loc := { x.loc with receiver := .hunting } })) ∧
  ∀ (octets : List Octet) (ch : Choices) (s : State), s.powered = true →
    exec (.localFrameReceived octets ch) s = .next (settle (takeOctets octets (withChoices ch s))) ∧
    ((∀ o ∈ octets, o ≠ 0xA5) → s.loc.receiver = .hunting →
      exec (.localFrameReceived octets ch) s = .next (settle (withChoices ch s))) ∧
    (∀ noise rest, octets = noise ++ 0xA5 :: rest → (∀ o ∈ noise, o ≠ 0xA5) → rest.length < 30 →
      s.loc.receiver = .hunting →
      exec (.localFrameReceived octets ch) s = .next (settle { withChoices ch s with
        loc := { s.loc with receiver := .receiving rest, rateApplied := s.loc.rateInForce } })) ∧
    (∀ held, s.loc.receiver = .receiving held → held.length + octets.length < 30 →
      exec (.localFrameReceived octets ch) s = .next (settle { withChoices ch s with
        loc := { s.loc with receiver := .receiving (held ++ octets) } })) ∧
    (∀ frame u more, FrameCompleted octets frame (withChoices ch s) u →
      crc16 (frame.take 28) ≠ word16At frame 28 →
      let t : State := { u with msg := { s.msg with framingErrors := min 65535 (s.msg.framingErrors + 1) } }
      exec (.localFrameReceived octets ch) s = .next (settle t) ∧
      exec (.localFrameReceived (octets ++ more) ch) s = .next (settle (takeOctets more t)))

/-- R160, R161: the octets that complete a local message with a correct check, a whole message after its start octet
among them, and the octets that go on after it; and the message judged case by case, in every state. A request for the
own position is handled as the request row of its kind, from the local port. -/
def Obligations.LocalMessageJudged : Prop :=
  (∀ (octets frame more : List Octet) (ch : Choices) (s u : State), s.powered = true →
    FrameCompleted octets frame (withChoices ch s) u → crc16 (frame.take 28) = word16At frame 28 →
    exec (.localFrameReceived octets ch) s = .next (settle (localMessage (messageOf frame) u)) ∧
    exec (.localFrameReceived (octets ++ more) ch) s =
      .next (settle (takeOctets more (localMessage (messageOf frame) u)))) ∧
  ∀ (m : Message) (u : State),
    let refuse := fun (st : Octet) => onMsg (deliver
      { msg := makeMessage (m.kind ||| 0x80) (posOctet u) (posOctet u) m.tag [st], resetDone := false }) u
    ((m.kind = 0 ∨ isNoticeKind m.kind = true ∨ isResponseKind m.kind = true) →
      localMessage m u = { u with
        msg := { u.msg with framingErrors := min 65535 (u.msg.framingErrors + 1) } }) ∧
    (isRequestKind m.kind = true → 31 < m.dest.toNat → localMessage m u = refuse 3) ∧
    (isRequestKind m.kind = true → m.dest.toNat = pos u →
      localMessage m u = handleRequest m.kind
        { via := .localPort, source := posOctet u, tag := m.tag, len := m.len, body := m.body } u) ∧
    (isRequestKind m.kind = true → m.dest.toNat ≤ 31 → m.dest.toNat ≠ pos u →
      let sd : Side := if m.dest.toNat < pos u then .west else .east
      (isAbsent u sd = true → localMessage m u = refuse 3) ∧
      (isAbsent u sd = false → 8 ≤ (u.msg.out.get sd).size → localMessage m u = refuse 11) ∧
      (isAbsent u sd = false → (u.msg.out.get sd).size < 8 →
        localMessage m u = { u with msg := { u.msg with
          out := u.msg.out.set sd { u.msg.out.get sd with
            messages := (u.msg.out.get sd).messages ++
              [{ msg := { m with source := posOctet u }, resetDone := false }] } } }))

/-- R162, R170, R31 (section 2.1.1), R160: the local transmitter begins the message at the head of the delivery
queue, at the rate in force, which is then applied; a change waits for a receiver that is receiving, and a message
begun meanwhile has the rate of that reception. Without a message nothing changes. That the rate applied is a field
of its own is log 9, that `sent` keeps the frame last sent log 8. -/
def Obligations.LocalTransmitterSendsAndChangesRate : Prop :=
  (∀ s : State, s.powered = true → s.msg.delivery = [] →
    exec .localTransmit s = .next (settle (begun s))) ∧
  (∀ (v : Queued) (rest : List Queued) (s : State), s.powered = true → s.msg.delivery = v :: rest →
    let sends := fun (rate : Rate) => Host.Outcome.next (settle { begun s with
      msg := { s.msg with delivery := rest, resetPhase := if v.resetDone then .due else s.msg.resetPhase }
      loc := { s.loc with rateApplied := rate, sent := some { octets := localFrameOctets v.msg, rate := rate } } })
    (s.loc.receiver = .hunting → exec .localTransmit s = sends s.loc.rateInForce) ∧
    (∀ held, s.loc.receiver = .receiving held → exec .localTransmit s = sends s.loc.rateApplied)) ∧
  (∀ s : State, s.powered = true → s.loc.receiver = .hunting →
    exec .localRateChange s = .next (settle { begun s with
      loc := { s.loc with rateApplied := s.loc.rateInForce } })) ∧
  (∀ (held : List Octet) (s : State), s.powered = true → s.loc.receiver = .receiving held →
    exec .localRateChange s = .next (settle (begun s)))

/-- R162, R157, R158, R170, R144, R190: a message joins the local delivery queue, or is dropped and counted at a full
one; a response joins an outbound queue, or is discarded and counted at a full one; a notice of this part supersedes
the notice about its subject and stands last of its class, and a queue still full gives up its newest message, which
is counted. The DONE response of a route reset so lost makes the reset due. A notice made here takes the next notice
number, and its copies join the outbound queue of each side that is not ABSENT and the local delivery queue. A record
replaces the queued lock record of its side, or joins at the end, at a full queue in the stead of the oldest trip
record, which is counted as lost. Every step keeps the law of both outbound queues (at most 8 messages, at most 3 of
them notices, no two about one subject) and the law of the record queue. -/
def Obligations.QueueAdmissions : Prop :=
  (∀ (v : Queued) (m : MsgEngine),
    (m.delivery.length < 16 → deliver v m = { m with delivery := m.delivery ++ [v] }) ∧
    (16 ≤ m.delivery.length → deliver v m =
      { m with
        localDrops := min 65535 (m.localDrops + 1)
        resetPhase := if v.resetDone then .due else m.resetPhase })) ∧
  (∀ (v : Queued) (sd : Side) (m : MsgEngine),
    ((m.out.get sd).size < 8 → joinMessage sd v m =
      { m with out := m.out.set sd { m.out.get sd with messages := (m.out.get sd).messages ++ [v] } }) ∧
    (8 ≤ (m.out.get sd).size → joinMessage sd v m =
      { m with
        discarded := min 65535 (m.discarded + 1)
        resetPhase := if v.resetDone then .due else m.resetPhase })) ∧
  (∀ (n : Message) (sd : Side) (m : MsgEngine), QueueLaw (m.out.get sd) → OwnNotice n →
    let kept := (m.out.get sd).notices.filter fun a => !sameSubject a n
    QueueLaw ((joinNotice n sd m).out.get sd) ∧ ((joinNotice n sd m).out.get sd).notices.length ≤ 3 ∧
    ((joinNotice n sd m).out.get sd).notices = kept ++ [n] ∧
    (joinNotice n sd m).out.get sd.other = m.out.get sd.other ∧
    (kept.length + (m.out.get sd).messages.length < 8 →
      ((joinNotice n sd m).out.get sd).messages = (m.out.get sd).messages ∧
      (joinNotice n sd m).discarded = m.discarded ∧ (joinNotice n sd m).resetPhase = m.resetPhase) ∧
    (∀ l v, 8 ≤ kept.length + (m.out.get sd).messages.length → (m.out.get sd).messages = l ++ [v] →
      ((joinNotice n sd m).out.get sd).messages = l ∧
      (joinNotice n sd m).discarded = min 65535 (m.discarded + 1) ∧
      (joinNotice n sd m).resetPhase = if v.resetDone then .due else m.resetPhase)) ∧
  (∀ (westAbsent eastAbsent : Bool) (n : Message) (m : MsgEngine),
    let p := postNotice westAbsent eastAbsent n m
    p.out.west = (if westAbsent then m.out.west else (joinNotice n .west m).out.west) ∧
    p.out.east = (if eastAbsent then m.out.east else (joinNotice n .east m).out.east) ∧
    p.delivery = (if m.delivery.length < 16 then m.delivery ++ [{ msg := n, resetDone := false }] else m.delivery) ∧
    p.localDrops = (if m.delivery.length < 16 then m.localDrops else min 65535 (m.localDrops + 1)) ∧
    p.noticeNumber = m.noticeNumber + 1) ∧
  (∀ (r : StoreRecord) (c : StoreCtl),
    let fresh : Prop := ∀ sd, r.locksSide sd = true → ∀ x ∈ c.queue, x.locksSide sd = false
    (∀ sd pre old post, r.locksSide sd = true → c.queue = pre ++ old :: post → old.locksSide sd = true →
      (∀ x ∈ pre ++ post, x.locksSide sd = false) → joinRecord r c = { c with queue := pre ++ r :: post }) ∧
    (fresh → c.queue.length < 4 → joinRecord r c = { c with queue := c.queue ++ [r] }) ∧
    (∀ pre old post, fresh → 4 ≤ c.queue.length → c.queue = pre ++ .trip old :: post →
      (∀ x ∈ pre, x.isTrip = false) →
      joinRecord r c = { c with queue := pre ++ post ++ [r], lost := min 65535 (c.lost + 1) })) ∧
  (∀ s t : State, RecordQueueLaw s.ctl → step s = .next t → RecordQueueLaw t.ctl) ∧
  (∀ s t : State, (∀ sd, QueueLaw (s.msg.out.get sd)) → step s = .next t → ∀ sd, QueueLaw (t.msg.out.get sd)) ∧
  (∀ q : OutQueue, QueueLaw q → q.notices.length ≤ 3)

/-! ### Requests -/

/-- R159: where a response goes. -/
def Obligations.ResponseRoutedByDestination : Prop :=
  ∀ (v : Queued) (s : State),
    (31 < v.msg.dest.toNat → routeResponse v s = { s with msg := discardMessage v s.msg }) ∧
    (v.msg.dest.toNat = pos s → routeResponse v s = { s with msg := deliver v s.msg }) ∧
    (v.msg.dest.toNat < pos s → isAbsent s .west = false →
      routeResponse v s = { s with msg := joinMessage .west v s.msg }) ∧
    (pos s < v.msg.dest.toNat → v.msg.dest.toNat ≤ 31 → isAbsent s .east = false →
      routeResponse v s = { s with msg := joinMessage .east v s.msg }) ∧
    (v.msg.dest.toNat < pos s → isAbsent s .west = true →
      routeResponse v s = { s with msg := discardMessage v s.msg }) ∧
    (pos s < v.msg.dest.toNat → isAbsent s .east = true →
      routeResponse v s = { s with msg := discardMessage v s.msg })

/-- R163 steps 1 to 3, R164, R169: a request of a kind the part does not define is answered UNKNOWN; a
modifying request from the line whose source is not in the manager set in force is answered DENIED; while
a route reset is pending, or due and not yet carried out (log 20), every other defined request is answered BUSY.
The octets beside the status of an ENTRY-WRITE refusal are those received, whatever the body length (log 34).
Nothing else changes. -/
def Obligations.RequestsJudgedBeforeTheirRule : Prop :=
  (∀ (kind : Octet) (req : Request) (s : State), s.powered = true →
    exec (.unknownRequest kind req) s = .next (settle (answer kind req [9] (begun s)))) ∧
  (∀ (c : Instr) (kind : Octet) (req : Request) (s : State), s.powered = true →
    modifyingKind c = some (kind, req) → ¬ Permitted s req →
    exec c s = .next (settle (answer kind req (refusalBody kind req 8) (withChoices (choicesOf c) s)))) ∧
  (∀ (c : Instr) (kind : Octet) (req : Request) (s : State), s.powered = true →
    s.msg.resetPhase ≠ .idle →
    ((modifyingKind c = some (kind, req) ∧ Permitted s req) ∨ readingKind c = some (kind, req)) →
    exec c s = .next (settle (answer kind req (refusalBody kind req 1) (withChoices (choicesOf c) s))))

/-- R165, R166, R136: STATUS-READ and SIDE-READ with their pages octet by octet, every flag octet bit by bit, and the
side state codes of section 1.1 and the cause codes of R48. A body length is judged before page and
side (log 36). The sequence beside an absent last origin, the fields of an absent far advertisement and of an
absent arming are free values (log 13), and of the two values that the whole seconds left to an arming can have
one is taken (log 16). The transmitter mode bit of a route-end port is that of R13 (log 28). -/
def Obligations.StatusAndSideReadsReturnPages : Prop :=
  (∀ (l : List Bool) (i : Nat), l.length ≤ 8 → (flagOctet l).getLsbD i = l.getD i false) ∧
  [SideState.absent, .unconfigured, .lockout, .hold, .dark, .listen, .probe, .ramp, .run, .stepdown].map SideState.code =
    [1, 2, 3, 4, 5, 6, 7, 8, 9, 10] ∧
  [Cause.none, .loss, .withdrawn, .neighbour, .farDark, .darkInput, .tripLine, .notice, .overLevel, .mismatch,
    .probeTimeout, .stepTimeout, .hold, .manual, .ordered, .budget, .cut, .reset, .backOff, .defer].map causeCode =
    [0, 1, 2, 3, 4, 5, 6, 7, 8, 9, 10, 11, 12, 13, 14, 15, 16, 17, 18, 19] ∧
  (∀ (req : Request) (s : State), s.powered = true → s.msg.resetPhase = .idle →
    let port := fun (sd : Side) (open' : Octet) =>
      [natOctet (s.ports.get sd).score,
        match (s.ports.get sd).condition with | .clear => 0 | .degraded => 1 | .withdrawn => 2,
        flagOctet [(s.ports.get sd).loss, (s.ports.get sd).neighbour, isAbsent s sd,
          (s.ports.get sd.other).loss || (s.ports.get sd.other).condition == .withdrawn]] ++
      (match (s.ports.get sd).last with | none => [255, open'] | some (origin, sequence) => [origin, sequence])
    (req.len ≠ 1 → exec (.statusRead req) s = .next (settle (answer 1 req [4] (begun s)))) ∧
    (req.len = 1 → 3 < (octetAt req.body 0).toNat →
      exec (.statusRead req) s = .next (settle (answer 1 req [3] (begun s)))) ∧
    (req.len = 1 → (octetAt req.body 0).toNat ≤ 3 →
      ∃ body, exec (.statusRead req) s = .next (settle (answer 1 req ([0, octetAt req.body 0] ++ body)
          { begun s with free := s.free + 2 })) ∧
        (octetAt req.body 0 = 0 → body =
          [posOctet s,
            flagOctet [s.tab.validated, s.pdu.latch, s.pdu.startCut, s.pdu.latch || s.pdu.startCut,
              s.lines.trip.west, s.lines.trip.east],
            flagOctet [s.hold.request, s.lines.hold, s.hold.own]] ++ octets16 (hdrEdition s.tab.tables) ++
            [natOctet (hdrLength s.tab.tables), (stateOf s .west).code, (stateOf s .east).code,
              match s.ctl.op with
              | .idle => 0 | .loading _ _ _ => 1 | .committing _ _ _ => 2 | .suspended _ _ _ => 3 | .recording _ => 4
              | .reading _ _ _ => 5,
              match s.ctl.result with
              | .noneYet => 0 | .loaded => 1 | .incomplete => 2 | .blank => 3 | .oversize => 4 | .corrupt => 5
              | .absent => 6] ++
            (match s.tab.loadCheck with | none => [0, 0, 0] | some f => [f.table, f.index, f.code]) ++
            octets32 s.hold.view ++ octets32 s.time.uptime) ∧
        (octetAt req.body 0 = 1 → ∃ x y, body =
          port .west x ++ port .east y ++ octets32 s.hold.sets.west ++ octets32 s.hold.sets.east ++
            [s.tx.east.counter, s.tx.west.counter]) ∧
        (octetAt req.body 0 = 2 → body =
          octets16 (BitVec.ofNat 16 s.msg.discarded) ++ octets16 (BitVec.ofNat 16 s.msg.localDrops) ++
            octets16 (BitVec.ofNat 16 s.msg.framingErrors) ++
            [natOctet s.msg.out.west.size, natOctet s.msg.out.east.size, natOctet s.msg.delivery.length,
              s.msg.noticeNumber, match s.loc.rateInForce with | .r9600 => 0 | .r38400 => 1 | .r115200 => 2] ++
            octets16 (BitVec.ofNat 16 s.ctl.lost) ++ [if s.ctl.lastFault then 10 else 0]) ∧
        (octetAt req.body 0 = 3 → body = eight.flatMap fun n =>
          octets16 (if assigned s.tab n then driveOf s.pdu n else 0)))) ∧
  ∀ (req : Request) (sd : Side) (s : State), s.powered = true → s.msg.resetPhase = .idle →
    (req.len ≠ 2 → exec (.sideRead req) s = .next (settle (answer 2 req [4] (begun s)))) ∧
    (req.len = 2 → (1 < (octetAt req.body 0).toNat ∨ 7 < (octetAt req.body 1).toNat) →
      exec (.sideRead req) s = .next (settle (answer 2 req [3] (begun s)))) ∧
    (req.len = 2 → octetAt req.body 0 = sideOctet sd → (octetAt req.body 1).toNat ≤ 7 →
      ∃ body, exec (.sideRead req) s = .next (settle (answer 2 req
          ([0, sideOctet sd, octetAt req.body 1] ++ body) { begun s with free := s.free + 11 })) ∧
        (octetAt req.body 1 = 0 → body =
          [(s.side.get sd).state.code, causeCode (s.side.get sd).reason,
            flagOctet [(s.side.get sd).retry.isSome, (s.side.get sd).settle.isSome, (s.side.get sd).probe.isSome,
              (s.side.get sd).stepWindow.isSome, (s.side.get sd).proving.isSome,
              match s.pdu.stepdown.get sd with | some ⟨_, .timer _⟩ => true | _ => false],
            natOctet ((s.side.get sd).step.getD 0),
            match (s.side.get sd).agree.state with | .none => 0 | .settling => 1 | .settled => 2 | .refused => 3,
            natOctet (s.side.get sd).agree.count,
            flagOctet [(s.side.get sd).ready, (s.side.get sd).verified, (s.side.get sd).starved,
              (s.side.get sd).agree.mismatch, (s.ports.get sd).report.isSome, (s.side.get sd).lock.locked],
            natOctet (s.side.get sd).mismatchRun, natOctet (s.side.get sd).rearm] ++ octets16 (s.side.get sd).agree.probe ++
            octets16 (s.side.get sd).agree.launch ++
            [(s.side.get sd).agree.duration, natOctet (s.side.get sd).failures.length,
              causeCode (s.side.get sd).lock.reason] ++ octets16 (s.side.get sd).lock.count) ∧
        (octetAt req.body 1 = 1 → body =
          match (s.ports.get sd).report with
          | none => List.replicate 12 0
          | some v => reportOctets v) ∧
        (octetAt req.body 1 = 2 → ∃ advert arm : List Octet, body = advert ++ arm ∧
          (∀ a, (s.side.get sd).agree.far = some a → advert =
            [1] ++ octets16 a.probe ++ octets16 a.launch ++ [a.duration] ++ octets16 a.edition ++
              [if a.agreedMode then 1 else 0]) ∧
          ((s.side.get sd).agree.far = none → ∃ l, l.length = 8 ∧ advert = 0 :: l) ∧
          (∀ a, (s.side.get sd).lock.arming = some a → ∃ left,
            (left = 10 - (s.time.uptime - a.since).toNat ∨ left = 11 - (s.time.uptime - a.since).toNat) ∧
            arm = [1, a.source] ++ octets16 a.number ++ [natOctet (max 1 (min 10 left))]) ∧
          ((s.side.get sd).lock.arming = none → ∃ l, l.length = 3 ∧ arm = 0 :: l ++ [0])) ∧
        (3 ≤ (octetAt req.body 1).toNat → (octetAt req.body 1).toNat ≤ 6 → body =
          natOctet (s.side.get sd).failures.length ::
            padTo 16 ((((s.side.get sd).failures.drop (4 * ((octetAt req.body 1).toNat - 3))).take 4).flatMap
              octets32)) ∧
        (octetAt req.body 1 = 7 → body = flagOctet (eight.map (assignedTo s.tab sd)) ::
          eight.flatMap fun n => octets16 (if assignedTo s.tab sd n then driveOf s.pdu n else 0)))

/-- R167: MONITOR-READ, its body length judged before its input (log 36). R168: ENTRY-READ returns the working
entry octet for octet; a refusal carries the table and index as received. -/
def Obligations.MonitorAndEntryReads : Prop :=
  ∀ (req : Request) (s : State), s.powered = true → s.msg.resetPhase = .idle →
    let table := octetAt req.body 0
    let index := octetAt req.body 1
    (req.len ≠ 1 → exec (.monitorRead req) s = .next (settle (answer 3 req [4] (begun s)))) ∧
    (req.len = 1 → 7 < (octetAt req.body 0).toNat →
      exec (.monitorRead req) s = .next (settle (answer 3 req [3] (begun s)))) ∧
    (∀ n, req.len = 1 → (octetAt req.body 0).toNat = n → n ≤ 7 →
      exec (.monitorRead req) s = .next (settle (answer 3 req
        ([0, octetAt req.body 0] ++ octets16 (latestOf s n) ++
          [if s.tab.validated = true ∧ (mapOf s.tab n).present = false then 0 else 1,
            octetAt (entryAt s.tab.tables.monitors n) 1, octetAt (entryAt s.tab.tables.monitors n) 2] ++
          octets16 (offsetOf s.tab n) ++
          [if (s.scan.dark.getD n ⟨false, 0⟩).holding then 1 else 0,
            natOctet (s.scan.dark.getD n ⟨false, 0⟩).count, natOctet (checksOn s.pdu n)]) (begun s)))) ∧
    (req.len ≠ 2 → exec (.entryRead req) s = .next (settle (answer 4 req [4] (begun s)))) ∧
    (req.len = 2 → entryExists table index = false →
      exec (.entryRead req) s = .next (settle (answer 4 req [3, table, index] (begun s)))) ∧
    (req.len = 2 → entryExists table index = true →
      exec (.entryRead req) s = .next (settle (answer 4 req
        ([0, table, index] ++ getEntry s.tab.tables table.toNat index.toNat) (begun s))))

/-- R34, steps 2 to 6: the refusals of ENTRY-WRITE in their order; nothing changes but the answer. For a body
shorter than 2 the table and index are the body octets as they came (log 34). -/
def Obligations.EntryWriteRefusedInOrder : Prop :=
  ∀ (req : Request) (ch : Choices) (s : State), Accepted s req →
    let table := octetAt req.body 0
    let index := octetAt req.body 1
    let refuse := fun (st off : Octet) =>
      Host.Outcome.next (settle (answer 5 req [st, table, index, off] (withChoices ch s)))
    (s.ctl.op.locksTables = true → exec (.entryWrite req ch) s = refuse 1 0) ∧
    (s.ctl.op.locksTables = false → eitherActive s = true → exec (.entryWrite req ch) s = refuse 2 0) ∧
    (s.ctl.op.locksTables = false → eitherActive s = false → entryExists table index = false →
      exec (.entryWrite req ch) s = refuse 3 0) ∧
    (s.ctl.op.locksTables = false → eitherActive s = false → entryExists table index = true →
      req.len.toNat ≠ 2 + entrySize table → exec (.entryWrite req ch) s = refuse 4 255) ∧
    (∀ off, s.ctl.op.locksTables = false → eitherActive s = false → entryExists table index = true →
      req.len.toNat = 2 + entrySize table →
      firstBadField table.toNat ((req.body.drop 2).take (entrySize table)) = some off →
      exec (.entryWrite req ch) s = refuse 4 (natOctet off))

/-- R35, R36, R28, R29, R58, R113, R125, R139: an accepted ENTRY-WRITE replaces the entry, clears the flag and answers
DONE. A header write trims the failure lists. A flag that was set goes with its plan and map: every channel to zero,
the dark detections ended, and the view recomputed with all 32 positions, which takes a side in DARK to HOLD where it
is no longer empty. -/
def Obligations.EntryWriteReplacesEntry : Prop :=
  ∀ (req : Request) (ch : Choices) (s : State), Accepted s req →
    let table := octetAt req.body 0
    let index := octetAt req.body 1
    let entry := (req.body.drop 2).take (entrySize table)
    s.ctl.op.locksTables = false → eitherActive s = false → entryExists table index = true →
    req.len.toNat = 2 + entrySize table → firstBadField table.toNat entry = none →
    let trimmed : SideRecord → SideRecord := fun r =>
      if table = 1 ∧ ¬ (r.state = .lockout ∧ r.reason = .budget) then
        { r with failures := trimFailures (octetAt entry 9).toNat r.failures }
      else r
    let bit : PosSet := (1 : PosSet) <<< pos s
    let view : PosSet := ((s.hold.sets.west ||| s.hold.sets.east) &&& ~~~bit) ||| (if s.hold.own then bit else 0)
    ∃ u, exec (.entryWrite req ch) s = .next (settle (answer 5 req [0, table, index, 0] u)) ∧
      u.tab = { tables := setEntry s.tab.tables table.toNat index.toNat entry, validated := false
                loadCheck := s.tab.loadCheck } ∧
      u.ports = s.ports ∧ u.tx = s.tx ∧ u.position = s.position ∧ u.time = s.time ∧ u.lines = s.lines ∧
      u.loc = s.loc ∧ u.store = s.store ∧ u.hold.sets = s.hold.sets ∧ u.hold.own = s.hold.own ∧
      u.hold.request = s.hold.request ∧ u.pdu.latch = s.pdu.latch ∧ u.scan.latest = s.scan.latest ∧
      u.msg = s.msg ∧ u.ctl = s.ctl ∧
      (s.tab.validated = false → u.hold = s.hold ∧ u.pdu = s.pdu ∧ u.scan = s.scan ∧
        ∀ sd, u.side.get sd = trimmed (s.side.get sd)) ∧
      (s.tab.validated = true →
        u.hold = { s.hold with view := view } ∧ (∀ n, n < 8 → driveOf u.pdu n = 0) ∧
        u.scan = { s.scan with dark := List.replicate 8 ⟨false, 0⟩ } ∧
        (∀ sd, s.hold.view = 0 → view ≠ 0 → stateOf s sd = .dark →
          stateOf u sd = .hold ∧ (u.side.get sd).reason = .hold ∧ (u.side.get sd).retry = none ∧
          (u.side.get sd).failures = (trimmed (s.side.get sd)).failures ∧
          (u.side.get sd).lock = (s.side.get sd).lock) ∧
        (∀ sd, (s.hold.view = 0 ↔ view = 0) ∨ stateOf s sd ∉ [.dark, .hold] →
          u.side.get sd = trimmed (s.side.get sd)))

/-- R38, R41, R42, R43, R44, R53, R54, R58, R59, R79, R163: TABLES-CHECK. A body length above 23 matches no request
(R163), and that it is judged before LOADING is the model's choice (log 41); another is not judged, since no rule
gives one (log 23). A failure and a success under a flag already set change nothing but the answer; a success under a
clear flag sets it, leaves the tables as they are, and moves the sides: an UNCONFIGURED or ABSENT side leaves, a side
that the new route length leaves out becomes ABSENT, and a side in LOCKOUT stays. A side in DARK or HOLD takes the
changes of the view, which the obey set now in force and a port that is or was a route end's give, and one left in
DARK judges R54 (R53, R58, R59). The success is stated under R28's law: no side is active under the clear flag. The
count of moved sides is that of log 24. -/
def Obligations.TablesCheckJudgesAndValidates : Prop :=
  ∀ (req : Request) (ch : Choices) (s : State), Accepted s req →
    (23 < req.len.toNat →
      exec (.tablesCheck req ch) s = .next (settle (answer 6 req [4] (withChoices ch s)))) ∧
    (req.len.toNat ≤ 23 → s.ctl.op.isLoading = true →
      exec (.tablesCheck req ch) s = .next (settle (answer 6 req [1] (withChoices ch s)))) ∧
    (∀ f, req.len.toNat ≤ 23 → s.ctl.op.isLoading = false → runChecks (pos s) s.tab.tables = some f →
      exec (.tablesCheck req ch) s = .next (settle (answer 6 req [4, f.table, f.index, f.code] (withChoices ch s)))) ∧
    (req.len.toNat ≤ 23 → s.ctl.op.isLoading = false → runChecks (pos s) s.tab.tables = none →
      s.tab.validated = true →
      exec (.tablesCheck req ch) s = .next (settle (answer 6 req
        ([0] ++ octets16 (hdrEdition s.tab.tables) ++ [0]) (withChoices ch s)))) ∧
    (FlagLaw s → req.len.toNat ≤ 23 → s.ctl.op.isLoading = false → runChecks (pos s) s.tab.tables = none →
      s.tab.validated = false →
      let bit : PosSet := (1 : PosSet) <<< pos s
      let view : PosSet := (((s.hold.sets.west ||| s.hold.sets.east) &&& ~~~bit) |||
        (if s.hold.own then bit else 0)) &&& siteObey s.tab.tables
      let listens : Side → Prop := fun sd => (s.ports.get sd).loss = false ∧
        (s.ports.get sd).condition ≠ .withdrawn ∧ (s.ports.get sd).neighbour = false ∧
        (s.side.get sd).retry = none ∧ s.lines.trip.get sd = false
      ∃ (u : State) (moved : Nat),
        exec (.tablesCheck req ch) s = .next (settle (answer 6 req
          ([0] ++ octets16 (hdrEdition s.tab.tables) ++ [natOctet moved]) u)) ∧ moved ≤ 2 ∧
        u.tab = { s.tab with validated := true } ∧ u.loc.rateInForce = siteRate s.tab.tables ∧
        (∀ sd, absentUnder (pos s) (hdrLength s.tab.tables) sd = false →
          (stateOf s sd ∈ [.unconfigured, .absent] → Configured sd (s.side.get sd).lock s u) ∧
          (stateOf s sd = .lockout → u.side.get sd = s.side.get sd)) ∧
        (∀ sd, absentUnder (pos s) (hdrLength s.tab.tables) sd = true →
          stateOf u sd = .absent ∧
          (stateOf s sd ≠ .absent → (u.side.get sd).failures = [] ∧
            (u.side.get sd).lock = { (s.side.get sd).lock with arming := none } ∧
            u.ports.get sd = PortRecord.reset ∧ u.msg.out.get sd = ⟨[], []⟩) ∧
          (stateOf s sd = .absent → (u.side.get sd).lock = (s.side.get sd).lock)) ∧
        u.hold.view &&& view = u.hold.view ∧
        ((∀ sd, absentUnder (pos s) (hdrLength s.tab.tables) sd = isAbsent s sd) → u.hold.view = view) ∧
        (∀ sd, absentUnder (pos s) (hdrLength s.tab.tables) sd = false → stateOf s sd ∈ [.dark, .hold] →
          u.ports.get sd = s.ports.get sd ∧ (u.side.get sd).failures = (s.side.get sd).failures ∧
          (u.side.get sd).lock = (s.side.get sd).lock) ∧
        (∀ sd, absentUnder (pos s) (hdrLength s.tab.tables) sd = false → stateOf s sd = .dark → s.hold.view = 0 →
          (view = 0 → listens sd → stateOf u sd = .listen ∧ (u.side.get sd).reason = (s.side.get sd).reason ∧
            (u.side.get sd).settle = some (hdrSettle s.tab.tables) ∧ (u.side.get sd).ready = false) ∧
          (view = 0 → ¬ listens sd → u.side.get sd = s.side.get sd) ∧
          (view ≠ 0 → (u.side.get sd).reason = .hold) ∧
          (view ≠ 0 → u.hold.view ≠ 0 → stateOf u sd = .hold ∧ (u.side.get sd).retry = none) ∧
          (view ≠ 0 → u.hold.view = 0 → stateOf u sd = .dark ∧ (u.side.get sd).retry = some (tripRest s))) ∧
        (∀ sd, absentUnder (pos s) (hdrLength s.tab.tables) sd = false → stateOf s sd = .hold → s.hold.view ≠ 0 →
          (u.hold.view ≠ 0 → u.side.get sd = s.side.get sd) ∧
          (u.hold.view = 0 → stateOf u sd = .dark ∧ (u.side.get sd).reason = (s.side.get sd).reason ∧
            (u.side.get sd).retry = some (tripRest s))) ∧
        ((∀ sd, stateOf s sd = .unconfigured) → moved = 2) ∧
        u.position = s.position ∧ u.time = s.time ∧ u.lines = s.lines ∧ u.store = s.store ∧
        u.pdu.latch = s.pdu.latch ∧ u.scan.latest = s.scan.latest)

/-- R136, R135, R139, R140, R58, R59, R75 to R77: HOLD-SET and HOLD-CLEAR, with what both sides do and hand on where
the obeyed hold view becomes non-empty or empty. The response joins its queue after the notices of the sides that take
the change of the view: the model's choice (log 40). So are the lead's judgment between the two sides (log 38) and the
obey set of a view recomputed in the drain of a route reset (log 44). -/
def Obligations.HoldRequestsSetFlagAndView : Prop :=
  ∀ (b : Bool) (req : Request) (ch : Choices) (s : State), Accepted s req →
    let kind : Octet := if b then 7 else 8
    let cmd : Instr := if b then .holdSet req ch else .holdClear req ch
    let own := b || s.lines.hold
    let bit : PosSet := (1 : PosSet) <<< pos s
    let view : PosSet := (((s.hold.sets.west ||| s.hold.sets.east) &&& ~~~bit) ||| (if own then bit else 0)) &&&
      obeySet s
    (req.len ≠ 0 → exec cmd s = .next (settle (answer kind req [4] (withChoices ch s)))) ∧
    (req.len = 0 → own = s.hold.own →
      exec cmd s = .next (settle (answer kind req
        ([0, flagOctet [b, s.lines.hold, own]] ++ octets32 s.hold.view)
        { withChoices ch s with hold := { s.hold with request := b } }))) ∧
    (req.len = 0 → own ≠ s.hold.own →
      ∃ u, exec cmd s = .next (settle (answer kind req
          ([0, flagOctet [b, s.lines.hold, own]] ++ octets32 view) u)) ∧
        ViewRecomputed { withChoices ch s with hold := { s.hold with request := b, own := own } } u ∧
        u.hold = { request := b, own := own, sets := s.hold.sets, view := view } ∧
        SameOutside s u ∧ u.lines = s.lines)

/-- R173, R174, R171, R75 to R77: SIDE-LOCK, its refusals, its effect on a side that exists, and what the side
hands on. The DONE joins its queue after the side's notice: the model's choice (log 40). -/
def Obligations.SideLockLocksOut : Prop :=
  ∀ (sd : Side) (req : Request) (ch : Choices) (s : State), Accepted s req →
    SideRefusals 10 1 (.sideLock req ch) req s ∧
    (req.len = 1 → octetAt req.body 0 = sideOctet sd → isAbsent s sd = false →
    (stateOf s sd = .lockout →
      exec (.sideLock req ch) s = .next (settle (answer 10 req
        ([0, sideOctet sd, 3] ++ octets16 (s.side.get sd).lock.count) (withChoices ch s)))) ∧
    (stateOf s sd ≠ .lockout →
      ∃ u, exec (.sideLock req ch) s = .next (settle (answer 10 req
          ([0, sideOctet sd, 3] ++ octets16 ((s.side.get sd).lock.count + 1)) u)) ∧
        stateOf u sd = .lockout ∧ (u.side.get sd).reason = .manual ∧
        (u.side.get sd).lock =
          { locked := true, reason := .manual, count := (s.side.get sd).lock.count + 1, arming := none } ∧
        (u.side.get sd).failures = (s.side.get sd).failures ∧ (u.side.get sd).retry = none ∧
        LockoutHandsOn ch [] sd .manual .manual (stateOf s sd) s u ∧
        (u.side.get sd).ready = false ∧ (u.side.get sd).verified = false ∧ (u.side.get sd).step = none ∧
        (sd = .east → u.side.west = s.side.west) ∧ SameOutside s u ∧ u.lines = s.lines ∧ u.hold = s.hold))

/-- R173, R175, R176, R117: SIDE-SHUT, its refusals and its effect on a side that exists. A shut from RUN reports
STEPDOWN and the count before, also where the side has no pumps and its sequence completes at once: that it is the
count before is then the model's choice (log 43). So is that the DONE of a shut that locks the side out joins its queue
after the side's notice (log 40). -/
def Obligations.SideShutStepsDownOrLocksOut : Prop :=
  ∀ (sd : Side) (req : Request) (ch : Choices) (s : State), Accepted s req →
    SideRefusals 9 1 (.sideShut req ch) req s ∧
    (req.len = 1 → octetAt req.body 0 = sideOctet sd → isAbsent s sd = false →
    (stateOf s sd = .lockout ∨ stateOf s sd = .stepdown →
      exec (.sideShut req ch) s = .next (settle (answer 9 req
        ([0, sideOctet sd, (stateOf s sd).code] ++ octets16 (s.side.get sd).lock.count) (withChoices ch s)))) ∧
    (∀ n l, stateOf s sd = .run → pumpsDown s.tab sd = n :: l →
      ∃ u, exec (.sideShut req ch) s = .next (settle (answer 9 req
          ([0, sideOctet sd, 10] ++ octets16 (s.side.get sd).lock.count) u)) ∧
        stateOf u sd = .stepdown ∧ (u.side.get sd).reason = (s.side.get sd).reason ∧
        (u.side.get sd).step = some (planOf s.tab n).order ∧ Cleared sd s u ∧
        (u.side.get sd).lock = (s.side.get sd).lock ∧ driveOf u.pdu n = 0 ∧
        (∃ w, u.pdu.stepdown.get sd = some ⟨n, w⟩) ∧ u.msg = s.msg ∧ u.ctl = s.ctl ∧ SameOutside s u ∧
        u.lines = s.lines ∧ u.hold = s.hold) ∧
    (stateOf s sd = .run → pumpsDown s.tab sd = [] →
      ∃ u, exec (.sideShut req ch) s = .next (settle (answer 9 req
          ([0, sideOctet sd, 10] ++ octets16 (s.side.get sd).lock.count) u)) ∧
        LockoutHandsOn ch [] sd .ordered .ordered .stepdown s u ∧
        stateOf u sd = .lockout ∧ (u.side.get sd).reason = .ordered ∧
        (u.side.get sd).lock =
          { locked := true, reason := .ordered, count := (s.side.get sd).lock.count + 1, arming := none } ∧
        Cleared sd s u ∧ SameOutside s u ∧ u.lines = s.lines ∧ u.hold = s.hold) ∧
    (stateOf s sd ≠ .lockout → stateOf s sd ≠ .stepdown → stateOf s sd ≠ .run →
      ∃ u, exec (.sideShut req ch) s = .next (settle (answer 9 req
          ([0, sideOctet sd, 3] ++ octets16 ((s.side.get sd).lock.count + 1)) u)) ∧
        LockoutHandsOn ch [] sd .ordered .ordered (stateOf s sd) s u ∧
        stateOf u sd = .lockout ∧ (u.side.get sd).reason = .ordered ∧
        (u.side.get sd).lock =
          { locked := true, reason := .ordered, count := (s.side.get sd).lock.count + 1, arming := none } ∧
        Cleared sd s u ∧ SameOutside s u ∧ u.lines = s.lines ∧ u.hold = s.hold))

/-- R173, R178: UNLOCK-ARM, its refusals and its effect on a side that exists. -/
def Obligations.UnlockArmRecordsArming : Prop :=
  ∀ (sd : Side) (req : Request) (s : State), Accepted s req →
    SideRefusals 11 1 (.unlockArm req) req s ∧
    (req.len = 1 → octetAt req.body 0 = sideOctet sd → isAbsent s sd = false →
    (stateOf s sd ≠ .lockout →
      exec (.unlockArm req) s = .next (settle (answer 11 req [2, sideOctet sd, (stateOf s sd).code] (begun s)))) ∧
    (stateOf s sd = .lockout → (s.side.get sd).lock.reason = .cut →
      exec (.unlockArm req) s = .next (settle (answer 11 req [7, sideOctet sd, 3] (begun s)))) ∧
    (stateOf s sd = .lockout → (s.side.get sd).lock.reason ≠ .cut →
      exec (.unlockArm req) s = .next (settle (answer 11 req
        ([0, sideOctet sd] ++ octets16 (s.side.get sd).lock.count ++ [10])
        { begun s with side := s.side.set sd { s.side.get sd with lock := { (s.side.get sd).lock with
            arming := some { number := (s.side.get sd).lock.count, source := (taken s req).source,
                             since := s.time.uptime } } } }))))

/-- R173, R179, R172, R77: UNLOCK-CONFIRM: its refusals, and the release, which hands on a lock record. -/
def Obligations.UnlockConfirmReleases : Prop :=
  ∀ (sd : Side) (req : Request) (ch : Choices) (s : State), Accepted s req →
    SideRefusals 12 3 (.unlockConfirm req ch) req s ∧
    (req.len = 3 → octetAt req.body 0 = sideOctet sd → isAbsent s sd = false →
    (s.pdu.latch = true →
      exec (.unlockConfirm req ch) s = .next (settle (answer 12 req [7, sideOctet sd, (stateOf s sd).code]
        (withChoices ch s)))) ∧
    (s.pdu.latch = false →
      (stateOf s sd ≠ .lockout ∨ (s.side.get sd).lock.arming = none ∨
        (∃ a, (s.side.get sd).lock.arming = some a ∧
          ((taken s req).source ≠ a.source ∨ word16At req.body 1 ≠ a.number))) →
      exec (.unlockConfirm req ch) s = .next (settle (answer 12 req [6, sideOctet sd, (stateOf s sd).code]
        (withChoices ch s)))) ∧
    (∀ a, s.pdu.latch = false → stateOf s sd = .lockout → (s.side.get sd).lock.arming = some a →
      (taken s req).source = a.source → word16At req.body 1 = a.number →
      ∃ u, exec (.unlockConfirm req ch) s = .next (settle (answer 12 req
          ([0, sideOctet sd, if s.hold.view = 0 then 5 else 4] ++ octets16 (s.side.get sd).lock.count) u)) ∧
        stateOf u sd = (if s.hold.view = 0 then .dark else .hold) ∧ (u.side.get sd).failures = [] ∧
        (u.side.get sd).lock = { (s.side.get sd).lock with locked := false, arming := none } ∧
        (s.hold.view = 0 → (u.side.get sd).retry = some (tripRest s) ∧
          (u.side.get sd).reason = (s.side.get sd).reason) ∧
        RecordsHanded ch [.lock sd false (s.side.get sd).lock.reason (s.side.get sd).lock.count] s u ∧
        u.msg = s.msg ∧ (sd = .east → u.pdu = s.pdu) ∧ SameOutside s u ∧ u.lines = s.lines ∧ u.hold = s.hold))

/-- R187, R188, R192: the refusals of the three store requests. STORE-COMMIT is NOT-VALID before BUSY, but BUSY
whatever the flag while a STORE-RELOAD's run is under way (R187, log 35). -/
def Obligations.StoreRequestRefusals : Prop :=
  ∀ (req : Request) (ch : Choices) (s : State), s.powered = true → s.msg.resetPhase = .idle →
    (Permitted s req → req.len ≠ 0 →
      exec (.storeCommit req ch) s = .next (settle (answer 13 req [4] (withChoices ch s))) ∧
      exec (.storeReload req ch) s = .next (settle (answer 14 req [4] (withChoices ch s)))) ∧
    (Permitted s req → req.len = 0 → s.ctl.op.isReloading = false → s.tab.validated = false →
      exec (.storeCommit req ch) s = .next (settle (answer 13 req [5] (withChoices ch s)))) ∧
    (Permitted s req → req.len = 0 → s.ctl.op ≠ .idle →
      (s.tab.validated = true ∨ s.ctl.op.isReloading = true →
        exec (.storeCommit req ch) s = .next (settle (answer 13 req [1] (withChoices ch s)))) ∧
      exec (.storeReload req ch) s = .next (settle (answer 14 req [1] (withChoices ch s)))) ∧
    (Permitted s req → req.len = 0 → s.ctl.op = .idle → eitherActive s = true →
      exec (.storeReload req ch) s = .next (settle (answer 14 req [2] (withChoices ch s)))) ∧
    (req.len ≠ 2 → exec (.logRead req ch) s = .next (settle (answer 15 req [4] (withChoices ch s)))) ∧
    (req.len = 2 → (63 < (octetAt req.body 0).toNat ∨ 1 < (octetAt req.body 1).toNat) →
      exec (.logRead req ch) s = .next (settle (answer 15 req [3] (withChoices ch s)))) ∧
    (req.len = 2 → (octetAt req.body 0).toNat ≤ 63 → (octetAt req.body 1).toNat ≤ 1 → s.ctl.op ≠ .idle →
      exec (.logRead req ch) s = .next (settle (answer 15 req [1] (withChoices ch s))))

/-- R187, R188, R192, R184: the three store requests begin their operation with an acknowledged access. -/
def Obligations.StoreRequestsBeginOperation : Prop :=
  ∀ (req : Request) (ch : Choices) (s : State), s.powered = true → s.msg.resetPhase = .idle →
    s.ctl.op = .idle → ch.acks.headD true = true →
    let who : Requester := { dest := (taken s req).source, tag := req.tag }
    (Permitted s req → req.len = 0 → s.tab.validated = true →
      exec (.storeCommit req ch) s = .next { s with
        ctl := { s.ctl with op := .committing who 0 { addr := 0, data := [0, 0], elapsed := 0, done := false } }
        choices := Choices.default }) ∧
    (Permitted s req → req.len = 0 → eitherActive s = false →
      ∃ t, exec (.storeReload req ch) s = .next t ∧ t.ctl.op = .loading (.reload who) .header .noneYet ∧
        t.tab = { s.tab with validated := false } ∧ t.pdu.startCut = s.pdu.startCut ∧ t.store = s.store ∧
        t.ports = s.ports ∧ t.loc = s.loc ∧ t.lines = s.lines ∧ t.time = s.time) ∧
    (req.len = 2 → (octetAt req.body 0).toNat ≤ 63 → (octetAt req.body 1).toNat ≤ 1 →
      exec (.logRead req ch) s = .next { s with
        ctl := { s.ctl with op := .reading who (octetAt req.body 0).toNat (octetAt req.body 1).toNat }
        choices := Choices.default })

/-- R169, R170: PART-RESET. -/
def Obligations.PartResetBecomesPending : Prop :=
  ∀ (req : Request) (s : State), Accepted s req →
    (req.len ≠ 0 → exec (.partReset req) s = .next (settle (answer 16 req [4] (begun s)))) ∧
    (req.len = 0 → s.ctl.op.locksTables = true →
      exec (.partReset req) s = .next (settle (answer 16 req [1] (begun s)))) ∧
    (req.len = 0 → s.ctl.op.locksTables = false →
      exec (.partReset req) s = .next (settle (routeResponse
        { msg := makeMessage 144 (taken s req).source (posOctet s) req.tag [0], resetDone := true }
        { begun s with msg := { s.msg with resetPhase := .pending } })))

/-! ### Lines -/

/-- R63, R54, R57, R69 to R72, R75 to R77, R143: the trip lines. A line going to its active level trips a side in
LISTEN, PROBE, RAMP or RUN with reason TRIP-LINE, from PROBE, RAMP and RUN with the immediate cut, its records and its
notice, and does nothing else; a line leaving it lets a side in DARK judge R54. -/
def Obligations.TripLinesMoveTheirSide : Prop :=
  ∀ (sd : Side) (ch : Choices) (s : State), s.powered = true →
    let level := fun b => { s.lines with trip := s.lines.trip.set sd b }
    let may : Prop := stateOf s sd = .dark ∧ (s.ports.get sd).loss = false ∧
      (s.ports.get sd).condition ≠ .withdrawn ∧ (s.ports.get sd).neighbour = false ∧
      (s.side.get sd).retry = none ∧ s.tab.validated = true ∧ s.hold.view = 0
    (s.lines.trip.get sd = true →
      exec (.tripLineAssert sd ch) s = .next (settle (withChoices ch s)) ∧
      (¬ may → exec (.tripLineRelease sd) s = .next (settle { begun s with lines := level false })) ∧
      (may →
        ∃ t, exec (.tripLineRelease sd) s = .next t ∧ stateOf t sd = .listen ∧
          (t.side.get sd).settle = some (hdrSettle s.tab.tables) ∧
          (t.side.get sd).reason = (s.side.get sd).reason ∧ t.lines = level false ∧ t.msg = s.msg ∧
          t.hold = s.hold ∧ SameOutside s t)) ∧
    (s.lines.trip.get sd = false →
      exec (.tripLineRelease sd) s = .next (settle (begun s)) ∧
      (stateOf s sd ∉ [.listen, .probe, .ramp, .run] →
        exec (.tripLineAssert sd ch) s = .next (settle { withChoices ch s with lines := level true })) ∧
      (stateOf s sd ∈ [.listen, .probe, .ramp, .run] →
        ∃ t, exec (.tripLineAssert sd ch) s = .next t ∧ TookTrip ch sd .tripLine s t ∧
          t.lines = level true ∧ t.hold = s.hold ∧ SameOutside s t ∧
          (stateOf s sd = .listen → t.msg = s.msg) ∧
          (stateOf s sd ∈ [.probe, .ramp, .run] → t.msg.noticeNumber = s.msg.noticeNumber + 1)))

/-- R135, R137, R139, R140, R58, R59, R75 to R77: the HOLD line. What the sides hand on at the beginning of a hold is
stated where no judgment of the lead comes between them (log 38). The obey set of a view recomputed in the drain of a
route reset is the model's choice (log 44). -/
def Obligations.HoldLineSetsOwnBitAndView : Prop :=
  ∀ (b : Bool) (ch : Choices) (s : State), s.powered = true →
    let cmd : Instr := if b then .holdLineAssert ch else .holdLineRelease ch
    let own := s.hold.request || b
    let order : List Side := if ch.eastFirst then [.east, .west] else [.west, .east]
    let bit : PosSet := (1 : PosSet) <<< pos s
    let view : PosSet := (((s.hold.sets.west ||| s.hold.sets.east) &&& ~~~bit) ||| (if own then bit else 0)) &&&
      obeySet s
    (own = s.hold.own →
      exec cmd s = .next (settle { withChoices ch s with lines := { s.lines with hold := b } })) ∧
    (own ≠ s.hold.own →
      ∃ t, exec cmd s = .next t ∧
        (∃ u, t = settle u ∧ ViewRecomputed { withChoices ch s with
          lines := { s.lines with hold := b }, hold := { s.hold with own := own } } u) ∧
        t.lines = { s.lines with hold := b } ∧ t.hold = { s.hold with own := own, view := view } ∧ SameOutside s t ∧
        (s.hold.view = 0 → view ≠ 0 → ∀ sd,
          (stateOf s sd ∈ [.dark, .listen, .probe, .ramp, .run] →
            stateOf t sd = .hold ∧ (t.side.get sd).reason = .hold ∧ (t.side.get sd).retry = none) ∧
          (stateOf s sd = .stepdown → stateOf t sd = .lockout ∧ (t.side.get sd).reason = .ordered)) ∧
        (s.hold.view = 0 → view ≠ 0 → ch.eastFirst = true ∨ stateOf s .east ∉ [.listen, .probe] →
          RecordsHanded ch (order.flatMap fun sd =>
            if stateOf s sd ∈ [.probe, .ramp, .run] then [tripRecordAt sd .hold (stateOf s sd) t]
            else if stateOf s sd = .stepdown then
              [tripRecordAt sd .ordered .stepdown t, lockedRecord sd .ordered s]
            else []) s t ∧
          NoticesMade (order.flatMap fun sd =>
            if stateOf s sd ∈ [.probe, .ramp, .run] then [⟨112, some sd, .hold, .hold⟩]
            else if stateOf s sd = .stepdown then [⟨114, some sd, .ordered, .lockout⟩]
            else []) s t) ∧
        (s.hold.view ≠ 0 → view = 0 → ∀ sd, stateOf s sd = .hold →
          stateOf t sd = .dark ∧ (t.side.get sd).retry = some (tripRest s)))

/-! ### Side timers -/

/-- R54, R56, R84: the retry timer's expiry, and the move to LISTEN it allows. An expiry of an idle timer has no
effect (log 5). -/
def Obligations.RetryTimerExpiryJudgesListen : Prop :=
  ∀ (sd : Side) (s : State), s.powered = true →
    let may : Prop := stateOf s sd = .dark ∧ (s.ports.get sd).loss = false ∧
      (s.ports.get sd).condition ≠ .withdrawn ∧ (s.ports.get sd).neighbour = false ∧
      s.tab.validated = true ∧ s.hold.view = 0 ∧ s.lines.trip.get sd = false
    ((s.side.get sd).retry = none → exec (.retryTimerExpiry sd) s = .next (settle (begun s))) ∧
    ((s.side.get sd).retry ≠ none → ¬ may →
      exec (.retryTimerExpiry sd) s = .next (settle { begun s with
        side := s.side.set sd { s.side.get sd with retry := none } })) ∧
    ((s.side.get sd).retry ≠ none → may →
      ∃ t, exec (.retryTimerExpiry sd) s = .next t ∧ stateOf t sd = .listen ∧
        (t.side.get sd).retry = none ∧ (t.side.get sd).settle = some (hdrSettle s.tab.tables) ∧
        (t.side.get sd).reason = (s.side.get sd).reason ∧ (t.side.get sd).ready = false ∧
        (t.side.get sd).agree = { (s.side.get sd).agree with
          state := .settling, count := 0, far := none, mismatch := false } ∧
        (t.side.get sd).failures = (s.side.get sd).failures ∧ (t.side.get sd).lock = (s.side.get sd).lock ∧
        t.msg = s.msg ∧ t.lines = s.lines ∧ t.hold = s.hold ∧ SameOutside s t)

/-- R91, R94, R97, R98: the settle timer's expiry, READY, and the move to PROBE with its lighting. An expiry of an idle
timer has no effect (log 5). -/
def Obligations.SettleTimerExpirySetsReady : Prop :=
  ∀ (sd : Side) (s : State), s.powered = true →
    let ready : Prop := stateOf s sd = .listen ∧ (s.side.get sd).agree.state = .settled ∧
      (s.ports.get sd).condition = .clear ∧ s.lines.trip.get sd = false
    ((s.side.get sd).settle = none → exec (.settleTimerExpiry sd) s = .next (settle (begun s))) ∧
    ((s.side.get sd).settle ≠ none → ¬ ready →
      exec (.settleTimerExpiry sd) s = .next (settle { begun s with
        side := s.side.set sd { s.side.get sd with settle := none } })) ∧
    ((s.side.get sd).settle ≠ none → ready → (s.ports.get sd).report = none →
      exec (.settleTimerExpiry sd) s = .next (settle { begun s with
        side := s.side.set sd { s.side.get sd with settle := none, ready := true } })) ∧
    ((s.side.get sd).settle ≠ none → ready →
      ∃ t, exec (.settleTimerExpiry sd) s = .next t ∧ (t.side.get sd).settle = none ∧
        (t.side.get sd).ready = true ∧ stateOf t sd ∈ [.listen, .probe] ∧
        (∀ r, (s.ports.get sd).report = some r →
          (sd = .west → (stateOf t sd = .probe ↔ r.shows .probe = true)) ∧
          (sd = .east → (stateOf t sd = .probe ↔
            r.shows .listen = true ∧ r.ready = true ∧ pacingCount s < hdrLimit s.tab.tables))) ∧
        (stateOf t sd = .probe → (t.side.get sd).probe = some (s.side.get sd).agree.duration.toNat ∧
          ∀ r, (s.ports.get sd).report = some r → ProbeEntered sd r.verified s t) ∧
        (stateOf t sd = .listen → t.pdu = s.pdu) ∧
        t.msg = s.msg ∧ t.lines = s.lines ∧ t.hold = s.hold ∧ SameOutside s t)

/-- R101, R107, R71, R72, R69, R75 to R77, R143: the probe timer expires in PROBE, the step window timer in RAMP: a
trip that is a counted failure, with its trip record, the lock record of a BUDGET lockout and its notice. An expiry of
an idle timer, or in another state, has no effect (log 5). -/
def Obligations.RestartTimeoutIsCountedFailure : Prop :=
  ∀ (ramp : Bool) (sd : Side) (ch : Choices) (s : State), s.powered = true →
    let cmd : Instr := if ramp then .stepWindowExpiry sd ch else .probeTimerExpiry sd ch
    let timer := if ramp then (s.side.get sd).stepWindow else (s.side.get sd).probe
    let cause : Cause := if ramp then .stepTimeout else .probeTimeout
    let list := (s.side.get sd).failures ++ [s.time.uptime]
    (timer = none ∨ stateOf s sd ≠ (if ramp then .ramp else .probe) →
      exec cmd s = .next (settle (withChoices ch s))) ∧
    (timer ≠ none → stateOf s sd = (if ramp then .ramp else .probe) →
      ∃ t, exec cmd s = .next t ∧
        (list.length < hdrBudget s.tab.tables →
          stateOf t sd = (if s.hold.view = 0 then .dark else .hold) ∧
          (t.side.get sd).reason = (if s.hold.view = 0 then cause else .hold) ∧
          (t.side.get sd).retry = (if s.hold.view = 0 then some (restartInterval s) else none) ∧
          (t.side.get sd).lock = (s.side.get sd).lock) ∧
        (hdrBudget s.tab.tables ≤ list.length →
          stateOf t sd = .lockout ∧ (t.side.get sd).reason = .budget ∧ (t.side.get sd).retry = none ∧
          (t.side.get sd).lock =
            { locked := true, reason := .budget, count := (s.side.get sd).lock.count + 1, arming := none }) ∧
        (t.side.get sd).failures = list ∧ (t.side.get sd).probe = none ∧ (t.side.get sd).stepWindow = none ∧
        (t.side.get sd).step = none ∧ (t.side.get sd).ready = false ∧ (t.side.get sd).verified = false ∧
        (t.side.get sd).mismatchRun = 0 ∧
        (∀ n ∈ pumpsUp s.tab sd, driveOf t.pdu n = 0) ∧ t.pdu.stepdown.get sd = none ∧
        TripHandsOn ch [] sd cause (stateOf s sd) s t ∧ t.msg.noticeNumber = s.msg.noticeNumber + 1 ∧
        t.lines = s.lines ∧ t.hold = s.hold ∧ SameOutside s t)

/-- R60, R180: the expiries of the proving timer and of an arming. -/
def Obligations.ProvingAndArmingExpire : Prop :=
  ∀ (sd : Side) (s : State), s.powered = true →
    exec (.provingTimerExpiry sd) s = .next (settle { begun s with
      side := s.side.set sd { s.side.get sd with proving := none } }) ∧
    exec (.armingExpiry sd) s = .next (settle { begun s with
      side := s.side.set sd { s.side.get sd with lock := { (s.side.get sd).lock with arming := none } } })

/-- R73, with the exemption of a side locked out with reason BUDGET (R72): at the uptime second handed to it, a
side removes from the head of its list every stamp older than the window in force (R30). That the uptime second
waits as a mark until the ageing takes it, and that an ageing without one changes nothing, is log 21. -/
def Obligations.FailureListAges : Prop :=
  ∀ (sd : Side) (s : State), s.powered = true →
    let window := if hdrEdition s.tab.tables = 0 then 1440 else hdrWindow s.tab.tables
    let aged := (s.side.get sd).failures.dropWhile fun x => decide (60 * window < s.time.uptime.toNat - x.toNat)
    let rest : State := { begun s with time := { s.time with second := s.time.second.set sd false } }
    (s.time.second.get sd = false → exec (.failureListAgeing sd) s = .next (settle (begun s))) ∧
    (s.time.second.get sd = true → stateOf s sd = .lockout → (s.side.get sd).reason = .budget →
      exec (.failureListAgeing sd) s = .next (settle rest)) ∧
    (s.time.second.get sd = true → ¬ (stateOf s sd = .lockout ∧ (s.side.get sd).reason = .budget) →
      exec (.failureListAgeing sd) s = .next (settle { rest with
        side := s.side.set sd { s.side.get sd with failures := aged } }))

/-! ### Pumps and monitors -/

/-- R69, R114, R115, R127: the immediate cut of a side. -/
def Obligations.ImmediateCutDarkensSide : Prop :=
  ∀ (sd : Side) (s : State),
    immediateCut sd s = { s with pdu := (immediateCut sd s).pdu } ∧
    (∀ n ∈ pumpsUp s.tab sd, driveOf (immediateCut sd s).pdu n = 0) ∧
    (∀ n, driveOf (immediateCut sd s).pdu n = driveOf s.pdu n ∨ driveOf (immediateCut sd s).pdu n = 0) ∧
    (immediateCut sd s).pdu.stepdown = s.pdu.stepdown.set sd none ∧
    (immediateCut sd s).pdu.latch = s.pdu.latch ∧ (immediateCut sd s).pdu.startCut = s.pdu.startCut ∧
    (∀ n m, n ∈ pumpsUp s.tab sd → driveOf s.pdu n ≠ 0 → s.pdu.latch = false → s.pdu.checks.length = 8 →
      (planOf s.tab n).monitor = some m →
      checkOf (immediateCut sd s).pdu n = some
        { monitor := m, offset := offsetOf s.tab m, level := (planOf s.tab n).extinct
          limit := (planOf s.tab n).limit, last := none })

/-- R122, R123, R124, R127, R128: a conversion of the input whose turn it is. The result is stored, running
checks of the input are judged, and the result goes to its consumers: an OUTPUT result is judged against the
ceiling (R65) and then against the ramp step (R104, R106), in the model's order (log 39); an INPUT result feeds
the dark detection, which begins, ends and re-arms DARK-INPUT (R66 to R68). A stepdown step that waits for
checks ends when the last of them passes (R118, R119); a step so waiting is what the first clauses leave out.
The mark `late`, by which the end of a full scan is known to come after a step's beginning, is log 31; the turn of the
inputs and the flag that the conversion of input 7 sets are log 11; that the checks are judged before the consumers is
log 29. -/
def Obligations.ScanResultStoredAndJudged : Prop :=
  ∀ (reading : Word16) (ch : Choices) (s : State), s.powered = true →
    let n := s.scan.next.val
    let raw := clipPower reading.toInt
    let value := clipPower (raw.toInt + (offsetOf s.tab n).toInt)
    let d := s.scan.dark.getD n ⟨false, 0⟩
    let sd := (mapOf s.tab n).side
    let e := spanOf s sd
    let r := s.side.get sd
    let waiting : Side → Prop := fun x => ∃ k l, s.pdu.stepdown.get x = some ⟨k, .checks l⟩
    let taken : Scanner := { s.scan with latest := s.scan.latest.set n value, next := s.scan.next + 1
                                         done := s.scan.done || n == 7 }
    let judged : State := { withChoices ch s with
      scan := taken, pdu := { s.pdu with checks := s.pdu.checks.map (judgeCheck n raw) }
      side := if n = 7 then ⟨{ s.side.west with late := false }, { s.side.east with late := false }⟩ else s.side }
    (∀ c : Check, judgeCheck n raw (some c) =
      if c.monitor = n then
        (if (clipPower (raw.toInt + c.offset.toInt)).toInt < c.level.toInt then none
         else some { c with last := some (clipPower (raw.toInt + c.offset.toInt)) })
      else some c) ∧
    ((∀ x, ¬ waiting x) →
      exec (.monitorScanResult reading ch) s = .next (settle (consumeResult n value judged)) ∧
      (mapped s.tab n = false → consumeResult n value judged = judged)) ∧
    ∃ t, exec (.monitorScanResult reading ch) s = .next t ∧
      ((∀ x, ¬ waiting x) → mapped s.tab n = true → (mapOf s.tab n).output = true →
        (stateOf s sd = .probe → r.agree.probe.toInt + 50 < value.toInt → Trips ch sd .overLevel s t) ∧
        (stateOf s sd ∈ [.ramp, .run] → r.agree.launch.toInt + 50 < value.toInt → Trips ch sd .overLevel s t) ∧
        (stateOf s sd = .probe → value.toInt ≤ r.agree.probe.toInt + 50 → stateOf t sd = .probe) ∧
        (stateOf s sd = .run → value.toInt ≤ r.agree.launch.toInt + 50 → stateOf t sd = .run) ∧
        (∀ k, stateOf s sd = .ramp → value.toInt ≤ r.agree.launch.toInt + 50 → r.stepWindow ≠ none →
          stepPump s sd = some k → (planOf s.tab k).monitor = some n →
          let within : Prop := (planOf s.tab k).expected.toInt - 100 ≤ value.toInt ∧
            value.toInt ≤ (planOf s.tab k).expected.toInt + 100
          let passes : Prop := (planOf s.tab k).check = .free ∨ ((planOf s.tab k).check = .ownOutput ∧ within)
          (passes → StepPassed True ch sd k s t) ∧
          (¬ passes → stateOf t sd = .ramp ∧ (t.side.get sd).armed = true ∧
            (t.side.get sd).step = r.step ∧ (t.side.get sd).stepWindow = r.stepWindow ∧
            t.pdu.drive = s.pdu.drive)) ∧
        (stateOf s sd ∉ [.probe, .ramp, .run] → stateOf t sd = stateOf s sd)) ∧
      ((∀ x, ¬ waiting x) → mapped s.tab n = true → (mapOf s.tab n).output = false →
        (stateOf s sd = .run →
          (d.holding = false → value.toInt < e.dark.toInt → hdrHoldOff s.tab.tables ≤ d.count + 1 →
            DarkInputJudged True ch [] sd s t) ∧
          (d.holding = true → e.light.toInt ≤ value.toInt →
            stateOf t sd = .run ∧ (t.side.get sd).starved = false ∧ (t.side.get sd).rearm = 0) ∧
          (d.holding = true → value.toInt < e.light.toInt → r.starved = true →
            stateOf t sd = .run ∧ (t.side.get sd).starved = true) ∧
          (d.holding = true → value.toInt < e.light.toInt → r.starved = false → rxInput s sd = some n →
            (value.toInt < e.dark.toInt → r.rearm + 1 < hdrHoldOff s.tab.tables →
              stateOf t sd = .run ∧ (t.side.get sd).rearm = r.rearm + 1) ∧
            (value.toInt < e.dark.toInt → hdrHoldOff s.tab.tables ≤ r.rearm + 1 → Trips ch sd .darkInput s t) ∧
            (e.dark.toInt ≤ value.toInt → stateOf t sd = .run ∧ (t.side.get sd).rearm = 0)) ∧
          (d.holding = false → (e.dark.toInt ≤ value.toInt ∨ d.count + 1 < hdrHoldOff s.tab.tables) →
            stateOf t sd = .run)) ∧
        (stateOf s sd ≠ .run → stateOf t sd = stateOf s sd ∧ t.pdu.drive = s.pdu.drive)) ∧
      (∀ x k l, s.pdu.stepdown.get x = some ⟨k, .checks l⟩ → ¬ waiting x.other →
        let left := fun c => judgeCheck n raw (checkOf s.pdu c)
        (stateOf s x = .stepdown → (∃ c ∈ l, c < 8 ∧ checkOf s.pdu c ≠ none ∧ left c = none) →
          (∀ c ∈ l, left c = none) → StepdownStepEnded (mapped s.tab n = false ∨ sd = x) ch x k s t) ∧
        (stateOf s x = .stepdown →
          ((∀ c ∈ l, checkOf s.pdu c = none ∨ left c ≠ none) ∨ (∃ c ∈ l, left c ≠ none)) →
          stateOf t x = .stepdown ∧ (t.side.get x).step = (s.side.get x).step ∧
          t.pdu.stepdown.get x = some ⟨k, .checks l⟩)) ∧
      t.scan.latest = taken.latest ∧ t.scan.next = taken.next ∧ t.scan.done = taken.done ∧
      (mapped s.tab n = false ∨ (mapOf s.tab n).output = true → t.scan.dark = s.scan.dark) ∧
      (mapped s.tab n = true → (mapOf s.tab n).output = false →
        (d.holding = true → value.toInt < e.light.toInt → t.scan.dark = s.scan.dark.set n d) ∧
        (d.holding = true → e.light.toInt ≤ value.toInt → t.scan.dark = s.scan.dark.set n ⟨false, d.count⟩) ∧
        (d.holding = false → e.dark.toInt ≤ value.toInt → t.scan.dark = s.scan.dark.set n ⟨false, 0⟩) ∧
        (d.holding = false → value.toInt < e.dark.toInt → d.count + 1 < hdrHoldOff s.tab.tables →
          t.scan.dark = s.scan.dark.set n ⟨false, d.count + 1⟩) ∧
        (d.holding = false → value.toInt < e.dark.toInt → hdrHoldOff s.tab.tables ≤ d.count + 1 →
          t.scan.dark = s.scan.dark.set n ⟨true, 0⟩)) ∧
      t.ports = s.ports ∧ t.tx = s.tx ∧ t.tab = s.tab ∧ t.hold = s.hold ∧ t.loc = s.loc ∧ t.store = s.store ∧
      t.time = s.time ∧ t.lines = s.lines ∧ t.position = s.position ∧ t.pdu.latch = s.pdu.latch ∧
      t.pdu.startCut = s.pdu.startCut ∧ t.pending = s.pending

/-- R103, R104, R106, R60, R66, R122: a full scan completes; it passes a FREE ramp step whose pump has no
output monitor, where the scan ended after the step began. A scan that ended before (the mark `late`, log 31)
passes nothing, and the next one may. That SCAN_COMPLETE takes a flag of the conversion of input 7, and has no effect
without it, is log 11. -/
def Obligations.FullScanPassesFreeStep : Prop :=
  ∀ (ch : Choices) (s : State), s.powered = true →
    (s.scan.done = false → exec (.scanComplete ch) s = .next (settle (withChoices ch s))) ∧
    (s.scan.done = true → (∀ sd, stateOf s sd ≠ .ramp ∨ (s.side.get sd).late = true) →
      exec (.scanComplete ch) s = .next (settle { withChoices ch s with
        scan := { s.scan with done := false }
        side := ⟨{ s.side.west with late := false }, { s.side.east with late := false }⟩ })) ∧
    (s.scan.done = true →
      ∃ t, exec (.scanComplete ch) s = .next t ∧ t.scan = { s.scan with done := false } ∧
        (∀ sd n, stateOf s sd = .ramp → (s.side.get sd).late = false → (s.side.get sd).stepWindow ≠ none →
          stepPump s sd = some n → (planOf s.tab n).monitor = none → (planOf s.tab n).check = .free →
          StepPassed (stateOf s sd.other ≠ .ramp) ch sd n s t) ∧
        (∀ sd n, stateOf s sd = .ramp →
          ((s.side.get sd).late = true ∨ (s.side.get sd).stepWindow = none ∨ stepPump s sd = none ∨
            (stepPump s sd = some n ∧
              ((planOf s.tab n).monitor ≠ none ∨ (planOf s.tab n).check ≠ .free))) →
          t.side.get sd = { s.side.get sd with late := false }) ∧
        t.ports = s.ports ∧ t.tx = s.tx ∧ t.tab = s.tab ∧ t.hold = s.hold ∧ t.loc = s.loc ∧ t.store = s.store ∧
        t.time = s.time ∧ t.lines = s.lines ∧ t.position = s.position ∧ t.pdu.latch = s.pdu.latch ∧
        t.pending = s.pending)

/-- R129, R130, R78, R75 to R77, R143: the limit timer of a running extinction check expires: the site cut with its
record and notice, and then each side's, in the order of the command. The own output of the site cut record is the
last judged reading, free where none was judged (log 15). Without a running check there is no effect (log 5). -/
def Obligations.ExtinctionFaultCutsSite : Prop :=
  ∀ (n : Fin 8) (ch : Choices) (s : State), s.powered = true →
    (checkOf s.pdu n.val = none → exec (.extinctionFault n ch) s = .next (settle (withChoices ch s))) ∧
    let order : List Side := (if ch.eastFirst then [.east, .west] else [.west, .east]).filter fun sd => !isAbsent s sd
    (checkOf s.pdu n.val ≠ none →
      ∃ t, exec (.extinctionFault n ch) s = .next t ∧ t.pdu.latch = true ∧ cutAsserted t = true ∧
        t.pdu.drive = List.replicate 8 0 ∧ t.pdu.checks = List.replicate 8 none ∧
        t.pdu.stepdown = ⟨none, none⟩ ∧
        (∀ sd, isAbsent s sd = true → t.side.get sd = s.side.get sd) ∧
        (∀ sd, isAbsent s sd = false → stateOf t sd = .lockout ∧ (t.side.get sd).reason = .cut ∧
          (t.side.get sd).failures = (s.side.get sd).failures ∧
          (t.side.get sd).lock =
            { locked := true, reason := .cut, count := (s.side.get sd).lock.count + 1, arming := none }) ∧
        (∃ own, (∀ c v, checkOf s.pdu n.val = some c → c.last = some v → own = v) ∧
          RecordsHanded ch
            (.trip { side := none, cause := .cut, left := none, far := 255, ownInput := minPower, ownOutput := own
                     farInput := minPower, view := s.hold.view } ::
              order.flatMap fun sd =>
                (if (stateOf s sd).lights then [tripRecordAt sd .cut (stateOf s sd) t] else []) ++
                  [lockedRecord sd .cut s]) s t) ∧
        NoticesMade (⟨115, none, .cut, .lockout⟩ :: order.map fun sd => ⟨114, some sd, .cut, .lockout⟩) s t ∧
        t.ports = s.ports ∧ t.tx = s.tx ∧ t.tab = s.tab ∧ t.scan = s.scan ∧ t.hold = s.hold ∧ t.loc = s.loc ∧
        t.store = s.store ∧ t.time = s.time ∧ t.lines = s.lines ∧ t.position = s.position ∧
        t.pending = s.pending)

/-- R118, R119, R120, R176, R75 to R77: the stepdown wait timer expires. An expiry of an idle timer has no effect
(log 5). -/
def Obligations.StepdownWaitEndsStep : Prop :=
  ∀ (sd : Side) (ch : Choices) (s : State), s.powered = true →
    ((∀ n ms, s.pdu.stepdown.get sd ≠ some ⟨n, .timer ms⟩) →
      exec (.stepdownWaitExpiry sd ch) s = .next (settle (withChoices ch s))) ∧
    (∀ n ms, s.pdu.stepdown.get sd = some ⟨n, .timer ms⟩ → stateOf s sd = .stepdown →
      ∃ t, exec (.stepdownWaitExpiry sd ch) s = .next t ∧ StepdownStepEnded True ch sd n s t ∧ SameOutside s t ∧
        t.hold = s.hold ∧ t.lines = s.lines ∧
        (∀ k, (pumpsDown s.tab sd).find? (fun k => decide ((planOf s.tab k).order < (planOf s.tab n).order)) = some k →
          t.msg = s.msg))

/-! ### Store Controller -/

/-- R184, R188, R189, R191, R193: the page timer and the address repeats of a page write under way. A fault at 20 ms
leaves outside the page nothing changed; in the last write of a commit the signature stays 0000, step 1 makes no
signature 5C3A of another, and of a lock record the copy a loader would find stays as it was (log 25). A record is
lost, and the Store Controller goes on with the next one; with none left RECORDING ends and a suspended commit
resumes. -/
def Obligations.PageWriteEndsByAcknowledgement : Prop :=
  ∀ (w : PageWrite) (left : Residue) (ch : Choices) (s : State), s.powered = true → StoreCanonical s →
    currentWrite s.ctl.op = some w → w.done = false →
    let ended : State := { s with
      ctl := { s.ctl with op := mapWrite (fun x => { x with done := true }) s.ctl.op }
      store := Memory.writeOctets s.store w.addr w.data, choices := Choices.default }
    let waits := fun (ms : Nat) => ({ s with
      ctl := { s.ctl with op := mapWrite (fun x => { x with elapsed := ms }) s.ctl.op }
      choices := Choices.default } : State)
    Memory.readOctets ended.store w.addr w.data.length = w.data ∧
    (∀ a, (a < w.addr ∨ w.addr + w.data.length ≤ a) → Memory.read ended.store a = Memory.read s.store a) ∧
    (w.elapsed = 0 → exec (.pageTimerExpiry true) s = .next ended) ∧
    (w.elapsed = 0 → exec (.pageTimerExpiry false) s = .next (waits 5)) ∧
    (5 ≤ w.elapsed → exec (.addressRepeat true left ch) s = .next ended) ∧
    (5 ≤ w.elapsed → w.elapsed < 19 → exec (.addressRepeat false left ch) s = .next (waits (w.elapsed + 1))) ∧
    (19 ≤ w.elapsed →
      ∃ t, exec (.addressRepeat false left ch) s = .next t ∧
        (∀ a, (a < w.addr ∨ w.addr + w.data.length ≤ a) → Memory.read t.store a = Memory.read s.store a) ∧
        (∀ who, s.ctl.op = .committing who 11 w → w.addr = 0 → 2 ≤ w.data.length →
          Memory.read t.store 0 = 0 ∧ Memory.read t.store 1 = 0) ∧
        (∀ who, s.ctl.op = .committing who 0 w → w.addr = 0 → w.data = [0, 0] →
          word16At (Memory.readOctets t.store 0 2) 0 = word16At (Memory.readOctets s.store 0 2) 0 ∨
          word16At (Memory.readOctets t.store 0 2) 0 ≠ 0x5C3A) ∧
        (∀ r sd locked reason count, r.record = .lock sd locked reason count →
          (s.ctl.op = .recording (some r) ∨ ∃ who k, s.ctl.op = .suspended who k (some r)) →
          newestCopy t.store sd = newestCopy s.store sd) ∧
        (∀ who k, s.ctl.op = .committing who k w →
          t = settle (respond 13 who.dest who.tag [10, if k = 0 then 255 else if k = 11 then 0 else natOctet k]
            { withChoices ch s with ctl := { s.ctl with op := .idle, lastFault := true }, store := t.store })) ∧
        (∀ r, s.ctl.op = .recording (some r) ∨ (∃ who k, s.ctl.op = .suspended who k (some r)) →
          ∃ u, RecordsGoOn s.ctl.queue
              { withChoices ch s with ctl := recordLost r.record s.ctl, store := t.store } u ∧ t = settle u) ∧
        (∀ r, s.ctl.op = .recording (some r) →
          (s.ctl.queue = [] → t.msg = s.msg ∧ t.ctl = { recordLost r.record s.ctl with
            op := if s.ctl.draining then .recording none else .idle }) ∧
          (∀ r' q, s.ctl.queue = r' :: q → ch.acks.headD true = true →
            let c := recordLost r.record s.ctl
            t.msg = s.msg ∧ t.ctl = { c with
              op := .recording (some ⟨r', recordWrite { s with ctl := c } r'⟩), queue := q })) ∧
        (∀ who k r, s.ctl.op = .suspended who k (some r) →
          (s.ctl.queue = [] → ch.acks.headD true = true →
            t.msg = s.msg ∧ t.ctl = { recordLost r.record s.ctl with
              op := .committing who k (commitPage s.tab.tables k) }) ∧
          (s.ctl.queue = [] → ch.acks.headD true = false →
            t = settle (respond 13 who.dest who.tag [10, if k = 0 then 255 else if k = 11 then 0 else natOctet k]
              { withChoices { ch with acks := ch.acks.tail } s with
                ctl := { recordLost r.record s.ctl with op := .idle }, store := t.store })) ∧
          (∀ r' q, s.ctl.queue = r' :: q → ch.acks.headD true = true →
            let c := recordLost r.record s.ctl
            t.msg = s.msg ∧ t.ctl = { c with
              op := .suspended who k (some ⟨r', recordWrite { s with ctl := c } r'⟩), queue := q })) ∧
        t.side = s.side ∧ t.pdu = s.pdu ∧ t.tab = s.tab ∧ t.ports = s.ports ∧ t.tx = s.tx ∧ t.scan = s.scan ∧
        t.hold = s.hold ∧ t.loc = s.loc ∧ t.lines = s.lines ∧ t.time = s.time)

/-- R185, R184: the reads of a loader run before its last, each followed by an acknowledged access. -/
def Obligations.LoaderReadsAdvance : Prop :=
  ∀ (origin : LoaderOrigin) (v : LoaderResult) (ch : Choices) (s : State), s.powered = true →
    ch.acks.headD true = true →
    let h := Memory.readOctets s.store 0 8
    let go := fun (st : LoaderStep) (r : LoaderResult) => Host.Outcome.next ({ s with
      ctl := { s.ctl with op := .loading origin st r }, choices := Choices.default } : State)
    (s.ctl.op = .loading origin .header v →
      (word16At h 0 = 0 → exec (.loaderReadComplete ch) s = go .lockArea .incomplete) ∧
      (word16At h 0 ≠ 0 → word16At h 0 ≠ 0x5C3A → exec (.loaderReadComplete ch) s = go .lockArea .blank) ∧
      (word16At h 0 = 0x5C3A → 692 < (word16At h 4).toNat →
        exec (.loaderReadComplete ch) s = go .lockArea .oversize) ∧
      (word16At h 0 = 0x5C3A → (word16At h 4).toNat < 692 →
        exec (.loaderReadComplete ch) s = go .lockArea .corrupt) ∧
      (word16At h 0 = 0x5C3A → (word16At h 4).toNat = 692 →
        exec (.loaderReadComplete ch) s = go .image .noneYet)) ∧
    (s.ctl.op = .loading origin .image v →
      exec (.loaderReadComplete ch) s = go .lockArea
        (if imageChecksum (word16At h 2) (storedTables s.store) = word16At h 6 then .loaded else .corrupt)) ∧
    (s.ctl.op = .loading origin .lockArea v → exec (.loaderReadComplete ch) s = go .log v)

/-- R185, R186, R187, R182, R183, R27, R43, R44, R46, R51, R72, R77, R79, R80, R131, R184, R190: the end of a loader
run in its five steps, where its last read completes, and where a read before it cannot begin: a store fault, ABSENT.
A run of a STORE-RELOAD is answered. A side in LOCKOUT stays there; every other side is UNCONFIGURED, an ABSENT one too
(log 22), or LOCKOUT with reason CUT under the latch (R79), until a validation moves it. Stated under R28's laws, by
which the flag is clear while LOADING and no side is active. The lock records that the run queues, that of a released
CUT lock among them, stand in the order of the steps, and their writing begins as the run ends.
The next running number after 4294967295 is 1 (log 33). A fault at step 4 leaves unused the lock area that step 3 had
read, so that its records are not applied and neither copy is noted: the model's choice (log 45). -/
def Obligations.LoaderRunEndHandsOnResults : Prop :=
  ∀ (origin : LoaderOrigin) (v : LoaderResult) (ch : Choices) (s : State), s.powered = true → TablesLaw s → FlagLaw s →
    let image := storedTables s.store
    let passes : Prop := v = .loaded ∧ runChecks (pos s) image = none
    let working := fun (sd : Side) => (s.side.get sd).lock
    let stored := fun (sd : Side) =>
      if origin = .powerUp ∧ (working sd).locked = false then
        match newestCopy s.store sd with
        | none => LockRecord.reset
        | some c => recordFromCopy c.2
      else working sd
    let forced : Side → Prop := fun sd =>
      s.pdu.latch = true ∧ stateOf s sd ∉ [.lockout, .unconfigured]
    let newLength : Option Nat :=
      if v = .loaded ∧ runChecks (pos s) image = none then some (hdrLength image) else none
    let answered := fun (r : LoaderResult) (t : State) =>
      ∀ who, origin = .reload who → ∃ u, t = settle (respond 14 who.dest who.tag
          ([if r = .absent then 10 else 0, loaderOctet r] ++
            (match t.tab.loadCheck with | none => [0, 0, 0] | some f => [f.table, f.index, f.code])) u) ∧
        ((r = .loaded → ¬ passes) → (∀ sd, ¬ forced sd) → u.msg = s.msg)
    (∀ l, recordFromCopy l =
      { locked := octetAt l 2 != 0 && octetAt l 3 != 16
        reason := if octetAt l 2 = 0 ∨ octetAt l 3 ∈ [13, 14, 15, 16] then causeOf (octetAt l 3) else .manual
        count := word16At l 4, arming := none }) ∧
    (∀ st, s.ctl.op = .loading origin st v → st ≠ .log → ch.acks.headD true = false →
      ∃ t, exec (.loaderReadComplete ch) s = .next t ∧
        t.ctl.result = .absent ∧ t.ctl.op.isLoading = false ∧ t.pdu.startCut = false ∧
        RunEndQueued (ch.acks.tail.headD true) (runEndRecords ch origin (fun _ => none) working none s) s t ∧
        t.tab = { tables := Tables.emptied, validated := false, loadCheck := none } ∧ answered .absent t ∧
        (∀ sd, (t.side.get sd).failures = []) ∧
        (∀ sd, forced sd → stateOf t sd = .lockout ∧ (t.side.get sd).reason = .cut) ∧
        (∀ sd, isAbsent s sd = true → t.ports.get sd = PortRecord.reset ∧ t.hold.sets.get sd = 0) ∧
        (∀ sd, ¬ forced sd →
          stateOf t sd = (if stateOf s sd = .lockout then .lockout else .unconfigured) ∧
          (t.side.get sd).lock =
            if origin = .powerUp ∧ (working sd).locked = false then LockRecord.reset else working sd) ∧
        (ch.acks = [false] → t.ctl.lastFault = true ∧ t.ctl.notes = ⟨none, none⟩ ∧ t.ctl.nextSlot = 0 ∧
          t.ctl.nextNumber = 1) ∧
        t.store = s.store ∧ t.position = s.position ∧ t.time = s.time ∧ t.lines = s.lines ∧
        t.pdu.latch = s.pdu.latch ∧ t.pending = s.pending) ∧
    (s.ctl.op = .loading origin .log v → ∃ t, exec (.loaderReadComplete ch) s = .next t ∧ answered v t ∧
      t.ctl.result = v ∧ t.ctl.op.isLoading = false ∧ t.pdu.startCut = false ∧
      RunEndQueued (ch.acks.headD true) (runEndRecords ch origin (newestCopy s.store) stored newLength s) s t ∧
      (∀ sd, stateOf s sd = .lockout → (passes → absentUnder (pos s) (hdrLength image) sd = false) →
        stateOf t sd = .lockout ∧ (t.side.get sd).reason = (s.side.get sd).reason ∧
        (t.side.get sd).lock = stored sd) ∧
      (∀ sd, forced sd → (passes → absentUnder (pos s) (hdrLength image) sd = false) →
        stateOf t sd = .lockout ∧ (t.side.get sd).reason = .cut ∧
        (t.side.get sd).lock = { locked := true, reason := .cut, count := (working sd).count + 1, arming := none }) ∧
      (∀ sd, isAbsent s sd = true → t.ports.get sd = PortRecord.reset ∧ t.hold.sets.get sd = 0) ∧
      (∀ sd, ¬ passes → stateOf s sd ≠ .lockout → ¬ forced sd →
        stateOf t sd = .unconfigured ∧
        (stateOf s sd = .unconfigured → (t.side.get sd).reason = (s.side.get sd).reason) ∧
        (t.side.get sd).lock = stored sd) ∧
      (∀ sd, passes → absentUnder (pos s) (hdrLength image) sd = false → stateOf s sd ≠ .lockout → ¬ forced sd →
        Configured sd (stored sd) s t) ∧
      (∀ sd, passes → absentUnder (pos s) (hdrLength image) sd = true → stateOf t sd = .absent) ∧
      (v ≠ .loaded →
        t.tab = { tables := Tables.emptied, validated := false, loadCheck := none } ∧
        ∀ sd, (t.side.get sd).failures = []) ∧
      (v = .loaded →
        t.tab =
          { tables := image, validated := (runChecks (pos s) image).isNone, loadCheck := runChecks (pos s) image }) ∧
      (v = .loaded → ∀ sd, (passes → absentUnder (pos s) (hdrLength image) sd = false) →
        (t.side.get sd).failures =
          if stateOf s sd = .lockout ∧ (s.side.get sd).reason = .budget then (s.side.get sd).failures
          else (s.side.get sd).failures.drop ((s.side.get sd).failures.length - (hdrBudget image - 1))) ∧
      (ch.acks = [] →
        t.ctl.lastFault = decide (v = .absent) ∧
        t.ctl.notes = ⟨copyNote s.store .west, copyNote s.store .east⟩ ∧
        (highestNumber s.store = 0 → t.ctl.nextSlot = 0 ∧ t.ctl.nextNumber = 1) ∧
        (∀ k, highestNumber s.store ≠ 0 → highestSlots s.store = [k] →
          t.ctl.nextSlot = (k + 1) % 64 ∧
          t.ctl.nextNumber = if highestNumber s.store = 4294967295 then 1
            else BitVec.ofNat 32 (highestNumber s.store + 1))) ∧
      t.store = s.store ∧ t.position = s.position ∧ t.time = s.time ∧ t.lines = s.lines ∧
      t.pdu.latch = s.pdu.latch ∧ t.pending = s.pending)

/-- R188, R189, R183, R191, R192, R193: the twelve page writes of a commit, composed from the working tables in the
layout of section 9.1, and the image they make, which a loader run reads back as LOADED with those tables (R185) and,
before the last of them, as INCOMPLETE; the completed form of a record, and where it is written; a commit's page
write, a record's write and the read of a LOG-READ complete; a read that a route reset met is then abandoned without
a response, and the records drain. -/
def Obligations.StoreOperationsComplete : Prop :=
  (∀ t : Tables,
    let body := t.header ++ t.spans.flatten ++ t.pumps.flatten ++ t.monitors.flatten ++ t.accepts.flatten ++ t.site
    let fields := octets16 (word16At t.header 0) ++ [0x02, 0xB4]
    let image := [0x5C, 0x3A] ++ fields ++ octets16 (crc16 (fields ++ body)) ++ body ++ List.replicate 12 0
    let page := fun (addr : Nat) (data : List Octet) => { addr := addr, data := data, elapsed := 0, done := false }
    commitPage t 0 = page 0 [0, 0] ∧
    (∀ k, 1 ≤ k → k ≤ 10 → commitPage t k = page (64 * k) ((image.drop (64 * k)).take 64)) ∧
    commitPage t 11 = page 0 (image.take 64) ∧
    (TablesShaped t → image.length = 704) ∧
    ∀ m : Memory, Memory.wf m = true → TablesShaped t →
      let stored := fun (n : Nat) => (List.range n).foldl
        (fun m k => Memory.writeOctets m (commitPage t k).addr (commitPage t k).data) m
      (∀ n, 1 ≤ n → n ≤ 11 → word16At (Memory.readOctets (stored n) 0 8) 0 = 0) ∧
      Memory.readOctets (stored 12) 0 704 = image ∧
      (∀ a, 704 ≤ a → Memory.read (stored 12) a = Memory.read m a) ∧
      storedTables (stored 12) = t ∧
      ∀ (origin : LoaderOrigin) (v : LoaderResult) (ch : Choices) (s : State), s.powered = true →
        ch.acks.headD true = true → s.store = stored 12 →
        let reads := fun (step : LoaderStep) (r : LoaderResult) => Host.Outcome.next ({ s with
          ctl := { s.ctl with op := .loading origin step r }, choices := Choices.default } : State)
        (s.ctl.op = .loading origin .header v → exec (.loaderReadComplete ch) s = reads .image .noneYet) ∧
        (s.ctl.op = .loading origin .image v → exec (.loaderReadComplete ch) s = reads .lockArea .loaded)) ∧
  (∀ (r : TripRecord) (s : State),
    let w := recordWrite s (.trip r)
    let body :=
      octets32 s.ctl.nextNumber ++ octets32 s.time.uptime ++
        [match r.side with | none => 255 | some .west => 0 | some .east => 1,
         match r.side with | none => 0 | some .west => natOctet (pos s) | some .east => natOctet (pos s + 1),
         causeCode r.cause, match r.left with | none => 0 | some st => st.code, r.far] ++
        octets16 r.ownInput ++ octets16 r.ownOutput ++ octets16 r.farInput ++ octets32 r.view ++
        octets16 (hdrEdition s.tab.tables) ++ [0, 0, 0, 0, 0, 0]
    w.addr = 0x300 + 32 * s.ctl.nextSlot ∧ w.elapsed = 0 ∧ w.done = false ∧ w.data.length = 32 ∧
      (∃ check, w.data = body ++ [check]) ∧ octetSum w.data = 255 ∧
      ∀ c : StoreCtl, completeRecord (.trip r) c = { c with
        nextSlot := (c.nextSlot + 1) % 64
        nextNumber := if c.nextNumber = 4294967295 then 1 else c.nextNumber + 1
        lastFault := false }) ∧
  (∀ (sd : Side) (locked : Bool) (reason : Cause) (count : Word16) (s : State),
    let w := recordWrite s (.lock sd locked reason count)
    let target := fun c : StoreCtl => match c.notes.get sd with
      | none => (⟨false, 0⟩ : LockNote)
      | some n => ⟨!n.copyB, n.generation + 1⟩
    w.addr = 0x2C0 + (match sd with | .west => 0 | .east => 16) + (if (target s.ctl).copyB then 8 else 0) ∧
      w.elapsed = 0 ∧ w.done = false ∧ w.data.length = 8 ∧
      (∃ check, w.data = [(target s.ctl).generation, match sd with | .west => 0 | .east => 1,
        if locked then 1 else 0, causeCode reason] ++ octets16 count ++ [0, check]) ∧ octetSum w.data = 255 ∧
      ∀ c : StoreCtl, completeRecord (.lock sd locked reason count) c = { c with
        notes := c.notes.set sd (some (target c)), lastFault := false }) ∧
  ∀ (ch : Choices) (s : State), s.powered = true →
    (∀ who k w, s.ctl.op = .committing who k w → w.done = true →
      (k < 11 → (hdrSuspend s.tab.tables = false ∨ s.ctl.queue = []) → ch.acks.headD true = true →
        exec (.commitPageComplete ch) s = .next { s with
          ctl := { s.ctl with op := .committing who (k + 1) (commitPage s.tab.tables (k + 1)) }
          choices := Choices.default }) ∧
      (k < 11 → (hdrSuspend s.tab.tables = false ∨ s.ctl.queue = []) → ch.acks.headD true = false →
        exec (.commitPageComplete ch) s = .next (settle (respond 13 who.dest who.tag
          [10, if k = 10 then 0 else natOctet (k + 1)]
          { withChoices { ch with acks := ch.acks.tail } s with
            ctl := { s.ctl with op := .idle, lastFault := true } }))) ∧
      (∀ r q, k < 11 → hdrSuspend s.tab.tables = true → s.ctl.queue = r :: q → ch.acks.headD true = true →
        exec (.commitPageComplete ch) s = .next { s with
          ctl := { s.ctl with op := .suspended who (k + 1) (some ⟨r, recordWrite s r⟩), queue := q }
          choices := Choices.default }) ∧
      (k < 11 → hdrSuspend s.tab.tables = true → s.ctl.queue ≠ [] →
        ∃ u, RecordsGoOn s.ctl.queue
            { withChoices ch s with ctl := { s.ctl with op := .suspended who (k + 1) none } } u ∧
          exec (.commitPageComplete ch) s = .next (settle u)) ∧
      (k = 11 → exec (.commitPageComplete ch) s = .next (settle (respond 13 who.dest who.tag
        ([0] ++ octets16 (hdrEdition s.tab.tables))
        { withChoices ch s with ctl := { s.ctl with op := .idle, lastFault := false } })))) ∧
    (∀ r, s.ctl.op = .recording (some r) ∨ (∃ who k, s.ctl.op = .suspended who k (some r)) → r.write.done = true →
      ∃ u, RecordsGoOn s.ctl.queue { withChoices ch s with ctl := completeRecord r.record s.ctl } u ∧
        exec (.recordWriteComplete ch) s = .next (settle u)) ∧
    (∀ r, s.ctl.op = .recording (some r) → r.write.done = true →
      (s.ctl.queue = [] → exec (.recordWriteComplete ch) s = .next { s with
        ctl := { completeRecord r.record s.ctl with op := if s.ctl.draining then .recording none else .idle }
        choices := Choices.default }) ∧
      (∀ r' q, s.ctl.queue = r' :: q → ch.acks.headD true = true →
        let c := completeRecord r.record s.ctl
        exec (.recordWriteComplete ch) s = .next { s with
          ctl := { c with op := .recording (some ⟨r', recordWrite { s with ctl := c } r'⟩), queue := q }
          choices := Choices.default })) ∧
    (∀ who k r, s.ctl.op = .suspended who k (some r) → r.write.done = true → ch.acks.headD true = true →
      (s.ctl.queue = [] → exec (.recordWriteComplete ch) s = .next { s with
        ctl := { completeRecord r.record s.ctl with op := .committing who k (commitPage s.tab.tables k) }
        choices := Choices.default }) ∧
      (∀ r' q, s.ctl.queue = r' :: q →
        let c := completeRecord r.record s.ctl
        exec (.recordWriteComplete ch) s = .next { s with
          ctl := { c with op := .suspended who k (some ⟨r', recordWrite { s with ctl := c } r'⟩), queue := q }
          choices := Choices.default })) ∧
    (∀ who n part, s.ctl.op = .reading who n part →
      let l := Memory.readOctets s.store (0x300 + 32 * ((s.ctl.nextSlot + 64 - (n + 1)) % 64)) 32
      (s.ctl.draining = true → exec (.logReadComplete ch) s = .next (settle { withChoices ch s with
        ctl := { s.ctl with op := .recording none, lastFault := false } })) ∧
      (s.ctl.draining = false → exec (.logReadComplete ch) s = .next (settle (respond 15 who.dest who.tag
        (if tripRecordValid l then
          [0, natOctet n, natOctet part] ++ octets32 (word32At l 0) ++ ((l.drop (16 * part)).take 16)
         else [3])
        { withChoices ch s with ctl := { s.ctl with op := .idle, lastFault := false } }))))

/-! ### Laws that every step keeps -/

/-- Every step keeps the store's list in its canonical form. -/
def Obligations.StoreCanonicalKept : Prop :=
  ∀ s t : State, StoreCanonical s → step s = .next t → StoreCanonical t

/-- R130: every step keeps the law that under the master cut latch every side is in LOCKOUT or ABSENT. -/
def Obligations.LatchLawKept : Prop :=
  ∀ s t : State, LatchLaw s → step s = .next t → LatchLaw t

/-- R8: every step keeps the law of scores and conditions at both ports. -/
def Obligations.ScoreLawKept : Prop :=
  ∀ s t : State, ScoreLaw s → step s = .next t → ScoreLaw t

/-- R140: every step keeps the law that under an obeyed hold no side is active. -/
def Obligations.HoldLawKept : Prop :=
  ∀ s t : State, HoldLaw s → step s = .next t → HoldLaw t

/-- R28, R72, R114, R115, R116: the laws of the device about sides that are active, pumps that are lit and failures
that are counted. Every step keeps the law that a channel above zero is a pump in force of a side in RAMP, RUN or
STEPDOWN, or a probe-lit pump of one in PROBE. Every step keeps the law that no side is active under clear tables;
after a route reset it does so because the reset has taken every side out of the active states (R28) before the
loader clears the flag. Under the law that the flag stands over tables that pass the checks, and that no side is
active without it, every step keeps the failure lists below the budget, and, with the law of lit pumps, no pump
above zero while its prerequisite is dark and none above its drive. A step whose command is well formed keeps the
working tables in the shape of section 2.1, which the image of a commit rests on (R188). -/
def Obligations.ActiveSideLawsKept : Prop :=
  ∀ s t : State, step s = .next t →
    (PumpLaw s → PumpLaw t) ∧
    (FlagLaw s → (s.ctl.draining = true → ∀ sd, (stateOf s sd).active = false) → FlagLaw t) ∧
    (TablesLaw s → TablesLaw t) ∧
    (TablesLaw s → FlagLaw s → FailureLaw s → FailureLaw t) ∧
    (TablesLaw s → FlagLaw s → PumpLaw s → (PrereqLaw s → PrereqLaw t) ∧ (LevelLaw s → LevelLaw t)) ∧
    (TablesShaped s.tab.tables → (∀ c rest, s.pending = c :: rest → c.wf = true) → TablesShaped t.tab.tables)

/-- The laws hold in the reset state. -/
def Obligations.LawsHoldAtReset : Prop :=
  StoreCanonical State.reset ∧ LatchLaw State.reset ∧ ScoreLaw State.reset ∧ HoldLaw State.reset ∧
    FlagLaw State.reset ∧ PumpLaw State.reset ∧ TablesLaw State.reset ∧ FailureLaw State.reset ∧
    PrereqLaw State.reset ∧ LevelLaw State.reset ∧ RecordQueueLaw State.reset.ctl ∧
    TablesShaped State.reset.tab.tables ∧
    ∀ sd, QueueLaw (State.reset.msg.out.get sd)
end

