-- ==== Sys2Proof/Laws/State.lean ====
section
/-! SUPPORT. What each named update of State leaves in each field, and pairs indexed by side. -/

namespace Sys2Proof.Machine

@[simp] theorem Side.other_other (sd : Side) : sd.other.other = sd := by cases sd <;> rfl
@[simp] theorem Side.other_ne (sd : Side) : sd.other ≠ sd := by cases sd <;> decide
@[simp] theorem Side.ne_other (sd : Side) : sd ≠ sd.other := by cases sd <;> decide

@[simp] theorem Sides.get_set {α : Type} (p : Sides α) (sd : Side) (a : α) : (p.set sd a).get sd = a := by
  cases sd <;> rfl

@[simp] theorem Sides.get_set_other {α : Type} (p : Sides α) (sd : Side) (a : α) :
    (p.set sd a).get sd.other = p.get sd.other := by
  cases sd <;> rfl

@[simp] theorem Sides.get_other_set {α : Type} (p : Sides α) (sd : Side) (a : α) :
    (p.set sd.other a).get sd = p.get sd := by
  cases sd <;> rfl

theorem Sides.get_set_ne {α : Type} (p : Sides α) (sd x : Side) (a : α) (h : x ≠ sd) :
    (p.set sd a).get x = p.get x := by
  cases sd <;> cases x <;> first | rfl | exact absurd rfl h

@[simp] theorem Sides.set_get {α : Type} (p : Sides α) (sd : Side) : p.set sd (p.get sd) = p := by
  cases sd <;> rfl

@[simp] theorem Sides.get_west {α : Type} (p : Sides α) : p.get .west = p.west := rfl
@[simp] theorem Sides.get_east {α : Type} (p : Sides α) : p.get .east = p.east := rfl

@[simp] theorem setSide_powered (sd : Side) (r : SideRecord) (s : State) : (setSide sd r s).powered = s.powered := rfl
@[simp] theorem setSide_position (sd : Side) (r : SideRecord) (s : State) : (setSide sd r s).position = s.position := rfl
@[simp] theorem setSide_time (sd : Side) (r : SideRecord) (s : State) : (setSide sd r s).time = s.time := rfl
@[simp] theorem setSide_lines (sd : Side) (r : SideRecord) (s : State) : (setSide sd r s).lines = s.lines := rfl
@[simp] theorem setSide_ports (sd : Side) (r : SideRecord) (s : State) : (setSide sd r s).ports = s.ports := rfl
@[simp] theorem setSide_tx (sd : Side) (r : SideRecord) (s : State) : (setSide sd r s).tx = s.tx := rfl
@[simp] theorem setSide_tab (sd : Side) (r : SideRecord) (s : State) : (setSide sd r s).tab = s.tab := rfl
@[simp] theorem setSide_side (sd : Side) (r : SideRecord) (s : State) : (setSide sd r s).side = s.side.set sd r := rfl
@[simp] theorem setSide_pdu (sd : Side) (r : SideRecord) (s : State) : (setSide sd r s).pdu = s.pdu := rfl
@[simp] theorem setSide_scan (sd : Side) (r : SideRecord) (s : State) : (setSide sd r s).scan = s.scan := rfl
@[simp] theorem setSide_hold (sd : Side) (r : SideRecord) (s : State) : (setSide sd r s).hold = s.hold := rfl
@[simp] theorem setSide_msg (sd : Side) (r : SideRecord) (s : State) : (setSide sd r s).msg = s.msg := rfl
@[simp] theorem setSide_loc (sd : Side) (r : SideRecord) (s : State) : (setSide sd r s).loc = s.loc := rfl
@[simp] theorem setSide_ctl (sd : Side) (r : SideRecord) (s : State) : (setSide sd r s).ctl = s.ctl := rfl
@[simp] theorem setSide_store (sd : Side) (r : SideRecord) (s : State) : (setSide sd r s).store = s.store := rfl
@[simp] theorem setSide_choices (sd : Side) (r : SideRecord) (s : State) : (setSide sd r s).choices = s.choices := rfl
@[simp] theorem setSide_free (sd : Side) (r : SideRecord) (s : State) : (setSide sd r s).free = s.free := rfl
@[simp] theorem setSide_pending (sd : Side) (r : SideRecord) (s : State) : (setSide sd r s).pending = s.pending := rfl

@[simp] theorem modSide_powered (sd : Side) (f : SideRecord → SideRecord) (s : State) : (modSide sd f s).powered = s.powered := rfl
@[simp] theorem modSide_position (sd : Side) (f : SideRecord → SideRecord) (s : State) : (modSide sd f s).position = s.position := rfl
@[simp] theorem modSide_time (sd : Side) (f : SideRecord → SideRecord) (s : State) : (modSide sd f s).time = s.time := rfl
@[simp] theorem modSide_lines (sd : Side) (f : SideRecord → SideRecord) (s : State) : (modSide sd f s).lines = s.lines := rfl
@[simp] theorem modSide_ports (sd : Side) (f : SideRecord → SideRecord) (s : State) : (modSide sd f s).ports = s.ports := rfl
@[simp] theorem modSide_tx (sd : Side) (f : SideRecord → SideRecord) (s : State) : (modSide sd f s).tx = s.tx := rfl
@[simp] theorem modSide_tab (sd : Side) (f : SideRecord → SideRecord) (s : State) : (modSide sd f s).tab = s.tab := rfl
@[simp] theorem modSide_side (sd : Side) (f : SideRecord → SideRecord) (s : State) : (modSide sd f s).side = s.side.set sd (f (s.side.get sd)) := rfl
@[simp] theorem modSide_pdu (sd : Side) (f : SideRecord → SideRecord) (s : State) : (modSide sd f s).pdu = s.pdu := rfl
@[simp] theorem modSide_scan (sd : Side) (f : SideRecord → SideRecord) (s : State) : (modSide sd f s).scan = s.scan := rfl
@[simp] theorem modSide_hold (sd : Side) (f : SideRecord → SideRecord) (s : State) : (modSide sd f s).hold = s.hold := rfl
@[simp] theorem modSide_msg (sd : Side) (f : SideRecord → SideRecord) (s : State) : (modSide sd f s).msg = s.msg := rfl
@[simp] theorem modSide_loc (sd : Side) (f : SideRecord → SideRecord) (s : State) : (modSide sd f s).loc = s.loc := rfl
@[simp] theorem modSide_ctl (sd : Side) (f : SideRecord → SideRecord) (s : State) : (modSide sd f s).ctl = s.ctl := rfl
@[simp] theorem modSide_store (sd : Side) (f : SideRecord → SideRecord) (s : State) : (modSide sd f s).store = s.store := rfl
@[simp] theorem modSide_choices (sd : Side) (f : SideRecord → SideRecord) (s : State) : (modSide sd f s).choices = s.choices := rfl
@[simp] theorem modSide_free (sd : Side) (f : SideRecord → SideRecord) (s : State) : (modSide sd f s).free = s.free := rfl
@[simp] theorem modSide_pending (sd : Side) (f : SideRecord → SideRecord) (s : State) : (modSide sd f s).pending = s.pending := rfl

@[simp] theorem modTx_powered (sd : Side) (f : Transmitter → Transmitter) (s : State) : (modTx sd f s).powered = s.powered := rfl
@[simp] theorem modTx_position (sd : Side) (f : Transmitter → Transmitter) (s : State) : (modTx sd f s).position = s.position := rfl
@[simp] theorem modTx_time (sd : Side) (f : Transmitter → Transmitter) (s : State) : (modTx sd f s).time = s.time := rfl
@[simp] theorem modTx_lines (sd : Side) (f : Transmitter → Transmitter) (s : State) : (modTx sd f s).lines = s.lines := rfl
@[simp] theorem modTx_ports (sd : Side) (f : Transmitter → Transmitter) (s : State) : (modTx sd f s).ports = s.ports := rfl
@[simp] theorem modTx_tx (sd : Side) (f : Transmitter → Transmitter) (s : State) : (modTx sd f s).tx = s.tx.set sd (f (s.tx.get sd)) := rfl
@[simp] theorem modTx_tab (sd : Side) (f : Transmitter → Transmitter) (s : State) : (modTx sd f s).tab = s.tab := rfl
@[simp] theorem modTx_side (sd : Side) (f : Transmitter → Transmitter) (s : State) : (modTx sd f s).side = s.side := rfl
@[simp] theorem modTx_pdu (sd : Side) (f : Transmitter → Transmitter) (s : State) : (modTx sd f s).pdu = s.pdu := rfl
@[simp] theorem modTx_scan (sd : Side) (f : Transmitter → Transmitter) (s : State) : (modTx sd f s).scan = s.scan := rfl
@[simp] theorem modTx_hold (sd : Side) (f : Transmitter → Transmitter) (s : State) : (modTx sd f s).hold = s.hold := rfl
@[simp] theorem modTx_msg (sd : Side) (f : Transmitter → Transmitter) (s : State) : (modTx sd f s).msg = s.msg := rfl
@[simp] theorem modTx_loc (sd : Side) (f : Transmitter → Transmitter) (s : State) : (modTx sd f s).loc = s.loc := rfl
@[simp] theorem modTx_ctl (sd : Side) (f : Transmitter → Transmitter) (s : State) : (modTx sd f s).ctl = s.ctl := rfl
@[simp] theorem modTx_store (sd : Side) (f : Transmitter → Transmitter) (s : State) : (modTx sd f s).store = s.store := rfl
@[simp] theorem modTx_choices (sd : Side) (f : Transmitter → Transmitter) (s : State) : (modTx sd f s).choices = s.choices := rfl
@[simp] theorem modTx_free (sd : Side) (f : Transmitter → Transmitter) (s : State) : (modTx sd f s).free = s.free := rfl
@[simp] theorem modTx_pending (sd : Side) (f : Transmitter → Transmitter) (s : State) : (modTx sd f s).pending = s.pending := rfl

@[simp] theorem onPdu_powered (f : PumpUnit → PumpUnit) (s : State) : (onPdu f s).powered = s.powered := rfl
@[simp] theorem onPdu_position (f : PumpUnit → PumpUnit) (s : State) : (onPdu f s).position = s.position := rfl
@[simp] theorem onPdu_time (f : PumpUnit → PumpUnit) (s : State) : (onPdu f s).time = s.time := rfl
@[simp] theorem onPdu_lines (f : PumpUnit → PumpUnit) (s : State) : (onPdu f s).lines = s.lines := rfl
@[simp] theorem onPdu_ports (f : PumpUnit → PumpUnit) (s : State) : (onPdu f s).ports = s.ports := rfl
@[simp] theorem onPdu_tx (f : PumpUnit → PumpUnit) (s : State) : (onPdu f s).tx = s.tx := rfl
@[simp] theorem onPdu_tab (f : PumpUnit → PumpUnit) (s : State) : (onPdu f s).tab = s.tab := rfl
@[simp] theorem onPdu_side (f : PumpUnit → PumpUnit) (s : State) : (onPdu f s).side = s.side := rfl
@[simp] theorem onPdu_pdu (f : PumpUnit → PumpUnit) (s : State) : (onPdu f s).pdu = f s.pdu := rfl
@[simp] theorem onPdu_scan (f : PumpUnit → PumpUnit) (s : State) : (onPdu f s).scan = s.scan := rfl
@[simp] theorem onPdu_hold (f : PumpUnit → PumpUnit) (s : State) : (onPdu f s).hold = s.hold := rfl
@[simp] theorem onPdu_msg (f : PumpUnit → PumpUnit) (s : State) : (onPdu f s).msg = s.msg := rfl
@[simp] theorem onPdu_loc (f : PumpUnit → PumpUnit) (s : State) : (onPdu f s).loc = s.loc := rfl
@[simp] theorem onPdu_ctl (f : PumpUnit → PumpUnit) (s : State) : (onPdu f s).ctl = s.ctl := rfl
@[simp] theorem onPdu_store (f : PumpUnit → PumpUnit) (s : State) : (onPdu f s).store = s.store := rfl
@[simp] theorem onPdu_choices (f : PumpUnit → PumpUnit) (s : State) : (onPdu f s).choices = s.choices := rfl
@[simp] theorem onPdu_free (f : PumpUnit → PumpUnit) (s : State) : (onPdu f s).free = s.free := rfl
@[simp] theorem onPdu_pending (f : PumpUnit → PumpUnit) (s : State) : (onPdu f s).pending = s.pending := rfl

@[simp] theorem onMsg_powered (f : MsgEngine → MsgEngine) (s : State) : (onMsg f s).powered = s.powered := rfl
@[simp] theorem onMsg_position (f : MsgEngine → MsgEngine) (s : State) : (onMsg f s).position = s.position := rfl
@[simp] theorem onMsg_time (f : MsgEngine → MsgEngine) (s : State) : (onMsg f s).time = s.time := rfl
@[simp] theorem onMsg_lines (f : MsgEngine → MsgEngine) (s : State) : (onMsg f s).lines = s.lines := rfl
@[simp] theorem onMsg_ports (f : MsgEngine → MsgEngine) (s : State) : (onMsg f s).ports = s.ports := rfl
@[simp] theorem onMsg_tx (f : MsgEngine → MsgEngine) (s : State) : (onMsg f s).tx = s.tx := rfl
@[simp] theorem onMsg_tab (f : MsgEngine → MsgEngine) (s : State) : (onMsg f s).tab = s.tab := rfl
@[simp] theorem onMsg_side (f : MsgEngine → MsgEngine) (s : State) : (onMsg f s).side = s.side := rfl
@[simp] theorem onMsg_pdu (f : MsgEngine → MsgEngine) (s : State) : (onMsg f s).pdu = s.pdu := rfl
@[simp] theorem onMsg_scan (f : MsgEngine → MsgEngine) (s : State) : (onMsg f s).scan = s.scan := rfl
@[simp] theorem onMsg_hold (f : MsgEngine → MsgEngine) (s : State) : (onMsg f s).hold = s.hold := rfl
@[simp] theorem onMsg_msg (f : MsgEngine → MsgEngine) (s : State) : (onMsg f s).msg = f s.msg := rfl
@[simp] theorem onMsg_loc (f : MsgEngine → MsgEngine) (s : State) : (onMsg f s).loc = s.loc := rfl
@[simp] theorem onMsg_ctl (f : MsgEngine → MsgEngine) (s : State) : (onMsg f s).ctl = s.ctl := rfl
@[simp] theorem onMsg_store (f : MsgEngine → MsgEngine) (s : State) : (onMsg f s).store = s.store := rfl
@[simp] theorem onMsg_choices (f : MsgEngine → MsgEngine) (s : State) : (onMsg f s).choices = s.choices := rfl
@[simp] theorem onMsg_free (f : MsgEngine → MsgEngine) (s : State) : (onMsg f s).free = s.free := rfl
@[simp] theorem onMsg_pending (f : MsgEngine → MsgEngine) (s : State) : (onMsg f s).pending = s.pending := rfl

@[simp] theorem onCtl_powered (f : StoreCtl → StoreCtl) (s : State) : (onCtl f s).powered = s.powered := rfl
@[simp] theorem onCtl_position (f : StoreCtl → StoreCtl) (s : State) : (onCtl f s).position = s.position := rfl
@[simp] theorem onCtl_time (f : StoreCtl → StoreCtl) (s : State) : (onCtl f s).time = s.time := rfl
@[simp] theorem onCtl_lines (f : StoreCtl → StoreCtl) (s : State) : (onCtl f s).lines = s.lines := rfl
@[simp] theorem onCtl_ports (f : StoreCtl → StoreCtl) (s : State) : (onCtl f s).ports = s.ports := rfl
@[simp] theorem onCtl_tx (f : StoreCtl → StoreCtl) (s : State) : (onCtl f s).tx = s.tx := rfl
@[simp] theorem onCtl_tab (f : StoreCtl → StoreCtl) (s : State) : (onCtl f s).tab = s.tab := rfl
@[simp] theorem onCtl_side (f : StoreCtl → StoreCtl) (s : State) : (onCtl f s).side = s.side := rfl
@[simp] theorem onCtl_pdu (f : StoreCtl → StoreCtl) (s : State) : (onCtl f s).pdu = s.pdu := rfl
@[simp] theorem onCtl_scan (f : StoreCtl → StoreCtl) (s : State) : (onCtl f s).scan = s.scan := rfl
@[simp] theorem onCtl_hold (f : StoreCtl → StoreCtl) (s : State) : (onCtl f s).hold = s.hold := rfl
@[simp] theorem onCtl_msg (f : StoreCtl → StoreCtl) (s : State) : (onCtl f s).msg = s.msg := rfl
@[simp] theorem onCtl_loc (f : StoreCtl → StoreCtl) (s : State) : (onCtl f s).loc = s.loc := rfl
@[simp] theorem onCtl_ctl (f : StoreCtl → StoreCtl) (s : State) : (onCtl f s).ctl = f s.ctl := rfl
@[simp] theorem onCtl_store (f : StoreCtl → StoreCtl) (s : State) : (onCtl f s).store = s.store := rfl
@[simp] theorem onCtl_choices (f : StoreCtl → StoreCtl) (s : State) : (onCtl f s).choices = s.choices := rfl
@[simp] theorem onCtl_free (f : StoreCtl → StoreCtl) (s : State) : (onCtl f s).free = s.free := rfl
@[simp] theorem onCtl_pending (f : StoreCtl → StoreCtl) (s : State) : (onCtl f s).pending = s.pending := rfl

@[simp] theorem setOp_powered (op : StoreOp) (s : State) : (setOp op s).powered = s.powered := rfl
@[simp] theorem setOp_position (op : StoreOp) (s : State) : (setOp op s).position = s.position := rfl
@[simp] theorem setOp_time (op : StoreOp) (s : State) : (setOp op s).time = s.time := rfl
@[simp] theorem setOp_lines (op : StoreOp) (s : State) : (setOp op s).lines = s.lines := rfl
@[simp] theorem setOp_ports (op : StoreOp) (s : State) : (setOp op s).ports = s.ports := rfl
@[simp] theorem setOp_tx (op : StoreOp) (s : State) : (setOp op s).tx = s.tx := rfl
@[simp] theorem setOp_tab (op : StoreOp) (s : State) : (setOp op s).tab = s.tab := rfl
@[simp] theorem setOp_side (op : StoreOp) (s : State) : (setOp op s).side = s.side := rfl
@[simp] theorem setOp_pdu (op : StoreOp) (s : State) : (setOp op s).pdu = s.pdu := rfl
@[simp] theorem setOp_scan (op : StoreOp) (s : State) : (setOp op s).scan = s.scan := rfl
@[simp] theorem setOp_hold (op : StoreOp) (s : State) : (setOp op s).hold = s.hold := rfl
@[simp] theorem setOp_msg (op : StoreOp) (s : State) : (setOp op s).msg = s.msg := rfl
@[simp] theorem setOp_loc (op : StoreOp) (s : State) : (setOp op s).loc = s.loc := rfl
@[simp] theorem setOp_ctl (op : StoreOp) (s : State) : (setOp op s).ctl = { s.ctl with op := op } := rfl
@[simp] theorem setOp_store (op : StoreOp) (s : State) : (setOp op s).store = s.store := rfl
@[simp] theorem setOp_choices (op : StoreOp) (s : State) : (setOp op s).choices = s.choices := rfl
@[simp] theorem setOp_free (op : StoreOp) (s : State) : (setOp op s).free = s.free := rfl
@[simp] theorem setOp_pending (op : StoreOp) (s : State) : (setOp op s).pending = s.pending := rfl

@[simp] theorem nextFree_powered (s : State) : (nextFree s).powered = s.powered := rfl
@[simp] theorem nextFree_position (s : State) : (nextFree s).position = s.position := rfl
@[simp] theorem nextFree_time (s : State) : (nextFree s).time = s.time := rfl
@[simp] theorem nextFree_lines (s : State) : (nextFree s).lines = s.lines := rfl
@[simp] theorem nextFree_ports (s : State) : (nextFree s).ports = s.ports := rfl
@[simp] theorem nextFree_tx (s : State) : (nextFree s).tx = s.tx := rfl
@[simp] theorem nextFree_tab (s : State) : (nextFree s).tab = s.tab := rfl
@[simp] theorem nextFree_side (s : State) : (nextFree s).side = s.side := rfl
@[simp] theorem nextFree_pdu (s : State) : (nextFree s).pdu = s.pdu := rfl
@[simp] theorem nextFree_scan (s : State) : (nextFree s).scan = s.scan := rfl
@[simp] theorem nextFree_hold (s : State) : (nextFree s).hold = s.hold := rfl
@[simp] theorem nextFree_msg (s : State) : (nextFree s).msg = s.msg := rfl
@[simp] theorem nextFree_loc (s : State) : (nextFree s).loc = s.loc := rfl
@[simp] theorem nextFree_ctl (s : State) : (nextFree s).ctl = s.ctl := rfl
@[simp] theorem nextFree_store (s : State) : (nextFree s).store = s.store := rfl
@[simp] theorem nextFree_choices (s : State) : (nextFree s).choices = s.choices := rfl
@[simp] theorem nextFree_free (s : State) : (nextFree s).free = s.free + 1 := rfl
@[simp] theorem nextFree_pending (s : State) : (nextFree s).pending = s.pending := rfl

@[simp] theorem popAck_powered (s : State) : (popAck s).powered = s.powered := rfl
@[simp] theorem popAck_position (s : State) : (popAck s).position = s.position := rfl
@[simp] theorem popAck_time (s : State) : (popAck s).time = s.time := rfl
@[simp] theorem popAck_lines (s : State) : (popAck s).lines = s.lines := rfl
@[simp] theorem popAck_ports (s : State) : (popAck s).ports = s.ports := rfl
@[simp] theorem popAck_tx (s : State) : (popAck s).tx = s.tx := rfl
@[simp] theorem popAck_tab (s : State) : (popAck s).tab = s.tab := rfl
@[simp] theorem popAck_side (s : State) : (popAck s).side = s.side := rfl
@[simp] theorem popAck_pdu (s : State) : (popAck s).pdu = s.pdu := rfl
@[simp] theorem popAck_scan (s : State) : (popAck s).scan = s.scan := rfl
@[simp] theorem popAck_hold (s : State) : (popAck s).hold = s.hold := rfl
@[simp] theorem popAck_msg (s : State) : (popAck s).msg = s.msg := rfl
@[simp] theorem popAck_loc (s : State) : (popAck s).loc = s.loc := rfl
@[simp] theorem popAck_ctl (s : State) : (popAck s).ctl = s.ctl := rfl
@[simp] theorem popAck_store (s : State) : (popAck s).store = s.store := rfl
@[simp] theorem popAck_choices (s : State) : (popAck s).choices = { s.choices with acks := s.choices.acks.tail } := rfl
@[simp] theorem popAck_free (s : State) : (popAck s).free = s.free := rfl
@[simp] theorem popAck_pending (s : State) : (popAck s).pending = s.pending := rfl

@[simp] theorem setStepdown_powered (sd : Side) (d : Option Stepdown) (s : State) : (setStepdown sd d s).powered = s.powered := rfl
@[simp] theorem setStepdown_position (sd : Side) (d : Option Stepdown) (s : State) : (setStepdown sd d s).position = s.position := rfl
@[simp] theorem setStepdown_time (sd : Side) (d : Option Stepdown) (s : State) : (setStepdown sd d s).time = s.time := rfl
@[simp] theorem setStepdown_lines (sd : Side) (d : Option Stepdown) (s : State) : (setStepdown sd d s).lines = s.lines := rfl
@[simp] theorem setStepdown_ports (sd : Side) (d : Option Stepdown) (s : State) : (setStepdown sd d s).ports = s.ports := rfl
@[simp] theorem setStepdown_tx (sd : Side) (d : Option Stepdown) (s : State) : (setStepdown sd d s).tx = s.tx := rfl
@[simp] theorem setStepdown_tab (sd : Side) (d : Option Stepdown) (s : State) : (setStepdown sd d s).tab = s.tab := rfl
@[simp] theorem setStepdown_side (sd : Side) (d : Option Stepdown) (s : State) : (setStepdown sd d s).side = s.side := rfl
@[simp] theorem setStepdown_pdu (sd : Side) (d : Option Stepdown) (s : State) : (setStepdown sd d s).pdu = { s.pdu with stepdown := s.pdu.stepdown.set sd d } := rfl
@[simp] theorem setStepdown_scan (sd : Side) (d : Option Stepdown) (s : State) : (setStepdown sd d s).scan = s.scan := rfl
@[simp] theorem setStepdown_hold (sd : Side) (d : Option Stepdown) (s : State) : (setStepdown sd d s).hold = s.hold := rfl
@[simp] theorem setStepdown_msg (sd : Side) (d : Option Stepdown) (s : State) : (setStepdown sd d s).msg = s.msg := rfl
@[simp] theorem setStepdown_loc (sd : Side) (d : Option Stepdown) (s : State) : (setStepdown sd d s).loc = s.loc := rfl
@[simp] theorem setStepdown_ctl (sd : Side) (d : Option Stepdown) (s : State) : (setStepdown sd d s).ctl = s.ctl := rfl
@[simp] theorem setStepdown_store (sd : Side) (d : Option Stepdown) (s : State) : (setStepdown sd d s).store = s.store := rfl
@[simp] theorem setStepdown_choices (sd : Side) (d : Option Stepdown) (s : State) : (setStepdown sd d s).choices = s.choices := rfl
@[simp] theorem setStepdown_free (sd : Side) (d : Option Stepdown) (s : State) : (setStepdown sd d s).free = s.free := rfl
@[simp] theorem setStepdown_pending (sd : Side) (d : Option Stepdown) (s : State) : (setStepdown sd d s).pending = s.pending := rfl

@[simp] theorem setTripLine_powered (sd : Side) (b : Bool) (s : State) : (setTripLine sd b s).powered = s.powered := rfl
@[simp] theorem setTripLine_position (sd : Side) (b : Bool) (s : State) : (setTripLine sd b s).position = s.position := rfl
@[simp] theorem setTripLine_time (sd : Side) (b : Bool) (s : State) : (setTripLine sd b s).time = s.time := rfl
@[simp] theorem setTripLine_lines (sd : Side) (b : Bool) (s : State) : (setTripLine sd b s).lines = { s.lines with trip := s.lines.trip.set sd b } := rfl
@[simp] theorem setTripLine_ports (sd : Side) (b : Bool) (s : State) : (setTripLine sd b s).ports = s.ports := rfl
@[simp] theorem setTripLine_tx (sd : Side) (b : Bool) (s : State) : (setTripLine sd b s).tx = s.tx := rfl
@[simp] theorem setTripLine_tab (sd : Side) (b : Bool) (s : State) : (setTripLine sd b s).tab = s.tab := rfl
@[simp] theorem setTripLine_side (sd : Side) (b : Bool) (s : State) : (setTripLine sd b s).side = s.side := rfl
@[simp] theorem setTripLine_pdu (sd : Side) (b : Bool) (s : State) : (setTripLine sd b s).pdu = s.pdu := rfl
@[simp] theorem setTripLine_scan (sd : Side) (b : Bool) (s : State) : (setTripLine sd b s).scan = s.scan := rfl
@[simp] theorem setTripLine_hold (sd : Side) (b : Bool) (s : State) : (setTripLine sd b s).hold = s.hold := rfl
@[simp] theorem setTripLine_msg (sd : Side) (b : Bool) (s : State) : (setTripLine sd b s).msg = s.msg := rfl
@[simp] theorem setTripLine_loc (sd : Side) (b : Bool) (s : State) : (setTripLine sd b s).loc = s.loc := rfl
@[simp] theorem setTripLine_ctl (sd : Side) (b : Bool) (s : State) : (setTripLine sd b s).ctl = s.ctl := rfl
@[simp] theorem setTripLine_store (sd : Side) (b : Bool) (s : State) : (setTripLine sd b s).store = s.store := rfl
@[simp] theorem setTripLine_choices (sd : Side) (b : Bool) (s : State) : (setTripLine sd b s).choices = s.choices := rfl
@[simp] theorem setTripLine_free (sd : Side) (b : Bool) (s : State) : (setTripLine sd b s).free = s.free := rfl
@[simp] theorem setTripLine_pending (sd : Side) (b : Bool) (s : State) : (setTripLine sd b s).pending = s.pending := rfl

@[simp] theorem setPort_powered (sd : Side) (r : PortRecord) (s : State) : (setPort sd r s).powered = s.powered := rfl
@[simp] theorem setPort_position (sd : Side) (r : PortRecord) (s : State) : (setPort sd r s).position = s.position := rfl
@[simp] theorem setPort_time (sd : Side) (r : PortRecord) (s : State) : (setPort sd r s).time = s.time := rfl
@[simp] theorem setPort_lines (sd : Side) (r : PortRecord) (s : State) : (setPort sd r s).lines = s.lines := rfl
@[simp] theorem setPort_ports (sd : Side) (r : PortRecord) (s : State) : (setPort sd r s).ports = s.ports.set sd r := rfl
@[simp] theorem setPort_tx (sd : Side) (r : PortRecord) (s : State) : (setPort sd r s).tx = s.tx.set sd.other { s.tx.get sd.other with frameTimer := portBlocked r && !isAbsent s sd.other } := rfl
@[simp] theorem setPort_tab (sd : Side) (r : PortRecord) (s : State) : (setPort sd r s).tab = s.tab := rfl
@[simp] theorem setPort_side (sd : Side) (r : PortRecord) (s : State) : (setPort sd r s).side = s.side := rfl
@[simp] theorem setPort_pdu (sd : Side) (r : PortRecord) (s : State) : (setPort sd r s).pdu = s.pdu := rfl
@[simp] theorem setPort_scan (sd : Side) (r : PortRecord) (s : State) : (setPort sd r s).scan = s.scan := rfl
@[simp] theorem setPort_hold (sd : Side) (r : PortRecord) (s : State) : (setPort sd r s).hold = s.hold := rfl
@[simp] theorem setPort_msg (sd : Side) (r : PortRecord) (s : State) : (setPort sd r s).msg = s.msg := rfl
@[simp] theorem setPort_loc (sd : Side) (r : PortRecord) (s : State) : (setPort sd r s).loc = s.loc := rfl
@[simp] theorem setPort_ctl (sd : Side) (r : PortRecord) (s : State) : (setPort sd r s).ctl = s.ctl := rfl
@[simp] theorem setPort_store (sd : Side) (r : PortRecord) (s : State) : (setPort sd r s).store = s.store := rfl
@[simp] theorem setPort_choices (sd : Side) (r : PortRecord) (s : State) : (setPort sd r s).choices = s.choices := rfl
@[simp] theorem setPort_free (sd : Side) (r : PortRecord) (s : State) : (setPort sd r s).free = s.free := rfl
@[simp] theorem setPort_pending (sd : Side) (r : PortRecord) (s : State) : (setPort sd r s).pending = s.pending := rfl

end Sys2Proof.Machine
end

