-- ==== Sys2Proof/Laws/Memory.lean ====
section
/-! SUPPORT. The store as a memory: every write keeps the canonical form, and reads after writes. -/

namespace Sys2Proof.Machine

/-- Every listed address lies above a bound. -/
def Memory.above (x : Nat) (m : Memory) : Prop := ∀ c ∈ m, x < c.1

theorem Memory.wf_tail {c : Host.Cell} {m : Memory} (h : Memory.wf (c :: m) = true) : Memory.wf m = true := by
  obtain ⟨a, v⟩ := c
  simp only [Memory.wf, Bool.and_eq_true] at h
  exact h.2

theorem Memory.wf_above : ∀ {m : Memory} {a : Nat} {v : Octet},
    Memory.wf ((a, v) :: m) = true → Memory.above a m
  | [], _, _, _ => by intro c hc; cases hc
  | (b, w) :: m, a, v, h => by
    have hab : a < b := by simp only [Memory.wf, Bool.and_eq_true, decide_eq_true_eq] at h; exact h.1.2
    have ht := Memory.wf_above (Memory.wf_tail h)
    intro c hc
    rcases List.mem_cons.1 hc with hc | hc
    · subst hc; exact hab
    · exact Nat.lt_trans hab (ht c hc)

theorem Memory.wf_cons {m : Memory} {a : Nat} {v : Octet} (hv : v ≠ Config.erasedOctet)
    (ha : Memory.above a m) (hm : Memory.wf m = true) : Memory.wf ((a, v) :: m) = true := by
  cases m with
  | nil => simp [Memory.wf, hv]
  | cons c m =>
    obtain ⟨b, w⟩ := c
    have : a < b := ha (b, w) (List.mem_cons_self ..)
    simp only [Memory.wf, Bool.and_eq_true, decide_eq_true_eq, bne_iff_ne] at hm ⊢
    exact ⟨⟨hv, this⟩, hm⟩

theorem Memory.wf_head {m : Memory} {a : Nat} {v : Octet} (h : Memory.wf ((a, v) :: m) = true) :
    v ≠ Config.erasedOctet := by
  simp only [Memory.wf, Bool.and_eq_true, bne_iff_ne] at h
  exact h.1.1

theorem Memory.write_above : ∀ {m : Memory} {y x : Nat} {v : Octet},
    y < x → Memory.above y m → Memory.above y (Memory.write m x v)
  | [], y, x, v, hx, _ => by
    intro c hc
    simp only [Memory.write] at hc
    split at hc
    · cases hc
    · rw [List.mem_singleton.1 hc]; exact hx
  | (a, w) :: m, y, x, v, hx, h => by
    have ha : y < a := h (a, w) (List.mem_cons_self ..)
    have hm : Memory.above y m := fun c hc => h c (List.mem_cons_of_mem _ hc)
    have ih := Memory.write_above (v := v) hx hm
    intro c hc
    simp only [Memory.write] at hc
    split at hc
    · split at hc
      · exact h c hc
      · rcases List.mem_cons.1 hc with hc | hc
        · rw [hc]; exact hx
        · exact h c hc
    · split at hc
      · split at hc
        · exact hm c hc
        · rcases List.mem_cons.1 hc with hc | hc
          · rw [hc]; exact hx
          · exact hm c hc
      · rcases List.mem_cons.1 hc with hc | hc
        · rw [hc]; exact ha
        · exact ih c hc

/-- A write keeps the canonical form. -/
theorem Memory.write_wf : ∀ {m : Memory} {x : Nat} {v : Octet},
    Memory.wf m = true → Memory.wf (Memory.write m x v) = true
  | [], x, v, _ => by
    simp only [Memory.write]
    split
    · rfl
    · exact Memory.wf_cons ‹_› (by intro c hc; cases hc) rfl
  | (a, w) :: m, x, v, h => by
    have hm := Memory.wf_tail h
    have ha := Memory.wf_above h
    have hw := Memory.wf_head h
    simp only [Memory.write]
    split
    · split
      · exact h
      · refine Memory.wf_cons ‹_› ?_ h
        intro c hc
        rcases List.mem_cons.1 hc with hc | hc
        · rw [hc]; assumption
        · exact Nat.lt_trans ‹_› (ha c hc)
    · split
      · split
        · exact hm
        · rename_i hx _; subst hx; exact Memory.wf_cons ‹_› ha hm
      · exact Memory.wf_cons hw (Memory.write_above (by omega) ha) (Memory.write_wf hm)

theorem Memory.readOctets_succ (m : Memory) (a n : Nat) :
    Memory.readOctets m a (n + 1) = Memory.read m a :: Memory.readOctets m (a + 1) n := by cases a <;> rfl

theorem Memory.writeOctets_cons (m : Memory) (a : Nat) (o : Octet) (l : List Octet) :
    Memory.writeOctets m a (o :: l) = Memory.writeOctets (Memory.write m a o) (a + 1) l := by cases a <;> rfl

/-- Writing octets at consecutive addresses keeps the canonical form. -/
theorem Memory.writeOctets_wf : ∀ {l : List Octet} {m : Memory} {a : Nat},
    Memory.wf m = true → Memory.wf (Memory.writeOctets m a l) = true
  | [], _, _, h => h
  | o :: l, m, a, h => by
    rw [Memory.writeOctets_cons]
    exact Memory.writeOctets_wf (Memory.write_wf h)

theorem Memory.read_below : ∀ {m : Memory} {x : Nat}, Memory.above x m → Memory.read m x = Config.erasedOctet
  | [], _, _ => rfl
  | (a, v) :: m, x, h => by
    have ha : x < a := h (a, v) (List.mem_cons_self ..)
    simp only [Memory.read]
    rw [if_neg (by omega)]
    exact Memory.read_below fun c hc => h c (List.mem_cons_of_mem _ hc)

/-- A read after a write. -/
theorem Memory.read_write : ∀ {m : Memory} {x y : Nat} {v : Octet}, Memory.wf m = true →
    Memory.read (Memory.write m x v) y = if y = x then v else Memory.read m y
  | [], x, y, v, _ => by
    by_cases hv : v = Config.erasedOctet
    · simp only [Memory.write, hv, if_true, Memory.read]; split <;> rfl
    · simp only [Memory.write, hv, if_false, Memory.read]
  | (a, w) :: m, x, y, v, h => by
    have hm := Memory.wf_tail h
    have ha := Memory.wf_above h
    have ih := Memory.read_write (x := x) (y := y) (v := v) hm
    simp only [Memory.write]
    by_cases h1 : x < a
    · rw [if_pos h1]
      by_cases hv : v = Config.erasedOctet
      · rw [if_pos hv]
        by_cases hy : y = x
        · subst hy
          rw [if_pos rfl, hv]
          refine Memory.read_below ?_
          intro c hc
          rcases List.mem_cons.1 hc with hc | hc
          · rw [hc]; exact h1
          · exact Nat.lt_trans h1 (ha c hc)
        · rw [if_neg hy]
      · rw [if_neg hv]; simp only [Memory.read]
    · rw [if_neg h1]
      by_cases h2 : x = a
      · subst h2
        rw [if_pos rfl]
        by_cases hv : v = Config.erasedOctet
        · rw [if_pos hv]
          by_cases hy : y = x
          · subst hy; rw [if_pos rfl, hv]; exact Memory.read_below ha
          · rw [if_neg hy]; simp only [Memory.read, if_neg hy]
        · rw [if_neg hv]; simp only [Memory.read]; split <;> rfl
      · rw [if_neg h2]
        simp only [Memory.read]
        by_cases hy : y = a
        · subst hy; rw [if_pos rfl, if_neg (fun e => h2 e.symm), if_pos rfl]
        · rw [if_neg hy, if_neg hy, ih]

/-- Octets outside a page write are unchanged (R194). -/
theorem Memory.read_writeOctets_outside : ∀ {l : List Octet} {m : Memory} {a y : Nat}, Memory.wf m = true →
    (y < a ∨ a + l.length ≤ y) → Memory.read (Memory.writeOctets m a l) y = Memory.read m y
  | [], _, _, _, _, _ => rfl
  | o :: l, m, a, y, h, hy => by
    simp only [List.length_cons] at hy
    rw [Memory.writeOctets_cons, Memory.read_writeOctets_outside (Memory.write_wf h) (by omega),
      Memory.read_write h, if_neg (by omega)]

/-- The octets written are read back. -/
theorem Memory.readOctets_writeOctets : ∀ {l : List Octet} {m : Memory} {a : Nat}, Memory.wf m = true →
    Memory.readOctets (Memory.writeOctets m a l) a l.length = l
  | [], _, _, _ => rfl
  | o :: l, m, a, h => by
    have hw : Memory.wf (Memory.write m a o) = true := Memory.write_wf h
    simp only [Memory.writeOctets_cons, List.length_cons, Memory.readOctets_succ]
    rw [Memory.read_writeOctets_outside hw (by omega), Memory.read_write h, if_pos rfl,
      Memory.readOctets_writeOctets hw]

theorem highestSlots_eq (m : Memory) : highestSlots m = slotsHolding m (highestNumber m) := by
  unfold highestSlots; split <;> rename_i h <;> rw [h]

theorem reset_store_canonical : StoreCanonical State.reset := rfl

end Sys2Proof.Machine
end

