-- ==== Sys2Proof/Laws/Cuts.lean ====
section
/-! SUPPORT. What a page write that is cut off leaves in the store (R194), read back by the loader (R183, R185,
R186). -/

namespace Sys2Proof.Machine

/-! ### The octets left -/

theorem residueOctets_length (l : List Octet) (r : Residue) : (residueOctets l r).length = l.length := by
  induction l generalizing r with
  | nil => cases r <;> rfl
  | cons o l ih => cases r with
    | nil => rfl
    | cons x r => simp [residueOctets, ih]

theorem cutOctets_length (op : StoreOp) (m : Memory) (w : PageWrite) (left : Residue) :
    (cutOctets op m w left).length = w.data.length := by
  unfold cutOctets; split
  · exact residueOctets_length ..
  · rfl

theorem cutOctets_cases (op : StoreOp) (m : Memory) (w : PageWrite) (left : Residue) :
    cutOctets op m w left = w.data ∨
      (cutOctets op m w left = residueOctets w.data left ∧ mayLeave op m (residueOctets w.data left) = true) := by
  unfold cutOctets; split
  · rename_i h; exact Or.inr ⟨rfl, h⟩
  · exact Or.inl rfl

/-- A residue that R194 allows is what is left. -/
theorem cutOctets_residue {op : StoreOp} {m : Memory} {w : PageWrite} {left : Residue}
    (h : mayLeave op m (residueOctets w.data left) = true) : cutOctets op m w left = residueOctets w.data left := if_pos h

/-- The store after a page write that is cut off. -/
theorem cutOff_store {left : Residue} {w : PageWrite} {s : State} (hw : currentWrite s.ctl.op = some w)
    (hd : w.done = false) :
    (cutOff left s).store = Memory.writeOctets s.store w.addr (cutOctets s.ctl.op s.store w left) := by
  unfold cutOff; rw [hw]; dsimp only; rw [hd]; rfl

/-! ### Reading beside a write -/

theorem Memory.readOctets_length (m : Memory) (a n : Nat) : (Memory.readOctets m a n).length = n := by
  induction n generalizing a with
  | zero => rfl
  | succ n ih => rw [Memory.readOctets_succ]; simp [ih]

/-- Memories that agree at consecutive addresses read alike there. -/
theorem Memory.readOctets_congr {m m' : Memory} {a n : Nat}
    (h : ∀ y, a ≤ y → y < a + n → Memory.read m y = Memory.read m' y) :
    Memory.readOctets m a n = Memory.readOctets m' a n := by
  induction n generalizing a with
  | zero => rfl
  | succ n ih =>
    rw [Memory.readOctets_succ, Memory.readOctets_succ, h a (by omega) (by omega),
      ih fun y h1 h2 => h y (by omega) (by omega)]

theorem Memory.readOctets_outside {m : Memory} {a b n : Nat} {l : List Octet} (hm : Memory.wf m = true)
    (h : b + n ≤ a ∨ a + l.length ≤ b) :
    Memory.readOctets (Memory.writeOctets m a l) b n = Memory.readOctets m b n :=
  Memory.readOctets_congr fun y h1 h2 => Memory.read_writeOctets_outside hm (by omega)

theorem octetAt_readOctets (m : Memory) (a : Nat) {n i : Nat} (h : i < n) :
    octetAt (Memory.readOctets m a n) i = Memory.read m (a + i) := by
  induction n generalizing a i with
  | zero => omega
  | succ n ih =>
    rw [Memory.readOctets_succ]
    cases i with
    | zero => rfl
    | succ i =>
      have := ih (a := a + 1) (i := i) (by omega)
      rw [show a + (i + 1) = a + 1 + i by omega, ← this]; rfl

/-- A signature is read alike in every reading of the header's octets. -/
theorem word16At_readOctets (m : Memory) (a : Nat) {n : Nat} (h : 2 ≤ n) :
    word16At (Memory.readOctets m a n) 0 = Memory.read m a ++ Memory.read m (a + 1) := by
  unfold word16At; rw [octetAt_readOctets m a (by omega), octetAt_readOctets m a (by omega)]; rfl

/-- R185: a signature that is not 5C3A gives INCOMPLETE or BLANK. -/
theorem judgeHeader_unsigned {l : List Octet} (h : word16At l 0 ≠ 0x5C3A) :
    judgeHeader l ∈ [some LoaderResult.incomplete, some LoaderResult.blank] := by
  unfold judgeHeader; split
  · simp
  · simp

/-- R183: where one copy of a side is not valid, the other, if valid, is the newest. -/
theorem newestCopy_other {m : Memory} {sd : Side} {b : Bool} (h : storedCopy m sd b = none) :
    newestCopy m sd = (storedCopy m sd (!b)).map fun c => (!b, c) := by
  unfold newestCopy
  cases ha : storedCopy m sd false <;> cases hb : storedCopy m sd true <;> cases b <;>
    simp only [Bool.not_false, Bool.not_true] <;> simp_all

/-! ### The trip log position (R186) -/

theorem foldl_max_ge (l : List Nat) (a : Nat) : a ≤ l.foldl max a ∧ ∀ x ∈ l, x ≤ l.foldl max a := by
  induction l generalizing a with
  | nil => exact ⟨Nat.le_refl a, fun x h => nomatch h⟩
  | cons b l ih =>
    have h := ih (max a b)
    refine ⟨Nat.le_trans (Nat.le_max_left a b) h.1, fun x hx => ?_⟩
    rcases List.mem_cons.1 hx with rfl | hx
    · exact Nat.le_trans (Nat.le_max_right a x) h.1
    · exact h.2 x hx

theorem foldl_max_le (l : List Nat) (a n : Nat) (ha : a ≤ n) (h : ∀ x ∈ l, x ≤ n) : l.foldl max a ≤ n := by
  induction l generalizing a with
  | nil => exact ha
  | cons b l ih =>
    exact ih (max a b) (Nat.max_le.2 ⟨ha, h b (List.mem_cons_self ..)⟩) fun x hx => h x (List.mem_cons_of_mem _ hx)

/-- The one slot with the highest running number is the newest: the next record goes into the slot after it. -/
theorem logPosition_after {m : Memory} {j : Nat} (free : Nat) (hj : j < 64) (h0 : slotNumber m j ≠ 0)
    (h : ∀ i, i < 64 → i ≠ j → slotNumber m i < slotNumber m j) :
    logPosition m free = ((j + 1) % 64, numberAfter (slotNumber m j)) := by
  have hh : highestNumber m = slotNumber m j := by
    refine Nat.le_antisymm (foldl_max_le _ _ _ (Nat.zero_le _) fun x hx => ?_)
      ((foldl_max_ge _ 0).2 _ (List.mem_map.2 ⟨j, List.mem_range.2 hj, rfl⟩))
    obtain ⟨i, hi, rfl⟩ := List.mem_map.1 hx
    by_cases e : i = j
    · rw [e]
    · exact Nat.le_of_lt (h i (List.mem_range.1 hi) e)
  have hs : highestSlots m = [j] := by
    rw [highestSlots_eq, hh]
    unfold slotsHolding
    have e : ∀ i ∈ List.range 64, (slotNumber m i == slotNumber m j) = decide (i = j) := by
      intro i hi
      by_cases e : i = j
      · simp [e]
      · have := h i (List.mem_range.1 hi) e
        simp [e]; omega
    rw [List.filter_congr e]
    clear e hh h h0
    revert j; decide
  unfold logPosition
  rw [if_neg (by rw [hh]; exact h0), hs, hh]; rfl

end Sys2Proof.Machine
end

