-- ==== Sys2Proof/Laws/SideFrame.lean ====
section
/-! SUPPORT. What the events a side controller takes can never change: everything but the side records,
the drive levels, checks and stepdown sequences, the messages, the Store Controller's own state and the
acknowledgements left to consume. One lemma for each operation; each is a rewriting rule. -/

namespace Sys2Proof.Machine

/-- The part of the state that no side event changes. -/
structure Still where
  powered : Bool
  position : Fin 32
  time : TimerBase
  lines : Lines
  ports : Sides PortRecord
  tx : Sides Transmitter
  tab : TableMem
  scan : Scanner
  hold : HoldUnit
  loc : LocalPort
  store : Memory
  free : Nat
  pending : List Instr
  latch : Bool
  startCut : Bool
  eastFirst : Bool
  westLonger : Bool
  eastLonger : Bool
  handOn : List HandOn
  lateStart : Bool

/-- That part of a state. -/
def still (s : State) : Still :=
  { powered := s.powered, position := s.position, time := s.time, lines := s.lines, ports := s.ports
    tx := s.tx, tab := s.tab, scan := s.scan, hold := s.hold, loc := s.loc, store := s.store
    free := s.free, pending := s.pending, latch := s.pdu.latch, startCut := s.pdu.startCut
    eastFirst := s.choices.eastFirst, westLonger := s.choices.westLonger, eastLonger := s.choices.eastLonger
    handOn := s.choices.handOn, lateStart := s.choices.lateStart }

/-! ### Updates -/

@[simp] theorem setSide_still (sd : Side) (r : SideRecord) (s : State) : still (setSide sd r s) = still s := rfl
@[simp] theorem modSide_still (sd : Side) (f : SideRecord → SideRecord) (s : State) :
    still (modSide sd f s) = still s := rfl
@[simp] theorem onMsg_still (f : MsgEngine → MsgEngine) (s : State) : still (onMsg f s) = still s := rfl
@[simp] theorem onCtl_still (f : StoreCtl → StoreCtl) (s : State) : still (onCtl f s) = still s := rfl
@[simp] theorem setOp_still (op : StoreOp) (s : State) : still (setOp op s) = still s := rfl
@[simp] theorem popAck_still (s : State) : still (popAck s) = still s := rfl
@[simp] theorem setStepdown_still (sd : Side) (d : Option Stepdown) (s : State) :
    still (setStepdown sd d s) = still s := rfl

/-- A change of the Pump Drive Unit that keeps the latch and the start-up cut. -/
theorem onPdu_still (f : PumpUnit → PumpUnit) (s : State) (hl : (f s.pdu).latch = s.pdu.latch)
    (hc : (f s.pdu).startCut = s.pdu.startCut) : still (onPdu f s) = still s := by
  simp only [still, onPdu, hl, hc]

/-- What no pump command changes in the Pump Drive Unit. -/
def PumpUnit.cuts (u : PumpUnit) : Bool × Bool := (u.latch, u.startCut)

@[simp] theorem startCheck_cuts (t : TableMem) (n : Nat) (u : PumpUnit) : (startCheck t n u).cuts = u.cuts := by
  unfold startCheck; split
  · rfl
  · split <;> rfl

@[simp] theorem zeroOne_cuts (t : TableMem) (n : Nat) (u : PumpUnit) : (zeroOne t n u).cuts = u.cuts := by
  unfold zeroOne; split
  · rfl
  · rw [startCheck_cuts]; rfl

theorem foldl_cuts {α : Type} (f : PumpUnit → α → PumpUnit) (h : ∀ u a, (f u a).cuts = u.cuts) (l : List α)
    (u : PumpUnit) : (l.foldl f u).cuts = u.cuts := by
  induction l generalizing u with
  | nil => rfl
  | cons a l ih => rw [List.foldl_cons, ih, h]

@[simp] theorem zeroChain_cuts (t : TableMem) (k n : Nat) (u : PumpUnit) : (zeroChain t k n u).cuts = u.cuts := by
  induction k generalizing n u with
  | zero => exact zeroOne_cuts t n u
  | succ k ih => rw [zeroChain, zeroOne_cuts, foldl_cuts _ fun u m => ih m u]

@[simp] theorem zeroPump_cuts (t : TableMem) (n : Nat) (u : PumpUnit) : (zeroPump t n u).cuts = u.cuts :=
  zeroChain_cuts t 8 n u

@[simp] theorem zeroPumps_cuts (t : TableMem) (l : List Nat) (u : PumpUnit) : (zeroPumps t l u).cuts = u.cuts :=
  foldl_cuts _ (fun u n => zeroPump_cuts t n u) l u

@[simp] theorem raisePump_cuts (t : TableMem) (b : Bool) (n : Nat) (v : Word16) (u : PumpUnit) :
    (raisePump t b n v u).cuts = u.cuts := by
  unfold raisePump; split
  · rfl
  · exact zeroPump_cuts t n u

@[simp] theorem stepZero_cuts (t : TableMem) (n : Nat) (l : List Nat) (u : PumpUnit) :
    (stepZero t n l u).cuts = u.cuts := by
  simp only [stepZero, zeroPumps_cuts]
  split
  · rw [startCheck_cuts, zeroPump_cuts]
  · exact zeroPump_cuts t n u

/-- A change of the Pump Drive Unit that keeps its cuts. -/
theorem onPdu_still_of_cuts (f : PumpUnit → PumpUnit) (s : State) (h : (f s.pdu).cuts = s.pdu.cuts) :
    still (onPdu f s) = still s :=
  onPdu_still f s (congrArg Prod.fst h) (congrArg Prod.snd h)

/-! ### Pump commands -/

@[simp] theorem immediateCut_still (sd : Side) (s : State) : still (immediateCut sd s) = still s :=
  onPdu_still_of_cuts _ s (zeroPumps_cuts _ _ s.pdu)

@[simp] theorem probeCommand_still (sd : Side) (s : State) : still (probeCommand sd s) = still s :=
  onPdu_still_of_cuts _ s (foldl_cuts _ (fun u n => raisePump_cuts _ _ n _ u) _ s.pdu)

@[simp] theorem fullCommand_still (sd : Side) (n : Nat) (s : State) : still (fullCommand sd n s) = still s :=
  onPdu_still_of_cuts _ s (raisePump_cuts _ _ n _ s.pdu)

@[simp] theorem zeroCommand_still (sd : Side) (s : State) : still (zeroCommand sd s) = still s :=
  onPdu_still_of_cuts _ s (zeroPumps_cuts _ _ s.pdu)

/-! ### Messages and records -/

@[simp] theorem sendNotice_still (k c p : Octet) (x : Cause) (e : SideState) (s : State) :
    still (sendNotice k c p x e s) = still s := rfl

@[simp] theorem sideNotice_still (k : Octet) (sd : Side) (x : Cause) (e : SideState) (s : State) :
    still (sideNotice k sd x e s) = still s := rfl

@[simp] theorem routeResponse_still (v : Queued) (s : State) : still (routeResponse v s) = still s := by
  unfold routeResponse; split
  · rfl
  · split
    · rfl
    · split <;> rfl

@[simp] theorem respond_still (k d t : Octet) (b : List Octet) (s : State) : still (respond k d t b s) = still s :=
  routeResponse_still _ s

@[simp] theorem finishCommit_still (w : Requester) (s : State) : still (finishCommit w s) = still s := by
  simp [finishCommit]

@[simp] theorem failCommit_still (w : Requester) (k : Nat) (s : State) : still (failCommit w k s) = still s := by
  simp [failCommit]

@[simp] theorem beginCommitPage_still (w : Requester) (k : Nat) (s : State) :
    still (beginCommitPage w k s) = still s := by
  unfold beginCommitPage; split <;> simp

@[simp] theorem recordsDone_still (s : State) : still (recordsDone s) = still s := by
  unfold recordsDone; split <;> simp

@[simp] theorem startRecords_still (l : List StoreRecord) (s : State) : still (startRecords l s) = still s := by
  induction l generalizing s with
  | nil => simp [startRecords]
  | cons r l ih => unfold startRecords; split <;> simp [ih]

@[simp] theorem startIfWaiting_still (s : State) : still (startIfWaiting s) = still s := by
  unfold startIfWaiting; split
  · rfl
  · split <;> simp

@[simp] theorem queueRecord_still (r : StoreRecord) (s : State) : still (queueRecord r s) = still s := by
  unfold queueRecord; dsimp only; split <;> simp

/-! ### Side moves -/

@[simp] theorem onToHold_still (sd : Side) (s : State) : still (onToHold sd s) = still s := by
  unfold onToHold; split <;> simp

@[simp] theorem enterDark_still (sd : Side) (n : Nat) (s : State) : still (enterDark sd n s) = still s := by
  simp [enterDark]

@[simp] theorem enterLockout_still (sd : Side) (c r : Cause) (s : State) :
    still (enterLockout sd c r s) = still s := by
  unfold enterLockout; dsimp only; split <;> simp

@[simp] theorem newLockout_still (sd : Side) (c : Cause) (s : State) : still (newLockout sd c s) = still s := by
  simp [newLockout]

@[simp] theorem litExit_still (sd : Side) (c : Cause) (e : SideState) (f : SideRecord → SideRecord) (s : State) :
    still (litExit sd c e f s) = still s := by
  simp [litExit]

@[simp] theorem tripLit_still (sd : Side) (c : Cause) (s : State) : still (tripLit sd c s) = still s := by
  unfold tripLit; dsimp only; split
  · split <;> simp
  · simp

@[simp] theorem leaveListen_still (sd : Side) (c : Cause) (n : Nat) (s : State) :
    still (leaveListen sd c n s) = still s := by
  simp [leaveListen]

@[simp] theorem tripEvent_still (c : Cause) (sd : Side) (s : State) : still (tripEvent c sd s) = still s := by
  unfold tripEvent; split <;> first | rfl | (split <;> simp) | simp

@[simp] theorem deferEvent_still (sd : Side) (s : State) : still (deferEvent sd s) = still s := by
  unfold deferEvent; split <;> simp

@[simp] theorem judgeDark_still (sd : Side) (s : State) : still (judgeDark sd s) = still s := by
  unfold judgeDark; split <;> simp

@[simp] theorem holdBegun_still (sd : Side) (s : State) : still (holdBegun sd s) = still s := by
  unfold holdBegun; split <;> simp

@[simp] theorem holdEnded_still (sd : Side) (s : State) : still (holdEnded sd s) = still s := by
  unfold holdEnded; split <;> simp

@[simp] theorem cutEvent_still (sd : Side) (s : State) : still (cutEvent sd s) = still s := by
  unfold cutEvent; split <;> simp

/-! ### Stepdown -/

@[simp] theorem completeStepdown_still (sd : Side) (s : State) : still (completeStepdown sd s) = still s := by
  unfold completeStepdown; dsimp only; split <;> simp

@[simp] theorem beginStepdown_still (sd : Side) (n : Nat) (s : State) : still (beginStepdown sd n s) = still s := by
  unfold beginStepdown; dsimp only; split
  · rw [setStepdown_still, onPdu_still_of_cuts _ _ (zeroPump_cuts _ _ _), modSide_still]
  · rw [setStepdown_still, onPdu_still_of_cuts _ _ (stepZero_cuts _ _ _ _), modSide_still]

@[simp] theorem nextStepdown_still (sd : Side) (n : Nat) (s : State) : still (nextStepdown sd n s) = still s := by
  unfold nextStepdown; split <;> simp

@[simp] theorem startStepdown_still (sd : Side) (s : State) : still (startStepdown sd s) = still s := by
  unfold startStepdown; split
  · split <;> simp
  · simp

@[simp] theorem enterStepdown_still (sd : Side) (s : State) : still (enterStepdown sd s) = still s := by
  simp [enterStepdown]

@[simp] theorem stepdownPassed_still (l : List Nat) (sd : Side) (s : State) :
    still (stepdownPassed l sd s) = still s := by
  unfold stepdownPassed; split
  · split <;> simp
  · rfl
  · rfl

@[simp] theorem stepdownWaited_still (sd : Side) (s : State) : still (stepdownWaited sd s) = still s := by
  unfold stepdownWaited; split <;> simp

/-! ### Handshake -/

@[simp] theorem judgeDarkInput_still (sd : Side) (s : State) : still (judgeDarkInput sd s) = still s := by
  unfold judgeDarkInput; split
  · split <;> simp
  · simp

@[simp] theorem enterRun_still (sd : Side) (s : State) : still (enterRun sd s) = still s := by
  unfold enterRun; dsimp only; split <;> simp

@[simp] theorem beginRampStep_still (sd : Side) (n : Nat) (s : State) : still (beginRampStep sd n s) = still s := by
  simp [beginRampStep]

@[simp] theorem beginRamp_still (sd : Side) (s : State) : still (beginRamp sd s) = still s := by
  unfold beginRamp; split <;> simp

@[simp] theorem passStep_still (sd : Side) (n : Nat) (s : State) : still (passStep sd n s) = still s := by
  unfold passStep; dsimp only; split <;> simp

@[simp] theorem enterRamp_still (sd : Side) (s : State) : still (enterRamp sd s) = still s := by
  unfold enterRamp; dsimp only; split <;> simp

@[simp] theorem lightProbe_still (sd : Side) (s : State) : still (lightProbe sd s) = still s := by
  simp [lightProbe]

@[simp] theorem enterProbe_still (sd : Side) (s : State) : still (enterProbe sd s) = still s := by
  unfold enterProbe; dsimp only; split <;> simp

@[simp] theorem judgeProbe_still (sd : Side) (s : State) : still (judgeProbe sd s) = still s := by
  unfold judgeProbe; split <;> simp

@[simp] theorem judgeReady_still (sd : Side) (s : State) : still (judgeReady sd s) = still s := by
  unfold judgeReady; split <;> simp

@[simp] theorem backOff_still (sd : Side) (s : State) : still (backOff sd s) = still s := by
  simp [backOff]

@[simp] theorem leadJudge_still (s : State) : still (leadJudge s) = still s := by
  unfold leadJudge; split <;> first | rfl | (split <;> first | rfl | (split <;> simp)) | simp

theorem sideEvent_still (f : Side → State → State) (h : ∀ sd s, still (f sd s) = still s) (sd : Side) (s : State) :
    still (sideEvent f sd s) = still s := by
  unfold sideEvent; dsimp only; split <;> simp [h]

theorem bothSides_still (f : Side → State → State) (h : ∀ sd s, still (f sd s) = still s) (s : State) :
    still (bothSides f s) = still s := by
  unfold bothSides; split <;> simp [h]

@[simp] theorem countOutside_still (sd : Side) (s : State) : still (countOutside sd s) = still s := by
  unfold countOutside; split <;> simp

@[simp] theorem leadToRamp_still (sd : Side) (s : State) : still (leadToRamp sd s) = still s := by
  unfold leadToRamp; split <;> simp

@[simp] theorem probeTest_still (sd : Side) (r : Report) (s : State) : still (probeTest sd r s) = still s := by
  unfold probeTest; split
  · rfl
  · split
    · dsimp only; split <;> simp
    · simp
    · simp

@[simp] theorem probeAgreed_still (sd : Side) (r : Report) (s : State) : still (probeAgreed sd r s) = still s := by
  unfold probeAgreed; split
  · simp
  · dsimp only; split
    · simp
    · split <;> simp

@[simp] theorem probeReport_still (sd : Side) (r : Report) (s : State) : still (probeReport sd r s) = still s := by
  unfold probeReport; split
  · split <;> simp
  · split
    · simp
    · split <;> simp

@[simp] theorem rampTest_still (sd : Side) (r : Report) (s : State) : still (rampTest sd r s) = still s := by
  unfold rampTest; split
  · rfl
  · split
    · split <;> simp
    · rfl

@[simp] theorem rampReport_still (sd : Side) (r : Report) (s : State) : still (rampReport sd r s) = still s := by
  unfold rampReport; split
  · split
    · simp
    · dsimp only; split
      · simp
      · split <;> simp
  · simp

@[simp] theorem starvedReport_still (sd : Side) (r : Report) (s : State) : still (starvedReport sd r s) = still s := by
  unfold starvedReport; dsimp only; split
  · split <;> simp
  · split <;> simp

@[simp] theorem runReport_still (sd : Side) (r : Report) (s : State) : still (runReport sd r s) = still s := by
  unfold runReport; split
  · split <;> simp
  · simp

@[simp] theorem listenReport_still (sd : Side) (r : Report) (s : State) : still (listenReport sd r s) = still s := by
  simp [listenReport]

@[simp] theorem farReport_still (r : Report) (sd : Side) (s : State) : still (farReport r sd s) = still s := by
  unfold farReport; split <;> simp

@[simp] theorem darkBegun_still (sd : Side) (s : State) : still (darkBegun sd s) = still s := by
  unfold darkBegun; split <;> simp

@[simp] theorem darkEnded_still (sd : Side) (s : State) : still (darkEnded sd s) = still s := by
  unfold darkEnded; split <;> simp

@[simp] theorem rearmScan_still (v : Word16) (sd : Side) (s : State) : still (rearmScan v sd s) = still s := by
  unfold rearmScan; split
  · split <;> simp
  · simp

@[simp] theorem stepScan_still (n : Nat) (v : Word16) (sd : Side) (s : State) : still (stepScan n v sd s) = still s := by
  unfold stepScan; split
  · rfl
  · split
    · dsimp only; split
      · simp
      · split <;> simp
      · simp
    · rfl

@[simp] theorem outputScan_still (n : Nat) (v : Word16) (sd : Side) (s : State) :
    still (outputScan n v sd s) = still s := by
  unfold outputScan; split
  · rfl
  · split <;> simp

@[simp] theorem armByScan_still (sd : Side) (s : State) : still (armByScan sd s) = still s := by
  unfold armByScan; split
  · rfl
  · split <;> simp

@[simp] theorem scanCompleted_still (sd : Side) (s : State) : still (scanCompleted sd s) = still s := by
  unfold scanCompleted; split <;> simp

@[simp] theorem degradedBegun_still (sd : Side) (s : State) : still (degradedBegun sd s) = still s := by
  unfold degradedBegun; split <;> simp

@[simp] theorem conditionEvent_still (a b : PortCondition) (sd : Side) (s : State) :
    still (conditionEvent a b sd s) = still s := by
  unfold conditionEvent; split <;> simp

/-! ### Reading fields off -/

/-- What two states with the same still part agree on. -/
theorem still_fields {s t : State} (h : still t = still s) :
    t.powered = s.powered ∧ t.position = s.position ∧ t.time = s.time ∧ t.lines = s.lines ∧
      t.ports = s.ports ∧ t.tx = s.tx ∧ t.tab = s.tab ∧ t.scan = s.scan ∧ t.hold = s.hold ∧ t.loc = s.loc ∧
      t.store = s.store ∧ t.free = s.free ∧ t.pending = s.pending ∧ t.pdu.latch = s.pdu.latch ∧
      t.pdu.startCut = s.pdu.startCut := by
  simp only [still, Still.mk.injEq] at h
  tauto

/-- The end of a command keeps the same part, but for the choices it puts away. -/
theorem settle_fields (s : State) :
    (settle s).powered = s.powered ∧ (settle s).position = s.position ∧ (settle s).time = s.time ∧
      (settle s).lines = s.lines ∧ (settle s).ports = s.ports ∧ (settle s).tx = s.tx ∧ (settle s).tab = s.tab ∧
      (settle s).scan = s.scan ∧ (settle s).hold = s.hold ∧ (settle s).loc = s.loc ∧ (settle s).store = s.store ∧
      (settle s).free = s.free ∧ (settle s).pending = s.pending ∧ (settle s).pdu.latch = s.pdu.latch ∧
      (settle s).pdu.startCut = s.pdu.startCut :=
  still_fields (s := s) (t := startIfWaiting s) (startIfWaiting_still s)

/-- With no record waiting, the end of a command only puts the choices away. -/
theorem settle_empty (s : State) (h : s.ctl.queue = []) : settle s = { s with choices := Choices.default } := by
  simp [settle, startIfWaiting, h]

/-- A command of the powered part. -/
theorem runWith_powered (ch : Choices) (f : State → State) (s : State) (h : s.powered = true) :
    runWith ch f s = .next (settle (f { s with choices := ch })) := by
  simp [runWith, h]

end Sys2Proof.Machine
end

