-- ==== Sys2Proof/Laws/SideEvents.lean ====
section
/-! SUPPORT. What the operations of one side leave of the other side, of the Pump Drive Unit and of the
messages: the record queue's operations touch the Store Controller alone, an event of one side leaves the
other side's record, and the lead's judgment touches the East side and the pumps alone. -/

namespace Sys2Proof.Machine

/-! ### Responses and records -/

@[simp] theorem routeResponse_side (v : Queued) (s : State) : (routeResponse v s).side = s.side := by
  unfold routeResponse; split
  · rfl
  · split
    · rfl
    · split <;> rfl

@[simp] theorem routeResponse_pdu (v : Queued) (s : State) : (routeResponse v s).pdu = s.pdu := by
  unfold routeResponse; split
  · rfl
  · split
    · rfl
    · split <;> rfl

@[simp] theorem routeResponse_ctl (v : Queued) (s : State) : (routeResponse v s).ctl = s.ctl := by
  unfold routeResponse; split
  · rfl
  · split
    · rfl
    · split <;> rfl

@[simp] theorem routeResponse_choices (v : Queued) (s : State) : (routeResponse v s).choices = s.choices := by
  unfold routeResponse; split
  · rfl
  · split
    · rfl
    · split <;> rfl

@[simp] theorem respond_side (k d t : Octet) (b : List Octet) (s : State) : (respond k d t b s).side = s.side :=
  routeResponse_side _ s
@[simp] theorem respond_pdu (k d t : Octet) (b : List Octet) (s : State) : (respond k d t b s).pdu = s.pdu :=
  routeResponse_pdu _ s
@[simp] theorem respond_ctl (k d t : Octet) (b : List Octet) (s : State) : (respond k d t b s).ctl = s.ctl :=
  routeResponse_ctl _ s

@[simp] theorem beginCommitPage_side (w : Requester) (k : Nat) (s : State) :
    (beginCommitPage w k s).side = s.side := by
  unfold beginCommitPage; split <;> simp [failCommit]
@[simp] theorem beginCommitPage_pdu (w : Requester) (k : Nat) (s : State) :
    (beginCommitPage w k s).pdu = s.pdu := by
  unfold beginCommitPage; split <;> simp [failCommit]

@[simp] theorem recordsDone_side (s : State) : (recordsDone s).side = s.side := by
  unfold recordsDone; split <;> simp
@[simp] theorem recordsDone_pdu (s : State) : (recordsDone s).pdu = s.pdu := by
  unfold recordsDone; split <;> simp

@[simp] theorem startRecords_side (l : List StoreRecord) (s : State) : (startRecords l s).side = s.side := by
  induction l generalizing s with
  | nil => simp [startRecords]
  | cons r l ih => unfold startRecords; split <;> simp [ih]
@[simp] theorem startRecords_pdu (l : List StoreRecord) (s : State) : (startRecords l s).pdu = s.pdu := by
  induction l generalizing s with
  | nil => simp [startRecords]
  | cons r l ih => unfold startRecords; split <;> simp [ih]

/-- Record writes outside a suspended commit answer nobody. -/
theorem startRecords_msg (l : List StoreRecord) (s : State) (h : ∃ w, s.ctl.op = .recording w) :
    (startRecords l s).msg = s.msg := by
  induction l generalizing s with
  | nil =>
    obtain ⟨w, hw⟩ := h
    simp [startRecords, recordsDone, hw]
  | cons r l ih =>
    obtain ⟨w, hw⟩ := h
    unfold startRecords; split
    · rfl
    · rw [ih]
      · rfl
      · refine ⟨w, ?_⟩
        cases r <;> simpa [faultRecord, advanceLog] using hw

@[simp] theorem startIfWaiting_side (s : State) : (startIfWaiting s).side = s.side := by
  unfold startIfWaiting; split
  · rfl
  · split <;> simp
@[simp] theorem startIfWaiting_pdu (s : State) : (startIfWaiting s).pdu = s.pdu := by
  unfold startIfWaiting; split
  · rfl
  · split <;> simp
@[simp] theorem startIfWaiting_msg (s : State) : (startIfWaiting s).msg = s.msg := by
  unfold startIfWaiting; split
  · rfl
  · split
    · rw [startRecords_msg _ _ ⟨none, rfl⟩]; rfl
    · rename_i h
      rw [startRecords_msg _ _ ⟨none, h⟩]
    all_goals rfl

@[simp] theorem queueRecord_side (r : StoreRecord) (s : State) : (queueRecord r s).side = s.side := by
  unfold queueRecord; dsimp only; split <;> simp
@[simp] theorem queueRecord_pdu (r : StoreRecord) (s : State) : (queueRecord r s).pdu = s.pdu := by
  unfold queueRecord; dsimp only; split <;> simp
@[simp] theorem queueRecord_msg (r : StoreRecord) (s : State) : (queueRecord r s).msg = s.msg := by
  unfold queueRecord; dsimp only; split <;> simp

@[simp] theorem settle_side (s : State) : (settle s).side = s.side := startIfWaiting_side s
@[simp] theorem settle_pdu (s : State) : (settle s).pdu = s.pdu := startIfWaiting_pdu s
@[simp] theorem settle_msg (s : State) : (settle s).msg = s.msg := startIfWaiting_msg s

/-! ### Notices and cuts -/

@[simp] theorem sendNotice_side (k c p : Octet) (x : Cause) (e : SideState) (s : State) :
    (sendNotice k c p x e s).side = s.side := rfl
@[simp] theorem sideNotice_side (k : Octet) (sd : Side) (x : Cause) (e : SideState) (s : State) :
    (sideNotice k sd x e s).side = s.side := rfl
@[simp] theorem sideNotice_pdu (k : Octet) (sd : Side) (x : Cause) (e : SideState) (s : State) :
    (sideNotice k sd x e s).pdu = s.pdu := rfl
@[simp] theorem immediateCut_side (sd : Side) (s : State) : (immediateCut sd s).side = s.side := rfl
@[simp] theorem immediateCut_msg (sd : Side) (s : State) : (immediateCut sd s).msg = s.msg := rfl

theorem releaseReset_noticeNumber (v : Queued) (m : MsgEngine) :
    (releaseReset v m).noticeNumber = m.noticeNumber := by unfold releaseReset; split <;> rfl
theorem deliver_noticeNumber (v : Queued) (m : MsgEngine) : (deliver v m).noticeNumber = m.noticeNumber := by
  unfold deliver; split
  · rfl
  · rw [releaseReset_noticeNumber]
theorem joinNotice_noticeNumber (n : Message) (sd : Side) (m : MsgEngine) :
    (joinNotice n sd m).noticeNumber = m.noticeNumber := by
  unfold joinNotice; dsimp only; split
  · rfl
  · split
    · rfl
    · rw [discardMessage, releaseReset_noticeNumber]

/-- R143: each notice takes the next notice number. -/
theorem postNotice_noticeNumber (w e : Bool) (n : Message) (m : MsgEngine) :
    (postNotice w e n m).noticeNumber = m.noticeNumber + 1 := by
  unfold postNotice; dsimp only
  rw [deliver_noticeNumber]
  cases w <;> cases e <;> simp [joinNotice_noticeNumber]

@[simp] theorem sideNotice_noticeNumber (k : Octet) (sd : Side) (x : Cause) (e : SideState) (s : State) :
    (sideNotice k sd x e s).msg.noticeNumber = s.msg.noticeNumber + 1 := postNotice_noticeNumber _ _ _ _

/-! ### The side an operation moves -/

@[simp] theorem onToHold_own (sd : Side) (s : State) : (onToHold sd s).side.get sd =
    if stateOf s sd = .dark ∧ s.hold.view ≠ 0 then (s.side.get sd).held else s.side.get sd := by
  unfold onToHold; split <;> simp
@[simp] theorem onToHold_msg (sd : Side) (s : State) : (onToHold sd s).msg = s.msg := by
  unfold onToHold; split <;> rfl
@[simp] theorem onToHold_pdu (sd : Side) (s : State) : (onToHold sd s).pdu = s.pdu := by
  unfold onToHold; split <;> rfl

/-- R171: the record of a side entering LOCKOUT. -/
@[simp] theorem enterLockout_own (sd : Side) (c r : Cause) (s : State) :
    (enterLockout sd c r s).side.get sd = (s.side.get sd).lockedOut c := by
  unfold enterLockout; dsimp only; split <;> simp

@[simp] theorem litExit_own (sd : Side) (c : Cause) (e : SideState) (f : SideRecord → SideRecord) (s : State) :
    (litExit sd c e f s).side.get sd = f (s.side.get sd) := by
  simp [litExit]

@[simp] theorem newLockout_own (sd : Side) (c : Cause) (s : State) :
    (newLockout sd c s).side.get sd =
      { s.side.get sd with reason := c, lock := (s.side.get sd).lock.entered c } := by
  simp [newLockout]

/-! ### The other side -/

@[simp] theorem onToHold_other (sd : Side) (s : State) : (onToHold sd s).side.get sd.other = s.side.get sd.other := by
  unfold onToHold; split <;> simp
@[simp] theorem enterDark_other (sd : Side) (n : Nat) (s : State) :
    (enterDark sd n s).side.get sd.other = s.side.get sd.other := by simp [enterDark]
@[simp] theorem enterLockout_other (sd : Side) (c r : Cause) (s : State) :
    (enterLockout sd c r s).side.get sd.other = s.side.get sd.other := by
  unfold enterLockout; dsimp only; split <;> simp
@[simp] theorem newLockout_other (sd : Side) (c : Cause) (s : State) :
    (newLockout sd c s).side.get sd.other = s.side.get sd.other := by simp [newLockout]
@[simp] theorem litExit_other (sd : Side) (c : Cause) (e : SideState) (f : SideRecord → SideRecord) (s : State) :
    (litExit sd c e f s).side.get sd.other = s.side.get sd.other := by simp [litExit]
@[simp] theorem tripLit_other (sd : Side) (c : Cause) (s : State) :
    (tripLit sd c s).side.get sd.other = s.side.get sd.other := by
  unfold tripLit; dsimp only; split
  · split <;> simp
  · simp
@[simp] theorem leaveListen_other (sd : Side) (c : Cause) (n : Nat) (s : State) :
    (leaveListen sd c n s).side.get sd.other = s.side.get sd.other := by simp [leaveListen]
@[simp] theorem tripEvent_other (c : Cause) (sd : Side) (s : State) :
    (tripEvent c sd s).side.get sd.other = s.side.get sd.other := by
  unfold tripEvent; split <;> try simp
  split <;> simp
@[simp] theorem deferEvent_other (sd : Side) (s : State) :
    (deferEvent sd s).side.get sd.other = s.side.get sd.other := by unfold deferEvent; split <;> simp
@[simp] theorem judgeDark_other (sd : Side) (s : State) :
    (judgeDark sd s).side.get sd.other = s.side.get sd.other := by unfold judgeDark; split <;> simp
@[simp] theorem holdBegun_other (sd : Side) (s : State) :
    (holdBegun sd s).side.get sd.other = s.side.get sd.other := by unfold holdBegun; split <;> simp
@[simp] theorem holdEnded_other (sd : Side) (s : State) :
    (holdEnded sd s).side.get sd.other = s.side.get sd.other := by unfold holdEnded; split <;> simp
@[simp] theorem cutEvent_other (sd : Side) (s : State) :
    (cutEvent sd s).side.get sd.other = s.side.get sd.other := by unfold cutEvent; split <;> simp

/-! ### The lead's judgment -/

@[simp] theorem lightProbe_own (sd : Side) (s : State) :
    (lightProbe sd s).side = s.side.set sd { s.side.get sd with lit := true } := rfl
@[simp] theorem enterProbe_other (sd : Side) (s : State) :
    (enterProbe sd s).side.get sd.other = s.side.get sd.other := by
  unfold enterProbe; dsimp only; split <;> simp
@[simp] theorem judgeProbe_other (sd : Side) (s : State) :
    (judgeProbe sd s).side.get sd.other = s.side.get sd.other := by unfold judgeProbe; split <;> simp
@[simp] theorem backOff_other (sd : Side) (s : State) :
    (backOff sd s).side.get sd.other = s.side.get sd.other := by simp [backOff, zeroCommand]

@[simp] theorem lightProbe_msg (sd : Side) (s : State) : (lightProbe sd s).msg = s.msg := rfl
@[simp] theorem lightProbe_ctl (sd : Side) (s : State) : (lightProbe sd s).ctl = s.ctl := rfl
@[simp] theorem judgeProbe_msg (sd : Side) (s : State) : (judgeProbe sd s).msg = s.msg := by
  unfold judgeProbe enterProbe; dsimp only; split
  · split <;> rfl
  · rfl
@[simp] theorem judgeProbe_ctl (sd : Side) (s : State) : (judgeProbe sd s).ctl = s.ctl := by
  unfold judgeProbe enterProbe; dsimp only; split
  · split <;> rfl
  · rfl

/-- The lead's judgment of its route view moves the East side alone (R94, R95). -/
@[simp] theorem leadJudge_west (s : State) : (leadJudge s).side.west = s.side.west := by
  unfold leadJudge; split
  · exact judgeProbe_other .east s
  · split
    · rfl
    · split
      · exact backOff_other .east s
      · rfl
  all_goals rfl
@[simp] theorem leadJudge_msg (s : State) : (leadJudge s).msg = s.msg := by
  unfold leadJudge; split
  · simp
  · split
    · rfl
    · split <;> rfl
  all_goals rfl
@[simp] theorem leadJudge_ctl (s : State) : (leadJudge s).ctl = s.ctl := by
  unfold leadJudge; split
  · simp
  · split
    · rfl
    · split <;> rfl
  all_goals rfl
/-- A lead outside LISTEN and PROBE does nothing at a change of its view. -/
theorem leadJudge_idle (s : State) (h1 : stateOf s .east ≠ .listen) (h2 : stateOf s .east ≠ .probe) :
    leadJudge s = s := by
  unfold leadJudge; split <;> first | rfl | contradiction

/-- An event leaves the side it is handed to as its operation does; the lead's judgment that follows it
is on the other side. -/
@[simp] theorem sideEvent_own (f : Side → State → State) (sd : Side) (s : State) :
    (sideEvent f sd s).side.get sd = (f sd s).side.get sd := by
  unfold sideEvent; dsimp only; split
  · rename_i h; obtain ⟨rfl, -⟩ := h; exact leadJudge_west _
  · rfl
@[simp] theorem sideEvent_east (f : Side → State → State) (s : State) : sideEvent f .east s = f .east s := by
  simp [sideEvent]
@[simp] theorem sideEvent_msg (f : Side → State → State) (sd : Side) (s : State) :
    (sideEvent f sd s).msg = (f sd s).msg := by
  unfold sideEvent; dsimp only; split <;> simp
@[simp] theorem sideEvent_ctl (f : Side → State → State) (sd : Side) (s : State) :
    (sideEvent f sd s).ctl = (f sd s).ctl := by
  unfold sideEvent; dsimp only; split <;> simp
/-- An event that moves no state is its operation alone. -/
theorem sideEvent_same (f : Side → State → State) (sd : Side) (s : State)
    (h : stateOf (f sd s) sd = stateOf s sd) : sideEvent f sd s = f sd s := by
  unfold sideEvent; dsimp only; split
  · rename_i hw; obtain ⟨rfl, hn⟩ := hw; exact absurd h hn
  · rfl

end Sys2Proof.Machine
end

