-- ==== Sys2Proof/Laws/HandOns.lean ====
section
/-! SUPPORT. What the operations of a side hand on: records to the Store Controller (R76, R77, R190) and notices
to the Message Engine (R75, R143, R144); and that what joins the record queue keeps its law. -/

namespace Sys2Proof.Machine

/-! ### The record queue (R190) -/

@[simp] theorem joinRecord_op (r : StoreRecord) (c : StoreCtl) : (joinRecord r c).op = c.op := by
  unfold joinRecord joinEnd; split
  · split <;> rfl
  · split
    · rfl
    · split <;> rfl

/-- Only the queue and the count of lost records change. -/
theorem joinRecord_with_op (r : StoreRecord) (c : StoreCtl) (o : StoreOp) :
    joinRecord r { c with op := o } = { joinRecord r c with op := o } := by
  unfold joinRecord joinEnd; split
  · dsimp only; split <;> rfl
  · dsimp only; split
    · rfl
    · split <;> rfl

theorem filter_map_replace (x sd : Side) (r : StoreRecord) (hr : ∀ y, r.locksSide y = (y == sd)) (q : List StoreRecord) :
    ((replaceLock sd r q).filter (StoreRecord.locksSide x)).length = (q.filter (StoreRecord.locksSide x)).length := by
  unfold replaceLock
  induction q with
  | nil => rfl
  | cons a q ih =>
    have h : (if a.locksSide sd then r else a).locksSide x = a.locksSide x := by
      split
      · rename_i ha
        rw [hr]
        cases a with
        | trip t => cases ha
        | lock y b c n => simp only [StoreRecord.locksSide, beq_iff_eq] at ha ⊢; rw [ha]; cases x <;> cases sd <;> rfl
      · rfl
    rw [List.map_cons, List.filter_cons, List.filter_cons, h]
    split <;> simp [ih]

theorem dropOldestTrip_length (q : List StoreRecord) (h : ∃ t ∈ q, StoreRecord.isTrip t = true) :
    (dropOldestTrip q).length + 1 = q.length := by
  induction q with
  | nil => obtain ⟨_, h, _⟩ := h; cases h
  | cons a q ih =>
    unfold dropOldestTrip; split
    · rfl
    · rename_i ha
      obtain ⟨t, ht, hp⟩ := h
      rcases List.mem_cons.1 ht with e | e
      · rw [e] at hp; exact absurd hp ha
      · have := ih ⟨t, e, hp⟩
        simp only [List.length_cons]; omega

theorem dropOldestTrip_filter (x : Side) (q : List StoreRecord) :
    ((dropOldestTrip q).filter (StoreRecord.locksSide x)).length = (q.filter (StoreRecord.locksSide x)).length := by
  induction q with
  | nil => rfl
  | cons a q ih =>
    unfold dropOldestTrip; split
    · rename_i ha
      cases a with
      | trip t => rfl
      | lock y b c n => cases ha
    · rw [List.filter_cons, List.filter_cons]; split <;> simp [ih]

/-- A queue that holds at most one lock record of each side holds a trip record once it holds three. -/
theorem exists_trip (q : List StoreRecord) (h : ∀ sd, (q.filter (StoreRecord.locksSide sd)).length ≤ 1)
    (hq : 3 ≤ q.length) : ∃ t ∈ q, StoreRecord.isTrip t = true := by
  by_contra hn
  have hs : ∀ l : List StoreRecord, (∀ t ∈ l, ¬ StoreRecord.isTrip t = true) →
      (l.filter (StoreRecord.locksSide .west)).length + (l.filter (StoreRecord.locksSide .east)).length = l.length := by
    intro l hl
    induction l with
    | nil => rfl
    | cons a l ih =>
      have := ih fun t ht => hl t (List.mem_cons_of_mem _ ht)
      cases a with
      | trip t => exact absurd rfl (hl (.trip t) (List.mem_cons_self ..))
      | lock y b c n =>
        rw [List.filter_cons, List.filter_cons]
        cases y <;> simp [StoreRecord.locksSide] <;> omega
  have := hs q fun t ht hp => hn ⟨t, ht, hp⟩
  have h1 := h .west
  have h2 := h .east
  omega

/-- R190: a record joins the queue, and the queue keeps its law. -/
theorem joinRecord_law (r : StoreRecord) (c : StoreCtl) (h : RecordQueueLaw c) : RecordQueueLaw (joinRecord r c) := by
  obtain ⟨h1, h2, h3⟩ := h
  have hend : (∀ sd, r.locksSide sd = true → c.queue.any (StoreRecord.locksSide sd) = false) →
      RecordQueueLaw (joinEnd r c) := by
    intro hn
    have one : ∀ sd (q : List StoreRecord),
        (q.filter (StoreRecord.locksSide sd)).length = (c.queue.filter (StoreRecord.locksSide sd)).length →
        ((q ++ [r]).filter (StoreRecord.locksSide sd)).length ≤ 1 := by
      intro sd q hq
      rw [List.filter_append, List.length_append, hq]
      cases hr : r.locksSide sd with
      | false => simpa [hr] using h2 sd
      | true =>
        have h0 : c.queue.filter (StoreRecord.locksSide sd) = [] := by
          have := hn sd hr
          rw [List.any_eq_false] at this
          exact List.filter_eq_nil_iff.2 this
        rw [h0]; simp [hr]
    unfold joinEnd; split
    · rename_i hl
      have : Config.recordQueueSize = 4 := rfl
      refine ⟨?_, fun sd => one sd c.queue rfl, h3⟩
      dsimp only; rw [List.length_append, List.length_singleton]; omega
    · rename_i hl
      have e : Config.recordQueueSize = 4 := rfl
      have hd := dropOldestTrip_length c.queue (exists_trip c.queue h2 (by omega))
      refine ⟨?_, fun sd => one sd _ (dropOldestTrip_filter sd c.queue), ?_⟩
      · dsimp only; rw [List.length_append, List.length_singleton]; omega
      · dsimp only; unfold satInc; omega
  cases r with
  | trip t => exact hend (fun sd hs => by cases hs)
  | lock sd b cs n =>
    unfold joinRecord; dsimp only; split
    · have hr : ∀ y, (StoreRecord.lock sd b cs n).locksSide y = (y == sd) := by
        intro y; cases y <;> cases sd <;> rfl
      refine ⟨?_, fun x => ?_, h3⟩
      · simpa [replaceLock] using h1
      · dsimp only; rw [filter_map_replace x sd _ hr]; exact h2 x
    · rename_i hn
      refine hend fun y hy => ?_
      have : y = sd := by cases y <;> cases sd <;> first | rfl | cases hy
      rw [this]; simpa using hn

/-! ### Records handed over -/

/-- A controller with an operation of its own starts no record. -/
theorem startIfWaiting_busy (s : State) (h1 : s.ctl.op ≠ .idle) (h2 : s.ctl.op ≠ .recording none) :
    startIfWaiting s = s := by
  unfold startIfWaiting; split
  · rfl
  · cases h : s.ctl.op with
    | recording r => cases r with
      | none => exact absurd h h2
      | some r => rfl
    | idle => exact absurd h h1
    | _ => rfl

/-- Handed to such a controller, a record joins the queue and changes nothing else. -/
theorem queueRecord_joins (r : StoreRecord) (s : State) (h1 : s.ctl.op ≠ .idle) (h2 : s.ctl.op ≠ .recording none) :
    queueRecord r s = onCtl (joinRecord r) s := by
  unfold queueRecord; dsimp only; split
  · rfl
  · exact startIfWaiting_busy _ (by simpa [onCtl] using h1) (by simpa [onCtl] using h2)

theorem queueRecord_busy (r : StoreRecord) (s : State) (h1 : s.ctl.op ≠ .idle) (h2 : s.ctl.op ≠ .recording none) :
    (queueRecord r s).ctl = joinRecord r s.ctl := by
  rw [queueRecord_joins r s h1 h2]; rfl

theorem joinRecord_empty (r : StoreRecord) (c : StoreCtl) (h : c.queue = []) :
    joinRecord r c = { c with queue := [r] } := by
  unfold joinRecord joinEnd; rw [h]; split <;> rfl

theorem queueRecord_idle (r : StoreRecord) (s : State) (h1 : s.ctl.op = .idle) (h2 : s.ctl.queue = [])
    (h3 : s.choices.acks = []) (h4 : s.choices.lateStart = false) :
    (queueRecord r s).ctl = { s.ctl with op := .recording (some ⟨r, recordWrite s r⟩) } := by
  have hj : onCtl (joinRecord r) s = { s with ctl := { s.ctl with queue := [r] } } := by
    unfold onCtl; rw [joinRecord_empty r s.ctl h2]
  unfold queueRecord; dsimp only; rw [hj]; simp only [h4, Bool.false_eq_true, if_false]
  unfold startIfWaiting; simp only [List.isEmpty_cons, Bool.false_eq_true, if_false, h1]
  unfold startRecords
  have ha : ∀ u : State, u.choices = s.choices → ackOf u = true := by
    intro u hu; unfold ackOf; rw [hu, h3]; rfl
  split
  · simp only [popAck, onCtl, setOp, withRecord]
    cases r with
    | trip t => simp [recordWrite, h2]; rfl
    | lock sd b c n => simp [recordWrite, h2]
  · rename_i hn; exact absurd (ha _ rfl) hn

/-- The operation after records were handed to a controller that is IDLE, or keeps its own. -/
theorem RecordsHanded.busy {ch : Choices} {r : StoreRecord} {l : List StoreRecord} {s t : State}
    (h : RecordsHanded ch (r :: l) s t)
    (hs : (s.ctl.op ≠ .idle ∧ s.ctl.op ≠ .recording none) ∨
      (s.ctl.op = .idle ∧ s.ctl.queue = [] ∧ ch.acks = [] ∧ ch.lateStart = false)) :
    t.ctl.op ≠ .idle ∧ t.ctl.op ≠ .recording none := by
  have hf : ∀ (l : List StoreRecord) (c : StoreCtl), (l.foldl (fun c r => joinRecord r c) c).op = c.op := by
    intro l; induction l with
    | nil => intro c; rfl
    | cons a l ih => intro c; rw [List.foldl_cons, ih, joinRecord_op]
  rcases hs with hs | ⟨a, b, c, d⟩
  · rw [h.1 hs.1 hs.2, hf]; exact hs
  · rw [(h.2 a b c d).2 r l rfl]; simp

theorem foldl_joinRecord_with_op (l : List StoreRecord) (c : StoreCtl) (o : StoreOp) :
    l.foldl (fun c r => joinRecord r c) { c with op := o } =
      { l.foldl (fun c r => joinRecord r c) c with op := o } := by
  induction l generalizing c with
  | nil => rfl
  | cons a l ih => rw [List.foldl_cons, List.foldl_cons, joinRecord_with_op, ih]

/-- Nothing handed over. -/
theorem RecordsHanded.none {ch : Choices} {s t : State} (h : t.ctl = s.ctl) : RecordsHanded ch [] s t :=
  ⟨fun _ _ => h, fun _ _ _ _ => ⟨fun _ => h, fun _ _ e => (nomatch e)⟩⟩

/-- The first record handed over by a command. -/
theorem RecordsHanded.first {s u : State} (r : StoreRecord) (hc : u.ctl = s.ctl) (hch : u.choices = s.choices)
    (ht : u.time = s.time) (hp : u.position = s.position) (htab : u.tab = s.tab) :
    RecordsHanded s.choices [r] s (queueRecord r u) := by
  refine ⟨fun h1 h2 => ?_, fun h1 h2 h3 h4 => ⟨fun e => (nomatch e), fun r' rest e => ?_⟩⟩
  · rw [queueRecord_busy r u (by rw [hc]; exact h1) (by rw [hc]; exact h2), hc]; rfl
  · cases e
    have hw : recordWrite u r = recordWrite s r := by
      cases r with
      | trip t =>
        cases hs : t.side with
        | none => simp [recordWrite, recordSpan, hs, hc, ht, htab]
        | some sd => cases sd <;> simp [recordWrite, recordSpan, hs, hc, ht, htab, sideSpan, pos, hp]
      | lock _ _ _ _ => simp [recordWrite, hc]
    rw [queueRecord_idle r u (by rw [hc]; exact h1) (by rw [hc]; exact h2) (by rw [hch]; exact h3)
      (by rw [hch]; exact h4), hw, hc]
    rfl

/-- A further record. -/
theorem RecordsHanded.next {ch : Choices} {l : List StoreRecord} {s u v : State} {r : StoreRecord}
    (h : RecordsHanded ch (r :: l) s u) (r' : StoreRecord) (hc : v.ctl = u.ctl) :
    RecordsHanded ch (r :: l ++ [r']) s (queueRecord r' v) := by
  refine ⟨fun h1 h2 => ?_, fun h1 h2 h3 h4 => ⟨fun e => (nomatch e), fun a rest e => ?_⟩⟩
  · have hb := h.busy (Or.inl ⟨h1, h2⟩)
    rw [queueRecord_busy r' v (by rw [hc]; exact hb.1) (by rw [hc]; exact hb.2), hc, h.1 h1 h2]
    simp [List.foldl_append]
  · have hb := h.busy (Or.inr ⟨h1, h2, h3, h4⟩)
    rw [queueRecord_busy r' v (by rw [hc]; exact hb.1) (by rw [hc]; exact hb.2), hc, (h.2 h1 h2 h3 h4).2 r l rfl]
    rw [List.cons_append] at e
    injection e with e1 e2
    rw [← e1, ← e2, joinRecord_with_op, List.foldl_append]; rfl

/-- What is handed over is read off the Store Controller before and after. -/
theorem RecordsHanded.congr {ch : Choices} {l : List StoreRecord} {s u t v : State} (h : RecordsHanded ch l u v)
    (hu : u.ctl = s.ctl) (hv : t.ctl = v.ctl)
    (ht : u.time = s.time) (hp : u.position = s.position) (htab : u.tab = s.tab) : RecordsHanded ch l s t := by
  have hw : ∀ r, recordWrite u r = recordWrite s r := by
    intro r
    cases r with
    | trip t =>
      cases hs : t.side with
      | none => simp [recordWrite, recordSpan, hs, hu, ht, htab]
      | some sd => cases sd <;> simp [recordWrite, recordSpan, hs, hu, ht, htab, sideSpan, pos, hp]
    | lock _ _ _ _ => simp [recordWrite, hu]
  unfold RecordsHanded at *
  rw [hv]; rw [hu] at h
  simp only [hw] at h
  exact h

/-- The end of the command starts nothing more. -/
theorem RecordsHanded.settle {ch : Choices} {l : List StoreRecord} {s t : State} (h : RecordsHanded ch l s t) :
    RecordsHanded ch l s (settle t) := by
  have hb : t.ctl.op ≠ .idle → t.ctl.op ≠ .recording Option.none → (Machine.settle t).ctl = t.ctl := by
    intro h1 h2
    show (startIfWaiting t).ctl = t.ctl
    rw [startIfWaiting_busy t h1 h2]
  cases l with
  | nil =>
    refine ⟨fun h1 h2 => ?_, fun h1 h2 h3 h4 => ⟨fun _ => ?_, fun _ _ e => (nomatch e)⟩⟩
    · have e := h.1 h1 h2
      rw [hb (by rw [e]; exact h1) (by rw [e]; exact h2), e]
    · have e := (h.2 h1 h2 h3 h4).1 rfl
      rw [settle_empty t (by rw [e]; exact h2)]; exact e
  | cons r l =>
    refine ⟨fun h1 h2 => ?_, fun h1 h2 h3 h4 => ⟨fun e => (nomatch e), fun a rest e => ?_⟩⟩
    · have := h.busy (Or.inl ⟨h1, h2⟩)
      rw [hb this.1 this.2]; exact h.1 h1 h2
    · have := h.busy (Or.inr ⟨h1, h2, h3, h4⟩)
      rw [hb this.1 this.2]; exact (h.2 h1 h2 h3 h4).2 a rest e

/-! ### Notices made -/

theorem NoticesMade.none {s t : State} (h : t.msg = s.msg) : NoticesMade [] s t := h

/-- A notice about a side as R143 gives it. -/
theorem sideNotice_made (k : Octet) (sd : Side) (c : Cause) (e : SideState) (u : State) :
    (sideNotice k sd c e u).msg =
      postNotice (isAbsent u .west) (isAbsent u .east) (noticeOf u ⟨k, some sd, c, e⟩ u.msg.noticeNumber) u.msg := by
  have hn : makeMessage k 255 (posOctet u) u.msg.noticeNumber
      [sideOctet sd, natOctet (sideSpan u sd), causeCode c, e.code] = noticeOf u ⟨k, some sd, c, e⟩ u.msg.noticeNumber := by
    cases sd <;> rfl
  show postNotice _ _ (makeMessage k 255 (posOctet u) u.msg.noticeNumber
      [sideOctet sd, natOctet (sideSpan u sd), causeCode c, e.code]) u.msg = _
  rw [hn]

theorem noticeOf_congr {s u : State} (h : u.position = s.position) (x : Made) (n : Octet) :
    noticeOf u x n = noticeOf s x n := by
  unfold noticeOf posOctet pos; rw [h]

/-- A further notice. -/
theorem NoticesMade.next {l : List Made} {s u : State} (h : NoticesMade l s u) (k : Octet) (sd : Side) (c : Cause)
    (e : SideState) (hp : u.position = s.position) (ha : ∀ x, isAbsent u x = isAbsent s x) :
    NoticesMade (l ++ [⟨k, some sd, c, e⟩]) s (sideNotice k sd c e u) := by
  unfold NoticesMade at *
  rw [sideNotice_made, h, List.foldl_append, ha, ha, noticeOf_congr hp]; rfl

theorem NoticesMade.congr {l : List Made} {s u t v : State} (h : NoticesMade l u v) (hu : u.msg = s.msg)
    (hv : t.msg = v.msg) (hp : u.position = s.position) (ha : ∀ x, isAbsent u x = isAbsent s x) :
    NoticesMade l s t := by
  unfold NoticesMade at *
  rw [hv, h, hu, ha, ha]
  simp only [noticeOf_congr hp]

/-! ### The same side a little later -/

/-- What a trip is counted, timed and reported by is the same in two states of a command. -/
structure Alike (sd : Side) (s u : State) : Prop where
  time : u.time = s.time
  ports : u.ports = s.ports
  tab : u.tab = s.tab
  scan : u.scan = s.scan
  hold : u.hold = s.hold
  position : u.position = s.position
  ctl : u.ctl = s.ctl
  choices : u.choices = s.choices
  absent : ∀ x, isAbsent u x = isAbsent s x
  failures : (u.side.get sd).failures = (s.side.get sd).failures
  lock : (u.side.get sd).lock = (s.side.get sd).lock
  counted : (stateOf u sd ≠ .run ∨ (u.side.get sd).proving ≠ none) ↔
    (stateOf s sd ≠ .run ∨ (s.side.get sd).proving ≠ none)

theorem Alike.refl (sd : Side) (s : State) : Alike sd s s :=
  ⟨rfl, rfl, rfl, rfl, rfl, rfl, rfl, rfl, fun _ => rfl, rfl, rfl, Iff.rfl⟩

theorem Alike.trans {sd : Side} {s u v : State} (h : Alike sd s u) (k : Alike sd u v) : Alike sd s v :=
  ⟨k.time.trans h.time, k.ports.trans h.ports, k.tab.trans h.tab, k.scan.trans h.scan, k.hold.trans h.hold,
    k.position.trans h.position, k.ctl.trans h.ctl, k.choices.trans h.choices,
    fun x => (k.absent x).trans (h.absent x), k.failures.trans h.failures, k.lock.trans h.lock,
    k.counted.trans h.counted⟩

/-- A change of the side's record that keeps its state, lists and lock. -/
theorem Alike.modSide {sd : Side} {s : State} {f : SideRecord → SideRecord}
    (h : (f (s.side.get sd)).failures = (s.side.get sd).failures ∧ (f (s.side.get sd)).lock = (s.side.get sd).lock ∧
      (f (s.side.get sd)).state = (s.side.get sd).state ∧ (f (s.side.get sd)).proving = (s.side.get sd).proving) :
    Alike sd s (modSide sd f s) := by
  refine ⟨rfl, rfl, rfl, rfl, rfl, rfl, rfl, rfl, fun x => ?_, ?_, ?_, ?_⟩
  · unfold isAbsent; rw [modSide_side]
    by_cases hx : x = sd
    · rw [hx, Sides.get_set, h.2.2.1]
    · rw [Sides.get_set_ne _ _ _ _ hx]
  · simp [h.1]
  · simp [h.2.1]
  · simp [stateOf, h.2.2.1, h.2.2.2]

/-! ### What the moves hand on -/

/-- The trip record read off a later state is the one the side hands over at its exit (R76). -/
theorem tripRecordAt_of {sd : Side} {c : Cause} {s t : State} (hp : t.ports = s.ports) (ht : t.tab = s.tab)
    (hs : t.scan = s.scan) (hh : t.hold = s.hold) :
    tripRecordAt sd c (stateOf s sd) t = .trip (tripRecordOf sd c s) := by
  have e1 : rxValue t sd = rxValue s sd := by unfold rxValue rxInput latestOf; rw [ht, hs]
  have e2 : txReading t sd = txReading s sd := by unfold txReading latestOf; rw [ht, hs]
  unfold tripRecordAt tripRecordOf farView
  rw [e1, e2, hp, hh]
  cases txReading s sd <;> rfl

/-- The state of one side changed: which sides are ABSENT is the same where the side is in neither. -/
theorem isAbsent_of {sd : Side} {s u : State} (ho : u.side.get sd.other = s.side.get sd.other)
    (h1 : stateOf s sd ≠ .absent) (h2 : stateOf u sd ≠ .absent) (x : Side) : isAbsent u x = isAbsent s x := by
  unfold isAbsent
  by_cases hx : x = sd
  · rw [hx]
    unfold stateOf at h1 h2
    simp [h1, h2]
  · have : x = sd.other := by cases x <;> cases sd <;> first | rfl | exact absurd rfl hx
    rw [this, ho]

@[simp] theorem immediateCut_ctl (sd : Side) (s : State) : (immediateCut sd s).ctl = s.ctl := rfl
@[simp] theorem immediateCut_choices (sd : Side) (s : State) : (immediateCut sd s).choices = s.choices := rfl

/-- An entry to LOCKOUT from a state that is not ABSENT (R171). The side has come unchanged, but for its failure
list, from the state `s` of the same command. -/
theorem enterLockout_handsOn {before : List Made} {sd : Side} {s u : State} (c r : Cause)
    (ht : u.time = s.time) (htab : u.tab = s.tab) (hp : u.position = s.position) (hc : u.ctl = s.ctl) (hch : u.choices = s.choices)
    (ha : ∀ x, isAbsent u x = isAbsent s x) (hl : (u.side.get sd).lock = (s.side.get sd).lock)
    (hn : NoticesMade before s u) (hs : stateOf u sd ≠ .absent) :
    LockoutHandsOn s.choices before sd c r (stateOf u sd) s (enterLockout sd c r u) := by
  have hf := still_fields (enterLockout_still sd c r u)
  let s1 := modSide sd (SideRecord.lockedOut c) u
  let s2 := if (stateOf u sd).lights then queueRecord (.trip (tripRecordOf sd r u)) (immediateCut sd s1) else s1
  have h2 : s2.side = s1.side ∧ s2.msg = u.msg ∧ s2.position = u.position := by
    refine ⟨?_, ?_, ?_⟩ <;> dsimp only [s2] <;> split
    · simp
    · rfl
    · simp [s1]
    · rfl
    · exact (still_fields (by simp [s1] : still (queueRecord (.trip (tripRecordOf sd r u)) (immediateCut sd s1)) = still u)).2.1
    · rfl
  have hr : s2.side.get sd = (u.side.get sd).lockedOut c := by rw [h2.1]; simp [s1]
  have hlk : lockRecordOf sd s2 = lockedRecord sd c s := by
    unfold lockRecordOf lockedRecord; rw [hr, ← hl]; rfl
  have e : enterLockout sd c r u = sideNotice 114 sd c .lockout (queueRecord (lockRecordOf sd s2) s2) := rfl
  have hab : ∀ x, isAbsent (queueRecord (lockRecordOf sd s2) s2) x = isAbsent s x := by
    intro x
    rw [← ha x]
    refine isAbsent_of (sd := sd) ?_ hs ?_ x
    · rw [queueRecord_side, h2.1]; simp [s1]
    · unfold stateOf; rw [queueRecord_side, hr]; simp [SideRecord.lockedOut]
  refine ⟨?_, ?_⟩
  · rw [tripRecordAt_of hf.2.2.2.2.1 hf.2.2.2.2.2.2.1 hf.2.2.2.2.2.2.2.1 hf.2.2.2.2.2.2.2.2.1, e]
    show RecordsHanded s.choices _ s (queueRecord (lockRecordOf sd s2) s2)
    rw [hlk]
    cases hli : (stateOf u sd).lights with
    | true =>
      have e2 : s2 = queueRecord (.trip (tripRecordOf sd r u)) (immediateCut sd s1) := by dsimp only [s2]; rw [hli]; rfl
      have hi := still_fields (immediateCut_still sd s1)
      rw [e2]
      exact RecordsHanded.next
        (RecordsHanded.first _ (by exact hc) (by exact hch) (by rw [hi.2.2.1]; exact ht)
          (by rw [hi.2.1]; exact hp) (by rw [hi.2.2.2.2.2.2.1]; exact htab)) _ rfl
    | false =>
      have e2 : s2 = s1 := by dsimp only [s2]; rw [hli]; rfl
      rw [e2]
      exact RecordsHanded.first _ (by exact hc) (by exact hch) (by exact ht) (by exact hp) (by exact htab)
  · rw [e]
    refine NoticesMade.next ?_ 114 sd c .lockout ?_ hab
    · exact hn.congr rfl (by rw [queueRecord_msg, h2.2.1]) rfl (fun _ => rfl)
    · rw [(still_fields (queueRecord_still (lockRecordOf sd s2) s2)).2.1, h2.2.2, hp]

/-- The exit of a lit side to DARK or HOLD (R75, R76). -/
theorem litExit_handsOn {before : List Made} {sd : Side} {s u : State} (c : Cause) (e : SideState)
    (f : SideRecord → SideRecord) (h : Alike sd s u) (hn : NoticesMade before s u)
    (hs : stateOf u sd ≠ .absent) (hf : (f (u.side.get sd)).state ≠ .absent) :
    RecordsHanded s.choices [tripRecordAt sd c (stateOf u sd) (litExit sd c e f u)] s (litExit sd c e f u) ∧
      NoticesMade (before ++ [⟨112, some sd, c, e⟩]) s (litExit sd c e f u) := by
  have hfl := still_fields (litExit_still sd c e f u)
  let s1 := immediateCut sd (modSide sd f u)
  have hi := still_fields (by simp [s1] : still s1 = still u)
  have hq := still_fields (by simp [s1] : still (queueRecord (.trip (tripRecordOf sd c u)) s1) = still u)
  have e1 : litExit sd c e f u = sideNotice 112 sd c e (queueRecord (.trip (tripRecordOf sd c u)) s1) := rfl
  refine ⟨?_, ?_⟩
  · rw [tripRecordAt_of hfl.2.2.2.2.1 hfl.2.2.2.2.2.2.1 hfl.2.2.2.2.2.2.2.1 hfl.2.2.2.2.2.2.2.2.1, e1]
    exact RecordsHanded.first (u := s1) _ (by exact h.ctl) (by exact h.choices) (by rw [hi.2.2.1]; exact h.time)
      (by rw [hi.2.1]; exact h.position) (by rw [hi.2.2.2.2.2.2.1]; exact h.tab)
  · rw [e1]
    refine NoticesMade.next ?_ 112 sd c e ?_ ?_
    · exact hn.congr rfl (by rw [queueRecord_msg]; rfl) rfl (fun _ => rfl)
    · rw [hq.2.1, h.position]
    · intro x; rw [← h.absent x]
      refine isAbsent_of (sd := sd) ?_ hs ?_ x
      · rw [queueRecord_side]; simp [s1]
      · unfold stateOf; rw [queueRecord_side]; simp only [s1, immediateCut_side, modSide_side, Sides.get_set]; exact hf

/-- What is handed on is read off the Store Controller, the messages and the measures alone. -/
theorem RecordsHanded.to {ch : Choices} {l : List StoreRecord} {s t v : State} (h : RecordsHanded ch l s t)
    (hv : v.ctl = t.ctl) : RecordsHanded ch l s v := h.congr rfl hv rfl rfl rfl
theorem NoticesMade.to {l : List Made} {s t v : State} (h : NoticesMade l s t) (hv : v.msg = t.msg) :
    NoticesMade l s v := h.congr rfl hv rfl (fun _ => rfl)

theorem tripRecordAt_still {sd : Side} {c : Cause} {x : SideState} {t v : State} (h : still v = still t) :
    tripRecordAt sd c x v = tripRecordAt sd c x t := by
  have hf := still_fields h
  have e1 : rxValue v sd = rxValue t sd := by unfold rxValue rxInput latestOf; rw [hf.2.2.2.2.2.2.1, hf.2.2.2.2.2.2.2.1]
  have e2 : txReading v sd = txReading t sd := by unfold txReading latestOf; rw [hf.2.2.2.2.2.2.1, hf.2.2.2.2.2.2.2.1]
  unfold tripRecordAt; rw [e1, e2, hf.2.2.2.2.1, hf.2.2.2.2.2.2.2.2.1]

theorem LockoutHandsOn.to {ch : Choices} {before : List Made} {sd : Side} {c r : Cause} {x : SideState} {s t v : State}
    (h : LockoutHandsOn ch before sd c r x s t) (hs : still v = still t) (hc : v.ctl = t.ctl) (hm : v.msg = t.msg) :
    LockoutHandsOn ch before sd c r x s v := by
  unfold LockoutHandsOn at *
  rw [tripRecordAt_still hs]
  exact ⟨h.1.to hc, h.2.to hm⟩

theorem TripHandsOn.to {ch : Choices} {before : List Made} {sd : Side} {c : Cause} {x : SideState} {s t v : State}
    (h : TripHandsOn ch before sd c x s t) (hs : still v = still t) (hc : v.ctl = t.ctl) (hm : v.msg = t.msg) :
    TripHandsOn ch before sd c x s v := by
  unfold TripHandsOn at *; dsimp only at *
  rw [tripRecordAt_still hs]
  exact ⟨fun y => (h.1 y).to hs hc hm, fun y => ⟨(h.2 y).1.to hc, (h.2 y).2.to hm⟩⟩

/-- A trip of a side in PROBE, RAMP or RUN hands on its record and its notice (R72, R75 to R77). -/
theorem tripLit_handsOn {before : List Made} {sd : Side} {s u : State} (c : Cause) (h : Alike sd s u)
    (hn : NoticesMade before s u) (hs : stateOf u sd ∈ [.probe, .ramp, .run])
    (hk : (u.side.get sd).counts = true ↔ (stateOf u sd ≠ .run ∨ (u.side.get sd).proving ≠ none)) :
    TripHandsOn s.choices before sd c (stateOf u sd) s (tripLit sd c u) := by
  have ha : stateOf u sd ≠ .absent := by
    intro e; rw [e] at hs; simp at hs
  have hlen : ((u.side.get sd).failures ++ [u.time.uptime]).length = (s.side.get sd).failures.length + 1 := by
    rw [h.failures]; simp
  have hb : hdrBudget u.tab.tables = hdrBudget s.tab.tables := by rw [h.tab]
  have exit : ∀ (f : SideRecord → SideRecord), (f (u.side.get sd)).state = .dark →
      RecordsHanded s.choices [tripRecordAt sd c (stateOf u sd) (onToHold sd (litExit sd c .dark f u))] s
        (onToHold sd (litExit sd c .dark f u)) ∧
      NoticesMade (before ++ [⟨112, some sd, c, .dark⟩]) s (onToHold sd (litExit sd c .dark f u)) := by
    intro f hf
    obtain ⟨x, y⟩ := litExit_handsOn (s := s) c .dark f h hn ha (by rw [hf]; simp)
    rw [tripRecordAt_still (onToHold_still sd (litExit sd c .dark f u))]
    exact ⟨x.to (by unfold onToHold; split <;> rfl), y.to (onToHold_msg ..)⟩
  unfold TripHandsOn; dsimp only
  rw [← h.counted, ← hk]
  by_cases hc : (u.side.get sd).counts = true
  · by_cases hl : ((u.side.get sd).failures ++ [u.time.uptime]).length < hdrBudget u.tab.tables
    · have e : tripLit sd c u = onToHold sd (litExit sd c .dark (fun r =>
          { r.darkened c (restartInterval u) with failures := (u.side.get sd).failures ++ [u.time.uptime] }) u) := by
        unfold tripLit; dsimp only; rw [if_pos hc, if_pos hl]
      rw [hlen, hb] at hl
      refine ⟨fun y => absurd y.2 (by omega), fun _ => ?_⟩
      rw [e]; exact exit _ rfl
    · have e : tripLit sd c u = enterLockout sd .budget c
          (modSide sd (fun r => { r with failures := (u.side.get sd).failures ++ [u.time.uptime] }) u) := by
        unfold tripLit; dsimp only; rw [if_pos hc, if_neg hl]
      rw [hlen, hb] at hl
      refine ⟨fun _ => ?_, fun y => absurd ⟨hc, by omega⟩ y⟩
      rw [e]
      let v := modSide sd (fun r => { r with failures := (u.side.get sd).failures ++ [u.time.uptime] }) u
      have hv : stateOf v sd = stateOf u sd := by simp [v, stateOf]
      have := enterLockout_handsOn (before := before) (sd := sd) (s := s) (u := v) .budget c h.time h.tab h.position h.ctl h.choices
        (fun x => by rw [← h.absent x]; exact isAbsent_of (sd := sd) (by simp [v]) ha (by rw [hv]; exact ha) x)
        (by simp [v]; exact h.lock) (hn.congr rfl rfl rfl (fun _ => rfl)) (by rw [hv]; exact ha)
      rw [hv] at this; exact this
  · have e : tripLit sd c u = onToHold sd (litExit sd c .dark (fun r => r.darkened c (tripRest u)) u) := by
      unfold tripLit; dsimp only; rw [if_neg hc]
    refine ⟨fun y => absurd y.1 hc, fun _ => ?_⟩
    rw [e]; exact exit _ rfl

end Sys2Proof.Machine
end

