-- ==== Sys2Proof/Laws/Pumps.lean ====
section
/-! SUPPORT. What the commands of the Pump Drive Unit do to the drives: a command to zero darkens its
channel and raises none (R114, R115); the cut of a side darkens every pump of the side (R69). -/

namespace Sys2Proof.Machine

/-- Drive levels after a change that raises none: each is as before or 0. -/
def Darker (u v : PumpUnit) : Prop := ∀ m, driveOf v m = driveOf u m ∨ driveOf v m = 0

theorem Darker.refl (u : PumpUnit) : Darker u u := fun _ => Or.inl rfl

theorem Darker.trans {u v w : PumpUnit} (h : Darker u v) (h' : Darker v w) : Darker u w := by
  intro m
  rcases h' m with e | e
  · rw [e]; exact h m
  · exact Or.inr e

/-- A dark channel stays dark. -/
theorem Darker.zero {u v : PumpUnit} (h : Darker u v) {m : Nat} (hm : driveOf u m = 0) : driveOf v m = 0 := by
  rcases h m with e | e
  · rw [e, hm]
  · exact e

@[simp] theorem startCheck_drive (t : TableMem) (n : Nat) (u : PumpUnit) : (startCheck t n u).drive = u.drive := by
  unfold startCheck; split
  · rfl
  · split <;> rfl

theorem getD_set_self (l : List Word16) (n : Nat) : (l.set n 0).getD n 0 = 0 := by
  by_cases h : n < l.length
  · simp [List.getD, h]
  · simp [List.getD, h]

theorem getD_set_ne (l : List Word16) {n m : Nat} (a : Word16) (h : m ≠ n) : (l.set n a).getD m 0 = l.getD m 0 := by
  simp [List.getD, List.getElem?_set_ne (Ne.symm h)]

/-- One channel brought to zero. -/
theorem zeroOne_drive (t : TableMem) (n m : Nat) (u : PumpUnit) :
    driveOf (zeroOne t n u) m = if m = n then 0 else driveOf u m := by
  unfold zeroOne; split
  · split
    · rename_i h hm; rw [hm, h]
    · rfl
  · simp only [driveOf, startCheck_drive]
    split
    · rename_i hm; subst hm; exact getD_set_self _ _
    · rename_i hm; exact getD_set_ne _ _ hm

theorem zeroOne_darker (t : TableMem) (n : Nat) (u : PumpUnit) : Darker u (zeroOne t n u) := by
  intro m; rw [zeroOne_drive]; split
  · exact Or.inr rfl
  · exact Or.inl rfl

theorem foldl_darker {α : Type} (f : PumpUnit → α → PumpUnit) (h : ∀ u a, Darker u (f u a)) (l : List α)
    (u : PumpUnit) : Darker u (l.foldl f u) := by
  induction l generalizing u with
  | nil => exact Darker.refl u
  | cons a l ih => exact (h u a).trans (ih _)

theorem zeroChain_darker (t : TableMem) (k n : Nat) (u : PumpUnit) : Darker u (zeroChain t k n u) := by
  induction k generalizing n u with
  | zero => exact zeroOne_darker t n u
  | succ k ih => exact (foldl_darker _ (fun u m => ih m u) _ u).trans (zeroOne_darker t n _)

/-- R114: a command to zero raises no drive. -/
theorem zeroPump_darker (t : TableMem) (n : Nat) (u : PumpUnit) : Darker u (zeroPump t n u) :=
  zeroChain_darker t 8 n u

/-- R114: a command to zero darkens its channel. -/
@[simp] theorem zeroPump_dark (t : TableMem) (n : Nat) (u : PumpUnit) : driveOf (zeroPump t n u) n = 0 := by
  rw [zeroPump, zeroChain, zeroOne_drive, if_pos rfl]

theorem zeroPumps_darker (t : TableMem) (l : List Nat) (u : PumpUnit) : Darker u (zeroPumps t l u) :=
  foldl_darker _ (fun u n => zeroPump_darker t n u) l u

theorem zeroPumps_dark (t : TableMem) {l : List Nat} {n : Nat} (h : n ∈ l) (u : PumpUnit) :
    driveOf (zeroPumps t l u) n = 0 := by
  induction l generalizing u with
  | nil => cases h
  | cons a l ih =>
    rcases List.mem_cons.1 h with rfl | h
    · exact (zeroPumps_darker t l _).zero (zeroPump_dark t n u)
    · exact ih h _

/-- A step command of a stepdown darkens its pump and raises none (R118). -/
theorem stepZero_darker (t : TableMem) (n : Nat) (l : List Nat) (u : PumpUnit) : Darker u (stepZero t n l u) := by
  refine Darker.trans (v := zeroPump t n u) (zeroPump_darker t n u) ?_
  unfold stepZero; dsimp only
  refine Darker.trans ?_ (zeroPumps_darker t l _)
  split
  · intro m; left; simp only [driveOf, startCheck_drive]
  · exact Darker.refl _

theorem stepZero_dark (t : TableMem) (n : Nat) (l : List Nat) (u : PumpUnit) : driveOf (stepZero t n l u) n = 0 := by
  unfold stepZero; dsimp only
  refine (zeroPumps_darker t l _).zero ?_
  split
  · simp only [driveOf, startCheck_drive]; exact zeroPump_dark t n u
  · exact zeroPump_dark t n u

/-- A raising command leaves every dark channel but its own dark (R114, R115). -/
theorem raisePump_others (t : TableMem) (b : Bool) (n : Nat) (v : Word16) (u : PumpUnit) {m : Nat} (hm : m ≠ n) :
    driveOf (raisePump t b n v u) m = driveOf u m ∨ driveOf (raisePump t b n v u) m = 0 := by
  unfold raisePump; split
  · left; exact getD_set_ne _ _ hm
  · exact zeroPump_darker t n u m

/-- R130: under the master cut latch nothing is raised. -/
theorem raisePump_latched (t : TableMem) (b : Bool) (n : Nat) (v : Word16) (u : PumpUnit) (h : u.latch = true) :
    raisePump t b n v u = zeroPump t n u := by
  unfold raisePump; simp [h]

/-- What no single-pump command changes: the stepdown sequences. -/
@[simp] theorem startCheck_stepdown (t : TableMem) (n : Nat) (u : PumpUnit) :
    (startCheck t n u).stepdown = u.stepdown := by
  unfold startCheck; split
  · rfl
  · split <;> rfl
@[simp] theorem zeroOne_stepdown (t : TableMem) (n : Nat) (u : PumpUnit) : (zeroOne t n u).stepdown = u.stepdown := by
  unfold zeroOne; split
  · rfl
  · rw [startCheck_stepdown]
theorem foldl_stepdown {α : Type} (f : PumpUnit → α → PumpUnit) (h : ∀ u a, (f u a).stepdown = u.stepdown)
    (l : List α) (u : PumpUnit) : (l.foldl f u).stepdown = u.stepdown := by
  induction l generalizing u with
  | nil => rfl
  | cons a l ih => rw [List.foldl_cons, ih, h]
@[simp] theorem zeroChain_stepdown (t : TableMem) (k n : Nat) (u : PumpUnit) :
    (zeroChain t k n u).stepdown = u.stepdown := by
  induction k generalizing n u with
  | zero => exact zeroOne_stepdown t n u
  | succ k ih => rw [zeroChain, zeroOne_stepdown, foldl_stepdown _ fun u m => ih m u]
@[simp] theorem zeroPump_stepdown (t : TableMem) (n : Nat) (u : PumpUnit) : (zeroPump t n u).stepdown = u.stepdown :=
  zeroChain_stepdown t 8 n u
@[simp] theorem zeroPumps_stepdown (t : TableMem) (l : List Nat) (u : PumpUnit) :
    (zeroPumps t l u).stepdown = u.stepdown := foldl_stepdown _ (fun u n => zeroPump_stepdown t n u) l u
@[simp] theorem raisePump_stepdown (t : TableMem) (b : Bool) (n : Nat) (v : Word16) (u : PumpUnit) :
    (raisePump t b n v u).stepdown = u.stepdown := by
  unfold raisePump; split
  · rfl
  · exact zeroPump_stepdown t n u

/-! ### The cut of a side -/

/-- R69: every pump of the side is dark. -/
theorem immediateCut_dark (sd : Side) (s : State) {n : Nat} (h : n ∈ pumpsUp s.tab sd) :
    driveOf (immediateCut sd s).pdu n = 0 :=
  zeroPumps_dark s.tab (List.mem_reverse.2 h) s.pdu

theorem immediateCut_darker (sd : Side) (s : State) : Darker s.pdu (immediateCut sd s).pdu :=
  fun m => zeroPumps_darker s.tab (pumpsDown s.tab sd) s.pdu m

/-- R121: the side's stepdown sequence ends. -/
@[simp] theorem immediateCut_stepdown (sd : Side) (s : State) :
    (immediateCut sd s).pdu.stepdown = s.pdu.stepdown.set sd none := by
  simp only [immediateCut, onPdu, zeroPumps_stepdown]

/-! ### The pumps a side's event of the other side can light -/

theorem mem_ascending {t : TableMem} {keep : PumpEntry → Bool} {n : Nat} (h : n ∈ ascending t keep) :
    assigned t n = true ∧ keep (planOf t n) = true := by
  simp only [ascending, List.mem_flatMap, List.mem_filter, Bool.and_eq_true] at h
  obtain ⟨o, -, -, ⟨h1, -⟩, h3⟩ := h
  exact ⟨h1, h3⟩

/-- A pump belongs to one side. -/
theorem pumpsUp_side {t : TableMem} {sd : Side} {n : Nat} (h : n ∈ pumpsUp t sd) : (planOf t n).side = sd := by
  have := (mem_ascending h).2
  simpa using this

/-- The lead's judgment leaves the dark pumps of the West side dark. -/
theorem leadJudge_west_dark (s : State) {n : Nat} (h : n ∈ pumpsUp s.tab .west) (hd : driveOf s.pdu n = 0) :
    driveOf (leadJudge s).pdu n = 0 := by
  have raise : ∀ (l : List Nat) (b : Bool) (f : Nat → Word16) (u : PumpUnit), (∀ m ∈ l, m ≠ n) → driveOf u n = 0 →
      driveOf (l.foldl (fun u n => raisePump s.tab b n (f n) u) u) n = 0 := by
    intro l b f
    induction l with
    | nil => intro u _ hu; exact hu
    | cons a l ih =>
      intro u hl hu
      refine ih _ (fun m hm => hl m (List.mem_cons_of_mem _ hm)) ?_
      rcases raisePump_others s.tab b a (f a) u (Ne.symm (hl a (List.mem_cons_self ..))) with e | e
      · rw [e]; exact hu
      · exact e
  have ne : ∀ m ∈ probeLit s.tab .east, m ≠ n := by
    intro m hm hmn
    have h1 := pumpsUp_side (List.mem_of_mem_filter hm)
    have h2 := pumpsUp_side h
    rw [hmn, h2] at h1
    cases h1
  unfold leadJudge; split
  · unfold judgeProbe; split
    · unfold enterProbe; dsimp only; split
      · exact raise _ _ _ _ ne hd
      · exact hd
    · exact hd
  · split
    · exact hd
    · split
      · exact (zeroPumps_darker s.tab _ s.pdu).zero hd
      · exact hd
  all_goals exact hd

@[simp] theorem leadJudge_stepdown (s : State) : (leadJudge s).pdu.stepdown = s.pdu.stepdown := by
  unfold leadJudge; split
  · unfold judgeProbe; split
    · unfold enterProbe; dsimp only; split
      · exact foldl_stepdown _ (fun u n => raisePump_stepdown ..) _ _
      · rfl
    · rfl
  · split
    · rfl
    · split
      · exact zeroPumps_stepdown ..
      · rfl
  all_goals rfl

/-! ### Raises that nothing stands against, and the channels of the other side -/

/-- The channels of a plan stand once each in ascending order. -/
theorem ascending_nodup (t : TableMem) (keep : PumpEntry → Bool) : (ascending t keep).Nodup := by
  unfold ascending
  refine List.nodup_flatMap.2 ⟨fun o _ => (by decide : eight.Nodup).filter _, ?_⟩
  refine List.Pairwise.imp (R := (· ≠ ·)) ?_ (by decide)
  intro a b hab n ha hb
  simp only [List.mem_filter, Bool.and_eq_true, beq_iff_eq] at ha hb
  exact hab (ha.2.1.2.symm.trans hb.2.1.2)

theorem ascending_sorted (t : TableMem) (keep : PumpEntry → Bool) :
    (ascending t keep).Pairwise fun a b => (planOf t a).order ≤ (planOf t b).order := by
  have ho : ∀ {o n : Nat}, n ∈ (eight.filter fun n => assigned t n && (planOf t n).order == o && keep (planOf t n)) →
      (planOf t n).order = o := fun h => by
    simp only [List.mem_filter, Bool.and_eq_true, beq_iff_eq] at h; exact h.2.1.2
  unfold ascending
  refine List.pairwise_flatMap.2 ⟨fun o _ => ?_, ?_⟩
  · exact List.pairwise_of_forall_mem_list fun a ha b hb => by rw [ho ha, ho hb]
  · refine List.Pairwise.imp (R := (· ≤ ·)) (fun {o o'} h a ha b hb => ?_) (by decide)
    rw [ho ha, ho hb]; exact h

theorem mem_pumpsUp_lt {t : TableMem} {sd : Side} {n : Nat} (h : n ∈ pumpsUp t sd) : n < 8 := by
  have := (mem_ascending h).1
  unfold assigned at this
  simp only [Bool.and_eq_true, decide_eq_true_eq] at this
  exact this.1.2

/-- R114, R115: a raising command that nothing stands against. -/
theorem raisePump_raises (t : TableMem) {n : Nat} {v : Word16} (u : PumpUnit) (h1 : u.latch = false)
    (h2 : assigned t n = true) (h3 : ∀ q, (planOf t n).prereq = some q → driveOf u q ≠ 0) (h4 : v ≠ 0) :
    raisePump t true n v u = { u with drive := u.drive.set n v, checks := u.checks.set n none } := by
  have hp : prereqDark t n u = false := by
    unfold prereqDark; split
    · rfl
    · rename_i q e; exact beq_false_of_ne (h3 q e)
  have : (true && !u.latch && assigned t n && !prereqDark t n u && v != 0) = true := by
    rw [h1, h2, hp]; exact bne_iff_ne.2 h4
  unfold raisePump; rw [if_pos this]

theorem getD_set_eq (l : List Word16) {n : Nat} (a : Word16) (h : n < l.length) : (l.set n a).getD n 0 = a := by
  simp [List.getD, h]

/-- R97, R114, R115: a probe command in ascending order, over pumps whose prerequisites stand above zero or are lit
before them, brings each to its probe drive and moves no other channel. -/
theorem probe_raises (t : TableMem) (l : List Nat) (hn : l.Nodup)
    (hs : l.Pairwise fun a b => (planOf t a).order ≤ (planOf t b).order)
    (hl : ∀ n ∈ l, n < 8 ∧ assigned t n = true ∧ (planOf t n).probe ≠ 0)
    (u : PumpUnit) (h1 : u.latch = false) (h2 : u.drive.length = 8)
    (hq : ∀ n ∈ l, ∀ q, (planOf t n).prereq = some q →
      (q ∈ l ∧ (planOf t q).order < (planOf t n).order) ∨ driveOf u q ≠ 0) :
    (∀ n ∈ l, driveOf (l.foldl (fun u n => raisePump t true n (planOf t n).probe u) u) n = (planOf t n).probe) ∧
    ∀ m, m ∉ l → driveOf (l.foldl (fun u n => raisePump t true n (planOf t n).probe u) u) m = driveOf u m := by
  induction l generalizing u with
  | nil => exact ⟨fun n h => (nomatch h), fun _ _ => rfl⟩
  | cons a l ih =>
    obtain ⟨h8, ha, hz⟩ := hl a (List.mem_cons_self ..)
    obtain ⟨hs1, hs2⟩ := List.pairwise_cons.1 hs
    obtain ⟨hn1, hn2⟩ := List.nodup_cons.1 hn
    have hp : ∀ q, (planOf t a).prereq = some q → driveOf u q ≠ 0 := fun q e => by
      rcases hq a (List.mem_cons_self ..) q e with ⟨x, y⟩ | x
      · rcases List.mem_cons.1 x with rfl | x
        · exact absurd y (Nat.lt_irrefl _)
        · exact absurd y (Nat.not_lt.2 (hs1 q x))
      · exact x
    rw [List.foldl_cons, raisePump_raises t u h1 ha hp hz]
    have da : driveOf { u with drive := u.drive.set a (planOf t a).probe, checks := u.checks.set a none } a =
        (planOf t a).probe := getD_set_eq _ _ (by rw [h2]; exact h8)
    have dm : ∀ m, m ≠ a →
        driveOf { u with drive := u.drive.set a (planOf t a).probe, checks := u.checks.set a none } m = driveOf u m :=
      fun m hm => getD_set_ne _ _ hm
    obtain ⟨i1, i2⟩ := ih hn2 hs2 (fun n h => hl n (List.mem_cons_of_mem _ h))
      { u with drive := u.drive.set a (planOf t a).probe, checks := u.checks.set a none } h1 (by simp [h2]) (by
        intro n h q e
        by_cases hqa : q = a
        · right; rw [hqa, da]; exact hz
        · rcases hq n (List.mem_cons_of_mem _ h) q e with ⟨x, y⟩ | x
          · exact Or.inl ⟨(List.mem_cons.1 x).resolve_left hqa, y⟩
          · right; rw [dm q hqa]; exact x)
    refine ⟨fun n h => ?_, fun m hm => ?_⟩
    · rcases List.mem_cons.1 h with rfl | h
      · rw [i2 n hn1, da]
      · exact i1 n h
    · rw [i2 m (fun h => hm (List.mem_cons_of_mem _ h)), dm m (fun h => hm (h ▸ List.mem_cons_self ..))]

/-- A channel's drive and its extinction check stand as before. -/
def SameAt (m : Nat) (u v : PumpUnit) : Prop := driveOf v m = driveOf u m ∧ checkOf v m = checkOf u m

theorem SameAt.refl (m : Nat) (u : PumpUnit) : SameAt m u u := ⟨rfl, rfl⟩

theorem SameAt.trans {m : Nat} {u v w : PumpUnit} (h : SameAt m u v) (k : SameAt m v w) : SameAt m u w :=
  ⟨k.1.trans h.1, k.2.trans h.2⟩

theorem check_set_ne (l : List (Option Check)) {n m : Nat} (a : Option Check) (h : m ≠ n) :
    (l.set n a).getD m none = l.getD m none := by
  simp [List.getD, List.getElem?_set_ne (Ne.symm h)]

theorem check_set_none (l : List (Option Check)) (n : Nat) : (l.set n none).getD n none = none := by
  by_cases h : n < l.length
  · simp [List.getD, h]
  · simp [List.getD, h]

theorem startCheck_at (t : TableMem) {n m : Nat} (u : PumpUnit) (h : m ≠ n) : SameAt m u (startCheck t n u) := by
  unfold startCheck; split
  · exact SameAt.refl m u
  · split
    · exact SameAt.refl m u
    · exact ⟨rfl, check_set_ne _ _ h⟩

theorem zeroOne_at (t : TableMem) {n m : Nat} (u : PumpUnit) (h : m ≠ n) : SameAt m u (zeroOne t n u) := by
  unfold zeroOne; split
  · exact SameAt.refl m u
  · exact SameAt.trans (v := { u with drive := u.drive.set n 0 }) ⟨getD_set_ne _ _ h, rfl⟩ (startCheck_at t _ h)

theorem foldl_at {α : Type} {m : Nat} (f : PumpUnit → α → PumpUnit) (l : List α)
    (h : ∀ a ∈ l, ∀ u, SameAt m u (f u a)) (u : PumpUnit) : SameAt m u (l.foldl f u) := by
  induction l generalizing u with
  | nil => exact SameAt.refl m u
  | cons a l ih =>
    exact (h a (List.mem_cons_self ..) u).trans (ih (fun b hb => h b (List.mem_cons_of_mem _ hb)) _)

/-- Under prerequisites within a side, a command to zero reaches no channel of the other side (R115). -/
theorem zeroChain_at {t : TableMem} (hp : PrereqsOwn t) (k : Nat) {n m : Nat} (u : PumpUnit)
    (h : (planOf t n).side ≠ (planOf t m).side) : SameAt m u (zeroChain t k n u) := by
  induction k generalizing n u with
  | zero => exact zeroOne_at t u (fun e => h (by rw [e]))
  | succ k ih =>
    refine (foldl_at _ _ (fun d hd v => ?_) u).trans (zeroOne_at t _ (fun e => h (by rw [e])))
    have hd' := mem_ascending (List.mem_of_mem_filter (List.mem_reverse.1 hd))
    refine ih v ?_
    rw [← hp d n hd'.1 (by simpa using hd'.2)]; exact h

theorem zeroPumps_at {t : TableMem} (hp : PrereqsOwn t) {m : Nat} (l : List Nat)
    (h : ∀ n ∈ l, (planOf t n).side ≠ (planOf t m).side) (u : PumpUnit) : SameAt m u (zeroPumps t l u) :=
  foldl_at _ l (fun n hn v => zeroChain_at hp 8 v (h n hn)) u

theorem raisePump_at {t : TableMem} (hp : PrereqsOwn t) {b : Bool} {n m : Nat} {v : Word16} (u : PumpUnit)
    (h : (planOf t n).side ≠ (planOf t m).side) : SameAt m u (raisePump t b n v u) := by
  unfold raisePump; split
  · have hm : m ≠ n := fun e => h (by rw [e])
    exact ⟨getD_set_ne _ _ hm, check_set_ne _ _ hm⟩
  · exact zeroChain_at hp 8 u h

/-- Under prerequisites within a side, the lead's judgment leaves the pumps of the West side as they stand. -/
theorem leadJudge_west_at (s : State) (hp : PrereqsOwn s.tab) {n : Nat} (h : n ∈ pumpsUp s.tab .west) :
    SameAt n s.pdu (leadJudge s).pdu := by
  have ne : ∀ m ∈ probeLit s.tab .east, (planOf s.tab m).side ≠ (planOf s.tab n).side := fun m hm => by
    rw [pumpsUp_side (List.mem_of_mem_filter hm), pumpsUp_side h]; decide
  unfold leadJudge; split
  · unfold judgeProbe; split
    · unfold enterProbe; dsimp only; split
      · exact foldl_at _ _ (fun a ha v => raisePump_at hp v (ne a ha)) _
      · exact SameAt.refl _ _
    · exact SameAt.refl _ _
  · split
    · exact SameAt.refl _ _
    · split
      · exact zeroPumps_at hp _ (fun a ha => ne a (List.mem_reverse.1 ha)) _
      · exact SameAt.refl _ _
  all_goals exact SameAt.refl _ _

end Sys2Proof.Machine
end

