-- ==== Sys2Proof/Laws/Handshake.lean ====
section
/-! SUPPORT. What a trip and a far report do to their side, in the words of the statements (R49, R61 to R72, R83 to
R111). -/

namespace Sys2Proof.Machine

/-! ### Trips -/

theorem litExit_dark (sd : Side) (c : Cause) (e : SideState) (f : SideRecord → SideRecord) (s : State) {n : Nat}
    (h : n ∈ pumpsUp s.tab sd) : driveOf (litExit sd c e f s).pdu n = 0 := by
  simp only [litExit, sideNotice_pdu, queueRecord_pdu]
  exact immediateCut_dark sd (modSide sd f s) h

@[simp] theorem litExit_stepdown (sd : Side) (c : Cause) (e : SideState) (f : SideRecord → SideRecord) (s : State) :
    (litExit sd c e f s).pdu.stepdown.get sd = none := by
  simp [litExit]

theorem enterLockout_dark (sd : Side) (c r : Cause) (s : State) (hl : (stateOf s sd).lights = true) {n : Nat}
    (h : n ∈ pumpsUp s.tab sd) : driveOf (enterLockout sd c r s).pdu n = 0 := by
  simp only [enterLockout, hl, if_true, sideNotice_pdu, queueRecord_pdu]
  exact immediateCut_dark sd (modSide sd (SideRecord.lockedOut c) s) h

theorem enterLockout_stepdown (sd : Side) (c r : Cause) (s : State) (hl : (stateOf s sd).lights = true) :
    (enterLockout sd c r s).pdu.stepdown.get sd = none := by
  simp [enterLockout, hl]

theorem litExit_view (sd : Side) (c : Cause) (e : SideState) (f : SideRecord → SideRecord) (s : State) :
    (litExit sd c e f s).hold.view = s.hold.view := by
  have h := litExit_still sd c e f s
  simp only [still, Still.mk.injEq] at h
  simp_all

theorem lights_of_trips {s : State} {sd : Side} (h : stateOf s sd ∈ [.probe, .ramp, .run]) :
    (stateOf s sd).lights = true := by
  simp only [List.mem_cons, List.not_mem_nil, or_false] at h
  rcases h with e | e | e <;> rw [e] <;> rfl

theorem counts_iff {s : State} {sd : Side} (h : stateOf s sd ∈ [.probe, .ramp, .run]) :
    (s.side.get sd).counts = true ↔ (stateOf s sd ≠ .run ∨ (s.side.get sd).proving ≠ none) := by
  simp only [List.mem_cons, List.not_mem_nil, or_false, stateOf] at h
  rcases h with e | e | e <;> simp [SideRecord.counts, stateOf, e, Option.isSome_iff_ne_none]

/-- A lit side's exit to DARK under a cause, on to HOLD under a hold. -/
theorem litExit_rests (sd : Side) (c : Cause) (n : Nat) (f : SideRecord → SideRecord) (s : State) (list : List Word32)
    (hf : f (s.side.get sd) = { (s.side.get sd).darkened c n with failures := list }) :
    let t := onToHold sd (litExit sd c .dark f s)
    RestsWith sd c n s t ∧ (t.side.get sd).failures = list ∧ (t.side.get sd).lock = (s.side.get sd).lock ∧
      Extinguished sd s t := by
  dsimp only
  have ht : (litExit sd c .dark f s).hold = s.hold := (still_fields (litExit_still sd c .dark f s)).2.2.2.2.2.2.2.2.1
  have hd : ∀ m ∈ pumpsUp s.tab sd, driveOf (litExit sd c .dark f s).pdu m = 0 := fun m hm => litExit_dark sd c _ f s hm
  have hr : (onToHold sd (litExit sd c .dark f s)).side.get sd =
      if s.hold.view = 0 then f (s.side.get sd) else (f (s.side.get sd)).held := by
    rw [onToHold_own, litExit_own, ht]
    have hs : stateOf (litExit sd c .dark f s) sd = .dark := by rw [stateOf, litExit_own, hf]; rfl
    by_cases hv : s.hold.view = 0 <;> simp [hs, hv]
  unfold RestsWith Extinguished stateOf
  rw [hr, onToHold_pdu]
  by_cases hv : s.hold.view = 0
  · rw [if_pos hv, if_pos hv, if_pos hv, if_pos hv, hf]
    exact ⟨⟨rfl, rfl, rfl⟩, rfl, rfl, rfl, rfl, rfl, rfl, rfl, rfl, rfl, rfl, rfl, rfl, rfl, rfl, hd, litExit_stepdown ..⟩
  · rw [if_neg hv, if_neg hv, if_neg hv, if_neg hv, hf]
    exact ⟨⟨rfl, rfl, rfl⟩, rfl, rfl, rfl, rfl, rfl, rfl, rfl, rfl, rfl, rfl, rfl, rfl, rfl, rfl, hd, litExit_stepdown ..⟩

/-- The trip of a side in PROBE, RAMP or RUN (R61, R69 to R72). -/
theorem tripLit_tripped (sd : Side) (c : Cause) (s : State) (h : stateOf s sd ∈ [.probe, .ramp, .run]) :
    Tripped sd c s (tripLit sd c s) := by
  have hl := lights_of_trips h
  have hc := counts_iff h
  unfold Tripped; dsimp only; rw [← hc]
  by_cases hk : (s.side.get sd).counts = true
  · by_cases hb : ((s.side.get sd).failures ++ [s.time.uptime]).length < hdrBudget s.tab.tables
    · have e : tripLit sd c s = onToHold sd (litExit sd c .dark (fun r =>
          { r.darkened c (restartInterval s) with failures := (s.side.get sd).failures ++ [s.time.uptime] }) s) := by
        unfold tripLit; dsimp only; rw [if_pos hk, if_pos hb]
      rw [e]
      obtain ⟨a, b, d, x⟩ := litExit_rests sd c (restartInterval s) (fun r =>
          { r.darkened c (restartInterval s) with failures := (s.side.get sd).failures ++ [s.time.uptime] }) s _ rfl
      exact ⟨fun _ _ => ⟨a, b, d⟩, fun _ hb' => absurd hb (Nat.not_lt.2 hb'), fun hn => absurd hk hn, x⟩
    · have e : tripLit sd c s = enterLockout sd .budget c
          (modSide sd (fun r => { r with failures := (s.side.get sd).failures ++ [s.time.uptime] }) s) := by
        unfold tripLit; dsimp only; rw [if_pos hk, if_neg hb]
      rw [e]
      refine ⟨fun _ hb' => absurd hb' hb, fun _ _ => ?_, fun hn => absurd hk hn, ?_⟩
      · simp [stateOf, SideRecord.lockedOut, SideRecord.cleared, LockRecord.entered]
      · have hl' : (stateOf (modSide sd (fun r => { r with failures := (s.side.get sd).failures ++ [s.time.uptime] }) s)
            sd).lights = true := by simpa [stateOf] using hl
        refine ⟨?_, ?_, ?_, ?_, ?_, ?_, ?_, ?_, ?_, ?_, ?_, ?_, fun n hn => enterLockout_dark sd _ _ _ hl' hn,
          enterLockout_stepdown sd _ _ _ hl'⟩ <;>
          simp [SideRecord.lockedOut, SideRecord.cleared, Agreement.left]
  · have e : tripLit sd c s = onToHold sd (litExit sd c .dark (fun r => r.darkened c (tripRest s)) s) := by
      unfold tripLit; dsimp only; rw [if_neg hk]
    rw [e]
    obtain ⟨a, b, d, x⟩ := litExit_rests sd c (tripRest s) (fun r => r.darkened c (tripRest s)) s
      (s.side.get sd).failures rfl
    exact ⟨fun hp => absurd hp hk, fun hp => absurd hp hk, fun _ => ⟨a, b, d⟩, x⟩

/-- The same with what it hands on. -/
theorem tripLit_trips (sd : Side) (c : Cause) (s : State) (h : stateOf s sd ∈ [.probe, .ramp, .run]) :
    Trips s.choices sd c s (tripLit sd c s) :=
  ⟨tripLit_tripped sd c s h, tripLit_handsOn c (Alike.refl sd s) (NoticesMade.none rfl) h (counts_iff h)⟩

/-- What a trip says of a state, it says of its side and its side's pumps alone. -/
theorem Tripped.congr {sd : Side} {c : Cause} {s t u : State} (h : Tripped sd c s t)
    (hr : u.side.get sd = t.side.get sd)
    (hd : ∀ n ∈ pumpsUp s.tab sd, driveOf t.pdu n = 0 → driveOf u.pdu n = 0)
    (hp : u.pdu.stepdown.get sd = t.pdu.stepdown.get sd) : Tripped sd c s u := by
  unfold Tripped RestsWith Extinguished stateOf at *
  rw [hr, hp]
  obtain ⟨a, b, d, e⟩ := h
  exact ⟨a, b, d, e.1, e.2.1, e.2.2.1, e.2.2.2.1, e.2.2.2.2.1, e.2.2.2.2.2.1, e.2.2.2.2.2.2.1, e.2.2.2.2.2.2.2.1,
    e.2.2.2.2.2.2.2.2.1, e.2.2.2.2.2.2.2.2.2.1, e.2.2.2.2.2.2.2.2.2.2.1, e.2.2.2.2.2.2.2.2.2.2.2.1,
    fun n hn => hd n hn (e.2.2.2.2.2.2.2.2.2.2.2.2.1 n hn), e.2.2.2.2.2.2.2.2.2.2.2.2.2⟩

theorem Trips.congr {ch : Choices} {sd : Side} {c : Cause} {s t u : State} (h : Trips ch sd c s t)
    (hr : u.side.get sd = t.side.get sd)
    (hd : ∀ n ∈ pumpsUp s.tab sd, driveOf t.pdu n = 0 → driveOf u.pdu n = 0)
    (hp : u.pdu.stepdown.get sd = t.pdu.stepdown.get sd) (hs : still u = still t) (hc : u.ctl = t.ctl)
    (hm : u.msg = t.msg) : Trips ch sd c s u :=
  ⟨h.1.congr hr hd hp, h.2.to hs hc hm⟩

/-- The lead's judgment changes neither what no event changes, nor the messages, nor the Store Controller. -/
theorem sideEvent_hands (f : Side → State → State) (sd : Side) (s : State) :
    still (sideEvent f sd s) = still (f sd s) ∧ (sideEvent f sd s).ctl = (f sd s).ctl ∧
      (sideEvent f sd s).msg = (f sd s).msg := by
  unfold sideEvent; dsimp only; split <;> simp

/-- The lead's judgment after an event of the West side darkens no less and ends no sequence. -/
theorem sideEvent_pumps (f : Side → State → State) (sd : Side) (s : State) (ht : (f sd s).tab = s.tab) :
    (∀ n ∈ pumpsUp s.tab sd, driveOf (f sd s).pdu n = 0 → driveOf (sideEvent f sd s).pdu n = 0) ∧
      (sideEvent f sd s).pdu.stepdown = (f sd s).pdu.stepdown := by
  unfold sideEvent; dsimp only; split
  · rename_i h; obtain ⟨rfl, -⟩ := h
    exact ⟨fun n hn hd => leadJudge_west_dark _ (by rw [ht]; exact hn) hd, leadJudge_stepdown _⟩
  · exact ⟨fun _ _ hd => hd, rfl⟩

/-- Under prerequisites within a side, it leaves the side's pumps as the event left them. -/
theorem sideEvent_at (f : Side → State → State) {sd : Side} (s : State) (hp : PrereqsOwn s.tab)
    (ht : (f sd s).tab = s.tab) {n : Nat} (hn : n ∈ pumpsUp s.tab sd) :
    SameAt n (f sd s).pdu (sideEvent f sd s).pdu := by
  unfold sideEvent; dsimp only; split
  · rename_i h; obtain ⟨rfl, -⟩ := h
    exact leadJudge_west_at _ (by rw [ht]; exact hp) (by rw [ht]; exact hn)
  · exact SameAt.refl ..

/-- The pumps of a side stand through its event as the event leaves them. -/
theorem sideEvent_own_pumps (f : Side → State → State) (sd : Side) (s : State) (ht : (f sd s).tab = s.tab) :
    sd = .east ∨ PrereqsOwn s.tab → ∀ n ∈ pumpsUp s.tab sd, SameAt n (f sd s).pdu (sideEvent f sd s).pdu := by
  rintro (rfl | hp) n hn
  · exact SameAt.refl ..
  · exact sideEvent_at f s hp ht hn

/-- A trip cause that acts in LISTEN too, at its side (R57, R61, R63). -/
theorem tripEvent_took (sd : Side) (c : Cause) (s : State) : TookTrip s.choices sd c s (tripEvent c sd s) := by
  refine ⟨fun h => ?_, fun h => ?_⟩
  · have e : tripEvent c sd s = leaveListen sd c (tripRest s) s := by unfold tripEvent; rw [h]
    have hr : (tripEvent c sd s).side.get sd =
        if s.hold.view = 0 then (s.side.get sd).darkened c (tripRest s)
        else ((s.side.get sd).darkened c (tripRest s)).held := by
      rw [e]; unfold leaveListen; rw [onToHold_own]
      by_cases hv : s.hold.view = 0 <;> simp [hv, stateOf, SideRecord.darkened]
    have hc : RecordsHanded s.choices [] s (tripEvent c sd s) := RecordsHanded.none (by
      rw [e]; unfold leaveListen onToHold; split <;> rfl)
    have hm : NoticesMade [] s (tripEvent c sd s) := NoticesMade.none (by rw [e]; unfold leaveListen; simp)
    unfold RestsWith stateOf; rw [hr]
    by_cases hv : s.hold.view = 0
    · rw [if_pos hv, if_pos hv, if_pos hv, if_pos hv]; exact ⟨⟨rfl, rfl, rfl⟩, rfl, rfl, rfl, rfl, rfl, hc, hm⟩
    · rw [if_neg hv, if_neg hv, if_neg hv, if_neg hv]; exact ⟨⟨rfl, rfl, rfl⟩, rfl, rfl, rfl, rfl, rfl, hc, hm⟩
  · have e : tripEvent c sd s = tripLit sd c s := by
      simp only [List.mem_cons, List.not_mem_nil, or_false] at h
      unfold tripEvent; rcases h with h | h | h <;> rw [h]
    rw [e]; exact tripLit_trips sd c s h

/-- The same with the lead's judgment after it. -/
theorem sideEvent_took (sd : Side) (c : Cause) (s : State) : TookTrip s.choices sd c s (sideEvent (tripEvent c) sd s) := by
  have ht : (tripEvent c sd s).tab = s.tab := (still_fields (tripEvent_still c sd s)).2.2.2.2.2.2.1
  have hp := sideEvent_pumps (tripEvent c) sd s ht
  have hh := sideEvent_hands (tripEvent c) sd s
  refine ⟨fun h => ?_, fun h => ?_⟩
  · have := (tripEvent_took sd c s).1 h
    unfold RestsWith stateOf at *; rw [sideEvent_own]
    obtain ⟨a1, a2, a3, a4, a5, a6, a7, a8⟩ := this
    exact ⟨a1, a2, a3, a4, a5, a6, a7.to hh.2.1, a8.to hh.2.2⟩
  · exact ((tripEvent_took sd c s).2 h).congr (sideEvent_own ..) hp.1 (by rw [hp.2]) hh.1 hh.2.1 hh.2.2

/-! ### A far report in LISTEN -/


theorem judgeProbe_side (sd : Side) (s : State) : (judgeProbe sd s).side.get sd =
    if mayProbe s sd = true then { s.side.get sd with
      state := .probe, probe := some (s.side.get sd).agree.duration.toNat, verified := false
      mismatchRun := 0, step := none, armed := false
      lit := decide (sd = .east) || farVerified s sd }
    else s.side.get sd := by
  unfold judgeProbe; split
  · cases sd
    · unfold enterProbe; dsimp only; split
      · rename_i h
        have h' : farVerified s .west = true := h.resolve_left (by decide)
        rw [h']; rfl
      · rename_i h
        have h' : farVerified s .west = false := by
          rw [← Bool.not_eq_true]; exact fun x => h (Or.inr x)
        rw [h']; rfl
    · rfl
  · rfl

/-- R97, R98: the probe is lit. -/
theorem lightProbe_lighted (sd : Side) (s : State) (h : stateOf s sd = .probe) : Lighted sd s (lightProbe sd s) := by
  refine ⟨by simp, fun h1 h2 h3 _ => ?_⟩
  have e : (lightProbe sd s).pdu = (probeLit s.tab sd).foldl
      (fun u n => raisePump s.tab true n (planOf s.tab n).probe u) s.pdu := by
    have hs : (stateOf (modSide sd (fun r => { r with lit := true }) s) sd == .probe) = true := by
      simpa [stateOf] using h
    show (probeLit s.tab sd).foldl (fun u n => raisePump s.tab
      (stateOf (modSide sd (fun r => { r with lit := true }) s) sd == .probe) n (planOf s.tab n).probe u) s.pdu = _
    rw [hs]
  obtain ⟨a, b⟩ := probe_raises s.tab (probeLit s.tab sd) ((ascending_nodup ..).filter _)
    ((ascending_sorted ..).filter _) (fun m hm => by
      have hu := List.mem_of_mem_filter hm
      exact ⟨mem_pumpsUp_lt hu, (mem_ascending hu).1, by simpa using (List.mem_filter.1 hm).2⟩)
    s.pdu h1 h2 (fun n hn q e => Or.inl (h3 n hn q e))
  rw [e]
  exact ⟨a, fun n _ hn => b n hn⟩

/-- R94, R97, R98: PROBE is entered. -/
theorem enterProbe_entered (sd : Side) (s : State) : ProbeEntered sd (farVerified s sd) s (enterProbe sd s) := by
  let s1 := modSide sd (fun r => { r with
    state := .probe, probe := some r.agree.duration.toNat, verified := false
    mismatchRun := 0, step := none, lit := false, armed := false }) s
  have e : enterProbe sd s = if sd = .east ∨ farVerified s sd = true then lightProbe sd s1 else s1 := rfl
  have h1 : s1.side.get sd = { s.side.get sd with
    state := .probe, probe := some (s.side.get sd).agree.duration.toNat, verified := false
    mismatchRun := 0, step := none, lit := false, armed := false } := by simp [s1]
  rw [e]
  by_cases hc : sd = .east ∨ farVerified s sd = true
  · have hl : Lighted sd s1 (lightProbe sd s1) := lightProbe_lighted sd s1 (by rw [stateOf, h1])
    have hr : (lightProbe sd s1).side.get sd = { s1.side.get sd with lit := true } := by simp
    rw [if_pos hc]
    refine ⟨?_, ?_, ?_, ?_, ?_, fun _ => hl, fun x y => ?_⟩
    · rw [stateOf, hr, h1]
    · rw [hr, h1]
    · rw [hr, h1]
    · rw [hr, h1]
    · rw [hr, h1]
    · rcases hc with z | z
      · rw [x] at z; cases z
      · rw [y] at z; cases z
  · rw [if_neg hc]
    refine ⟨?_, ?_, ?_, ?_, ?_, fun x => absurd x hc, fun _ _ => ⟨?_, fun _ _ _ => rfl⟩⟩
    · rw [stateOf, h1]
    all_goals rw [h1]

theorem ProbeEntered.from {sd : Side} {v : Bool} {s u t : State} (h : ProbeEntered sd v u t) (hp : u.pdu = s.pdu)
    (ht : u.tab = s.tab) : ProbeEntered sd v s t := by
  unfold ProbeEntered Lighted DrivesKept at *; rw [hp, ht] at h; exact h

/-- R94, R98: the move to PROBE under a far view. -/
theorem mayProbe_of {s : State} {sd : Side} {r : Report} (h : farView s sd = some r) : mayProbe s sd = true ↔
    stateOf s sd = .listen ∧ (s.side.get sd).ready = true ∧ ProbeAllowed s sd r := by
  unfold mayProbe ProbeAllowed; rw [h]
  cases sd <;> simp [and_assoc]

theorem farVerified_of {s : State} {sd : Side} {r : Report} (h : farView s sd = some r) : farVerified s sd = r.verified := by
  unfold farVerified; rw [h]

/-- What these say of a state they say of its side and its side's pumps. -/
theorem DrivesKept.congr {sd : Side} {s t u : State} (h : DrivesKept sd s t)
    (hw : sd = .east ∨ PrereqsOwn s.tab → ∀ n ∈ pumpsUp s.tab sd, SameAt n t.pdu u.pdu) : DrivesKept sd s u :=
  fun y n hn => (hw y n hn).1.trans (h y n hn)

theorem Lighted.congr {sd : Side} {s t u : State} (h : Lighted sd s t) (hr : u.side.get sd = t.side.get sd)
    (hw : sd = .east ∨ PrereqsOwn s.tab → ∀ n ∈ pumpsUp s.tab sd, SameAt n t.pdu u.pdu) : Lighted sd s u := by
  unfold Lighted at *; rw [hr]
  refine ⟨h.1, fun b1 b2 b3 y => ?_⟩
  obtain ⟨c1, c2⟩ := h.2 b1 b2 b3 y
  exact ⟨fun n hn => (hw y n (List.mem_of_mem_filter hn)).1.trans (c1 n hn),
    fun n hn hx => (hw y n hn).1.trans (c2 n hn hx)⟩

theorem ProbeEntered.congr {sd : Side} {v : Bool} {s t u : State} (h : ProbeEntered sd v s t)
    (hr : u.side.get sd = t.side.get sd)
    (hw : sd = .east ∨ PrereqsOwn s.tab → ∀ n ∈ pumpsUp s.tab sd, SameAt n t.pdu u.pdu) : ProbeEntered sd v s u := by
  unfold ProbeEntered stateOf at *; rw [hr]
  obtain ⟨a1, a2, a3, a4, a5, a6, a7⟩ := h
  exact ⟨a1, a2, a3, a4, a5, fun y => (a6 y).congr hr hw, fun y z => ⟨(a7 y z).1, (a7 y z).2.congr hw⟩⟩

theorem refuses_iff (s : State) (sd : Side) (r : Report) :
    refuses (ownAdvert s sd) r.advert = true ↔ Refused s sd r := by
  unfold refuses Refused powerLt
  simp only [Bool.or_eq_true, bne_iff_ne, ne_eq, decide_eq_true_eq, or_assoc]
  exact Iff.rfl

theorem agreeReport_same (own : Advert) (r : Report) (a : Agreement) (h1 : r.advertising = true)
    (h2 : a.far = some r.advert) : agreeReport own r a =
      if 15 ≤ a.count ∧ a.state = .settling then resolve own r.advert { a with count := 16 }
      else { a with count := min 16 (a.count + 1) } := by
  unfold agreeReport; rw [h1]; simp only [Bool.not_true, Bool.false_eq_true, if_false, h2, if_true]
  by_cases hc : 15 ≤ a.count
  · have : min 16 (a.count + 1) = 16 := by omega
    simp [hc]
  · have : min 16 (a.count + 1) ≠ 16 := by omega
    simp [hc]

theorem resolve_resolved (s : State) (sd : Side) (r : Report) (a : Agreement) (h : a.far = some r.advert) (hc : a.count = 16) :
    Resolved sd r s (resolve (ownAdvert s sd) r.advert a) := by
  have hm : (ownAdvert s sd).edition = hdrEdition s.tab.tables := rfl
  unfold Resolved; dsimp only
  by_cases hr : refuses (ownAdvert s sd) r.advert = true
  · have hR := (refuses_iff s sd r).1 hr
    unfold resolve; dsimp only; rw [if_pos hr]
    exact ⟨h, hc, rfl, fun _ => rfl, fun x => absurd hR x, fun x => absurd hR x⟩
  · have hR : ¬ Refused s sd r := fun x => hr ((refuses_iff s sd r).2 x)
    unfold resolve; dsimp only; rw [if_neg hr]
    by_cases hg : (spanOf s sd).agreed = true
    · have hg' : (ownAdvert s sd).agreedMode = true := hg
      rw [if_pos hg']
      exact ⟨h, hc, rfl, fun x => absurd x hR, fun _ _ => ⟨rfl, rfl, rfl, rfl⟩, fun _ x => by rw [hg] at x; cases x⟩
    · have hg' : ¬ (ownAdvert s sd).agreedMode = true := hg
      rw [if_neg hg']
      by_cases he : r.advert.probe = (ownAdvert s sd).probe ∧ r.advert.launch = (ownAdvert s sd).launch ∧
          r.advert.duration = (ownAdvert s sd).duration ∧ r.advert.edition = (ownAdvert s sd).edition
      · rw [if_pos he]
        exact ⟨h, hc, rfl, fun x => absurd x hR, fun _ x => absurd x hg, fun _ _ => ⟨fun _ => ⟨rfl, rfl, rfl, rfl⟩, fun x => absurd he x⟩⟩
      · rw [if_neg he]
        exact ⟨h, hc, rfl, fun x => absurd x hR, fun _ x => absurd x hg, fun _ _ => ⟨fun x => absurd x he, fun _ => rfl⟩⟩

theorem readyConditions_iff (s : State) (sd : Side) : readyConditions s sd = true ↔
    (s.side.get sd).settle = none ∧ (s.side.get sd).agree.state = .settled ∧
      (s.ports.get sd).condition = .clear ∧ s.lines.trip.get sd = false := by
  simp [readyConditions, and_assoc, Option.isNone_iff_eq_none]

theorem listenReport_in (sd : Side) (r : Report) (s : State) (hs : stateOf s sd = .listen)
    (hf : farView s sd = some r) : FarInListen sd r s (listenReport sd r s) := by
  have hs' : (s.side.get sd).state = .listen := hs
  generalize hb : agreeReport (ownAdvert s sd) r (s.side.get sd).agree = b
  -- the record after the report
  let s1 := modSide sd (fun x => { x with agree := b, ready := x.ready && b.state == .settled }) s
  have e1 : listenReport sd r s = judgeProbe sd (judgeReady sd s1) := by
    unfold listenReport; dsimp only; simp only [s1, modSide, hb]
  have r1 : s1.side.get sd = { s.side.get sd with agree := b, ready := (s.side.get sd).ready && b.state == .settled } := by simp [s1]
  have hv1 : farView s1 sd = some r := hf
  have hp1 : pacingCount s1 = pacingCount s := by
    unfold pacingCount routeView routeSpans; simp only [stateOf]
    cases sd <;> rfl
  have hst1 : stateOf s1 sd = .listen := by rw [stateOf, r1]; exact hs'
  -- READY judged
  have r2 : ∃ s2, judgeProbe sd (judgeReady sd s1) = judgeProbe sd s2 ∧
      s2.side.get sd = { s.side.get sd with agree := b, ready := decide (b.state = .settled ∧ ((s.side.get sd).ready = true ∨ ((s.side.get sd).settle = none ∧ (s.ports.get sd).condition = .clear ∧ s.lines.trip.get sd = false))) } ∧
      farView s2 sd = some r ∧ pacingCount s2 = pacingCount s ∧ s2.tab = s.tab ∧ s2.pdu = s.pdu := by
    have hc : readyConditions s1 sd = true ↔ (s.side.get sd).settle = none ∧ b.state = .settled ∧
        (s.ports.get sd).condition = .clear ∧ s.lines.trip.get sd = false := by
      rw [readyConditions_iff, r1]; exact Iff.rfl
    by_cases h : readyConditions s1 sd = true
    · -- the conditions hold: READY is set, and the second judgment repeats the first
      have e : judgeReady sd s1 = judgeProbe sd (modSide sd (fun r => { r with ready := true }) s1) := by
        unfold judgeReady; rw [if_pos ⟨hst1, h⟩]
      obtain ⟨c1, c2, c3, c4⟩ := hc.1 h
      refine ⟨modSide sd (fun r => { r with ready := true }) s1, ?_, ?_, hv1, ?_, rfl, rfl⟩
      · rw [e]
        by_cases hm : mayProbe (modSide sd (fun r => { r with ready := true }) s1) sd = true
        · have : mayProbe (judgeProbe sd (modSide sd (fun r => { r with ready := true }) s1)) sd = false := by
            unfold mayProbe
            have : stateOf (judgeProbe sd (modSide sd (fun r => { r with ready := true }) s1)) sd = .probe := by
              rw [stateOf, judgeProbe_side, if_pos hm]
            rw [this]; rfl
          generalize judgeProbe sd (modSide sd (fun r => { r with ready := true }) s1) = u at this ⊢
          unfold judgeProbe; rw [if_neg (by rw [this]; decide)]
        · have : judgeProbe sd (modSide sd (fun r => { r with ready := true }) s1) =
              modSide sd (fun r => { r with ready := true }) s1 := by
            unfold judgeProbe; rw [if_neg hm]
          rw [this]; rw [this]
      · rw [modSide_side, Sides.get_set, r1]; simp [c1, c2, c3, c4]
      · rw [← hp1]; unfold pacingCount routeView routeSpans; simp only [stateOf]
        cases sd <;> rfl
    · have e : judgeReady sd s1 = s1 := by unfold judgeReady; rw [if_neg (fun x => h x.2)]
      rw [e]
      refine ⟨s1, rfl, ?_, hv1, hp1, rfl, rfl⟩
      rw [r1]
      have : decide (b.state = .settled ∧ ((s.side.get sd).ready = true ∨ ((s.side.get sd).settle = none ∧ (s.ports.get sd).condition = .clear ∧ s.lines.trip.get sd = false))) = ((s.side.get sd).ready && b.state == .settled) := by
        rw [hc] at h
        by_cases hb' : b.state = .settled
        · have : ¬ ((s.side.get sd).settle = none ∧ (s.ports.get sd).condition = .clear ∧ s.lines.trip.get sd = false) :=
            fun x => h ⟨x.1, hb', x.2.1, x.2.2⟩
          simp [hb', this]
        · simp [hb']
      rw [this]
  obtain ⟨s2, e2, r2, hv2, hp2, ht2, hd2⟩ := r2
  rw [e1, e2]
  have hm : mayProbe s2 sd = true ↔ (s2.side.get sd).ready = true ∧ ProbeAllowed s sd r := by
    rw [mayProbe_of hv2, show stateOf s2 sd = .listen by rw [stateOf, r2]; exact hs']
    unfold ProbeAllowed; rw [hp2, ht2]; simp
  have hag : ((judgeProbe sd s2).side.get sd).agree = b := by
    rw [judgeProbe_side]; split <;> simp [r2]
  have hrd : ((judgeProbe sd s2).side.get sd).ready = (s2.side.get sd).ready := by
    rw [judgeProbe_side]; split <;> simp
  have hstp : stateOf (judgeProbe sd s2) sd = if mayProbe s2 sd = true then .probe else .listen := by
    rw [stateOf, judgeProbe_side]; split
    · rfl
    · rw [r2]; exact hs'
  unfold FarInListen; dsimp only
  rw [hag, hrd, hstp]
  refine ⟨fun h => ?_, fun h h2 => ?_, fun h h2 h3 => ?_, fun h h2 h3 h4 => ?_, fun h => ?_, fun h => ?_⟩
  · rw [← hb]; unfold agreeReport; simp [h]
  · rw [← hb]; unfold agreeReport; simp [h, h2]
  · rw [← hb, agreeReport_same _ _ _ h h2, if_neg h3]
  · rw [← hb, agreeReport_same _ _ _ h h2, if_pos ⟨h3, h4⟩]
    exact resolve_resolved s sd r _ h2 rfl
  · have hn : ¬ mayProbe s2 sd = true := by rw [hm, r2]; simp [h]
    rw [if_neg hn, r2]; simp [h]
  · have hr2 : (s2.side.get sd).ready = true ↔ ((s.side.get sd).ready = true ∨ ((s.side.get sd).settle = none ∧
        (s.ports.get sd).condition = .clear ∧ s.lines.trip.get sd = false)) := by rw [r2]; simp [h]
    refine ⟨hr2, fun a c => ?_, fun a => ?_⟩
    · have hy : mayProbe s2 sd = true := hm.2 ⟨hr2.2 a, c⟩
      have ej : judgeProbe sd s2 = enterProbe sd s2 := by unfold judgeProbe; rw [if_pos hy]
      have := (enterProbe_entered sd s2).from hd2 ht2
      rw [farVerified_of hv2] at this
      rw [ej]; exact this
    · have hn : ¬ mayProbe s2 sd = true := fun x => a ⟨hr2.1 (hm.1 x).1, (hm.1 x).2⟩
      rw [if_neg hn]



/-! ### The same side a little later -/

theorem Alike.restart {sd : Side} {s u : State} (h : Alike sd s u) : restartInterval u = restartInterval s := by
  unfold restartInterval; rw [h.tab]
theorem Alike.rest {sd : Side} {s u : State} (h : Alike sd s u) : tripRest u = tripRest s := by
  unfold tripRest; rw [h.tab]
theorem Alike.span {sd : Side} {s u : State} (h : Alike sd s u) : spanOf u sd = spanOf s sd := by
  unfold spanOf sideSpan pos; rw [h.tab]; cases sd <;> simp only [h.position]
theorem Alike.dark {sd : Side} {s u : State} (h : Alike sd s u) : darkHolds u sd = darkHolds s sd := by
  unfold darkHolds rxInput; rw [h.tab, h.scan]
theorem Alike.output {sd : Side} {s u : State} (h : Alike sd s u) : txReading u sd = txReading s sd := by
  unfold txReading latestOf; rw [h.tab, h.scan]
theorem Alike.far {sd : Side} {s u : State} (h : Alike sd s u) : farView u sd = farView s sd := by
  unfold farView; rw [h.ports]

theorem Alike.tripped {sd : Side} {c : Cause} {s u t : State} (h : Alike sd s u) (ht : Tripped sd c u t) :
    Tripped sd c s t := by
  unfold Tripped RestsWith Extinguished at *
  rw [h.time, h.tab, h.hold, h.failures, h.lock, h.counted, h.restart, h.rest] at ht
  exact ht

theorem Alike.records {sd : Side} {l : List StoreRecord} {s u t : State} (h : Alike sd s u)
    (ht : RecordsHanded u.choices l u t) : RecordsHanded s.choices l s t := by
  rw [h.choices] at ht; exact ht.congr h.ctl rfl h.time h.position h.tab

theorem Alike.notices {sd : Side} {l : List Made} {s u t : State} (h : Alike sd s u) (hm : u.msg = s.msg)
    (ht : NoticesMade l u t) : NoticesMade l s t := ht.congr hm rfl h.position h.absent

theorem Alike.tripHandsOn {sd : Side} {before : List Made} {c : Cause} {x : SideState} {s u t : State}
    (h : Alike sd s u) (hm : u.msg = s.msg) (ht : TripHandsOn u.choices before sd c x u t) :
    TripHandsOn s.choices before sd c x s t := by
  unfold TripHandsOn LockoutHandsOn at *; dsimp only at *
  rw [h.counted, h.tab, h.failures] at ht
  have hl : lockedRecord sd .budget u = lockedRecord sd .budget s := by unfold lockedRecord; rw [h.lock]
  rw [hl] at ht
  exact ⟨fun y => ⟨h.records (ht.1 y).1, h.notices hm (ht.1 y).2⟩,
    fun y => ⟨h.records (ht.2 y).1, h.notices hm (ht.2 y).2⟩⟩

theorem Alike.trips {sd : Side} {c : Cause} {s u t : State} (h : Alike sd s u) (hm : u.msg = s.msg)
    (hs : stateOf u sd = stateOf s sd) (ht : Trips u.choices sd c u t) : Trips s.choices sd c s t := by
  refine ⟨h.tripped ht.1, ?_⟩
  have := ht.2; rw [hs] at this; exact h.tripHandsOn hm this

theorem Alike.darkInput {sd : Side} {before : List Made} {s u t : State} (h : Alike sd s u) (hm : u.msg = s.msg)
    (ht : DarkInputJudged True u.choices before sd u t) : DarkInputJudged True s.choices before sd s t := by
  unfold DarkInputJudged at *; rw [h.far] at ht
  refine ⟨fun r a b => ?_, fun x => ⟨h.tripped (ht.2 x).1, fun y => h.tripHandsOn hm ((ht.2 x).2 y)⟩⟩
  obtain ⟨a1, a2, a3⟩ := ht.1 r a b
  exact ⟨a1, a2, fun y => ⟨h.records (a3 y).1, h.notices hm (a3 y).2⟩⟩

theorem Alike.run {sd : Side} {s u t : State} (h : Alike sd s u) (hm : u.msg = s.msg)
    (ht : RunEntered True u.choices sd u t) : RunEntered True s.choices sd s t := by
  unfold RunEntered at *; rw [h.tab, h.dark] at ht
  refine ⟨fun y => ?_, fun y => h.darkInput hm (ht.2 y)⟩
  obtain ⟨a1, a2, a3, a4, a5⟩ := ht.1 y
  exact ⟨a1, a2, a3, a4, fun y => ⟨h.records (a5 y).1, h.notices hm (a5 y).2⟩⟩

theorem StepBegun.from {alone : Prop} {sd : Side} {n : Nat} {s u t : State} (h : StepBegun alone sd n u t)
    (hp : u.pdu = s.pdu) (ht : u.tab = s.tab) : StepBegun alone sd n s t := by
  unfold StepBegun at *; rw [hp, ht] at h; exact h

/-- What is stated where no other side moves is stated under any such condition. -/
theorem StepBegun.when {alone : Prop} {sd : Side} {n : Nat} {s t : State} (h : StepBegun True sd n s t) :
    StepBegun alone sd n s t := by
  obtain ⟨a, b, c, d, e, f⟩ := h
  exact ⟨a, b, c, d, e, fun w x y z => ⟨fun _ => (f w x y z).1 (Or.inl trivial), fun _ => (f w x y z).2 trivial⟩⟩

theorem Alike.passed {sd : Side} {n : Nat} {s u t : State} (h : Alike sd s u) (hm : u.msg = s.msg)
    (hp : u.pdu = s.pdu) (ht : StepPassed True u.choices sd n u t) : StepPassed True s.choices sd n s t := by
  unfold StepPassed at *; rw [h.tab] at ht
  refine ⟨fun k hk => ?_, fun x => h.run hm (ht.2 x)⟩
  obtain ⟨a1, a2⟩ := ht.1 k hk
  exact ⟨a1.from hp h.tab, fun y => ⟨h.records (a2 y).1, h.notices hm (a2 y).2⟩⟩

theorem Alike.below {sd : Side} {s u : State} (h : Alike sd s u) (r : Report) : TestBelow u sd r ↔ TestBelow s sd r := by
  unfold TestBelow; rw [h.span]
theorem Alike.pass {sd : Side} {s u : State} (h : Alike sd s u) (r : Report) : TestPass u sd r ↔ TestPass s sd r := by
  unfold TestPass; rw [h.span, h.output]

/-! ### Entry to RUN and the ramp -/

/-- A dark input judged in RUN (R66). -/
theorem judgeDarkInput_judged {sd : Side} {before : List Made} {s u : State} (ha : Alike sd s u)
    (hn : NoticesMade before s u) (h : stateOf u sd = .run) :
    DarkInputJudged True s.choices before sd s (judgeDarkInput sd u) := by
  have trip : Tripped sd .darkInput s (tripLit sd .darkInput u) ∧
      (True → TripHandsOn s.choices before sd .darkInput .run s (tripLit sd .darkInput u)) := by
    have hm : stateOf u sd ∈ [.probe, .ramp, .run] := by simp [h]
    refine ⟨ha.tripped (tripLit_tripped sd _ u hm), fun _ => ?_⟩
    have := tripLit_handsOn .darkInput ha hn hm (counts_iff hm)
    rw [h] at this; exact this
  have hf : farView u sd = farView s sd := ha.far
  unfold judgeDarkInput; rw [hf]
  cases hf : farView s sd with
  | none =>
    dsimp only
    exact ⟨fun r hr => (nomatch hf.symm.trans hr), fun _ => trip⟩
  | some v =>
    dsimp only; split
    · rename_i hd
      refine ⟨fun r _ _ => ⟨?_, ?_, fun _ => ⟨RecordsHanded.none (by exact ha.ctl), hn.to rfl⟩⟩, fun hn => ?_⟩
      · simp [stateOf]; exact h
      · simp
      · have := hn v hf; rw [this] at hd; cases hd
    · rename_i hd
      refine ⟨fun r hr hr' => ?_, fun _ => trip⟩
      rw [hf] at hr; cases hr; exact absurd hr' hd

/-- RAMP to RUN (R60, R66). -/
theorem enterRun_entered (sd : Side) (s : State) (h : stateOf s sd = .ramp) :
    (darkHolds s sd = false →
      stateOf (enterRun sd s) sd = .run ∧ ((enterRun sd s).side.get sd).step = none ∧
      ((enterRun sd s).side.get sd).stepWindow = none ∧
      ((enterRun sd s).side.get sd).proving = some (hdrProving s.tab.tables) ∧
      ((enterRun sd s).side.get sd).agree = (s.side.get sd).agree ∧
      RecordsHanded s.choices [] s (enterRun sd s) ∧ NoticesMade [ranNotice sd] s (enterRun sd s)) ∧
    (darkHolds s sd = true → DarkInputJudged True s.choices [ranNotice sd] sd s (enterRun sd s)) := by
  let s1 := modSide sd (fun r => { r with
    state := .run, step := none, stepWindow := none, armed := false, late := false
    proving := some (hdrProving s.tab.tables) }) s
  let s2 := sideNotice 113 sd .none .run s1
  have e : enterRun sd s = if darkHolds s2 sd then judgeDarkInput sd s2 else s2 := rfl
  have hf := still_fields (sideNotice_still 113 sd .none .run s1)
  have h2 : s2.side.get sd = { s.side.get sd with
    state := .run, step := none, stepWindow := none, armed := false, late := false
    proving := some (hdrProving s.tab.tables) } := by simp [s2, s1]
  have hab : ∀ x, isAbsent s1 x = isAbsent s x := fun x =>
    isAbsent_of (sd := sd) (by simp [s1]) (by rw [h]; simp) (by simp [stateOf, s1]) x
  have hn : NoticesMade [ranNotice sd] s s2 :=
    NoticesMade.next (l := []) (s := s) (u := s1) (NoticesMade.none rfl) 113 sd .none .run rfl hab
  have ha : Alike sd s s2 := by
    refine ⟨hf.2.2.1, hf.2.2.2.2.1, hf.2.2.2.2.2.2.1, hf.2.2.2.2.2.2.2.1, hf.2.2.2.2.2.2.2.2.1, hf.2.1, rfl, rfl,
      fun x => hab x, ?_, ?_, ?_⟩
    · rw [h2]
    · rw [h2]
    · rw [stateOf, h2, h]; simp
  have hr : stateOf s2 sd = .run := by rw [stateOf, h2]
  rw [e, ha.dark]
  refine ⟨fun hd => ?_, fun hd => ?_⟩
  · rw [hd]; simp only [Bool.false_eq_true, if_false]
    rw [hr, h2]; exact ⟨rfl, rfl, rfl, rfl, rfl, RecordsHanded.none rfl, hn⟩
  · rw [if_pos hd]; exact judgeDarkInput_judged ha hn hr

theorem enterRun_run (sd : Side) (s : State) (h : stateOf s sd = .ramp) :
    RunEntered True s.choices sd s (enterRun sd s) := by
  obtain ⟨a, b⟩ := enterRun_entered sd s h
  exact ⟨fun hd => ⟨(a hd).1, (a hd).2.1, (a hd).2.2.1, (a hd).2.2.2.1, fun _ => (a hd).2.2.2.2.2⟩, b⟩

@[simp] theorem beginRampStep_own (sd : Side) (n : Nat) (s : State) : (beginRampStep sd n s).side.get sd =
    { s.side.get sd with
      step := some (planOf s.tab n).order, stepWindow := some (planOf s.tab n).window
      mismatchRun := 0, armed := false, late := s.scan.done } := by
  simp [beginRampStep, fullCommand]

/-- R104: a ramp step begins. -/
theorem beginRampStep_begun (sd : Side) {n : Nat} (s : State) (h : stateOf s sd = .ramp) (hn : n ∈ pumpsUp s.tab sd) :
    StepBegun True sd n s (beginRampStep sd n s) := by
  have own := beginRampStep_own sd n s
  refine ⟨by rw [stateOf, own]; exact h, by rw [own], by rw [own], by rw [own], by rw [own], fun h1 h2 h3 h4 => ?_⟩
  have ha := (mem_ascending hn).1
  have hs : (stateOf (modSide sd (fun r => { r with
      step := some (planOf s.tab n).order, stepWindow := some (planOf s.tab n).window
      mismatchRun := 0, armed := false, late := s.scan.done }) s) sd == .ramp && assignedTo s.tab sd n) = true := by
    unfold assignedTo; rw [ha, pumpsUp_side hn]
    simpa [stateOf] using h
  have e : (beginRampStep sd n s).pdu =
      { s.pdu with drive := s.pdu.drive.set n (planOf s.tab n).full, checks := s.pdu.checks.set n none } := by
    rw [← raisePump_raises s.tab s.pdu h1 ha h4 h3]
    exact congrArg (fun b => raisePump s.tab b n (planOf s.tab n).full s.pdu) hs
  have dm : ∀ m, m ≠ n → driveOf (beginRampStep sd n s).pdu m = driveOf s.pdu m := fun m hm => by
    rw [e]; exact getD_set_ne _ _ hm
  refine ⟨fun _ => ⟨?_, ?_, fun m _ hm => dm m hm⟩, fun _ => dm⟩
  · rw [e]; exact getD_set_eq _ _ (by rw [h2]; exact mem_pumpsUp_lt hn)
  · rw [e]; exact check_set_none _ _

/-- The step of a pump passes (R104, R60). -/
theorem passStep_passed (sd : Side) (n : Nat) (s : State) (h : stateOf s sd = .ramp) :
    StepPassed True s.choices sd n s (passStep sd n s) := by
  let s1 := modSide sd (fun r => { r with stepWindow := none }) s
  have ha : Alike sd s s1 := Alike.modSide ⟨rfl, rfl, rfl, rfl⟩
  have h1 : stateOf s1 sd = .ramp := by simp [stateOf, s1]; exact h
  have e : passStep sd n s = match (pumpsUp s.tab sd).find? fun k => decide ((planOf s.tab n).order < (planOf s.tab k).order) with
    | none => enterRun sd s1
    | some k => beginRampStep sd k s1 := rfl
  rw [e]
  unfold StepPassed
  cases hk : (pumpsUp s.tab sd).find? fun k => decide ((planOf s.tab n).order < (planOf s.tab k).order) with
  | none =>
    dsimp only
    exact ⟨fun k hk' => (nomatch hk'), fun _ => ha.run rfl (enterRun_run sd s1 h1)⟩
  | some k =>
    dsimp only
    have h3 := List.mem_of_find?_eq_some hk
    refine ⟨fun k' hk' => ?_, fun hn => ?_⟩
    · cases hk'
      exact ⟨(beginRampStep_begun sd s1 h1 h3).from rfl rfl, fun _ => ⟨RecordsHanded.none rfl, NoticesMade.none rfl⟩⟩
    · have h2 := List.find?_some hk
      exact absurd (hn k h3) (by simpa using h2)

/-! ### Outside results, advertisements and the verification test -/

/-- One outside result (R99, R105). -/
theorem countOutside_counted (sd : Side) (s : State) (h : stateOf s sd ∈ [.probe, .ramp, .run]) :
    OutsideCounted sd s (countOutside sd s) := by
  unfold OutsideCounted countOutside
  refine ⟨fun hc => ?_, fun hc => ?_⟩
  · rw [if_pos hc]; simp [stateOf]
  · rw [if_neg (Nat.not_lt.2 hc)]
    have ha : Alike sd s (modSide sd (fun x => { x with mismatchRun := x.mismatchRun + 1 }) s) :=
      Alike.modSide ⟨rfl, rfl, rfl, rfl⟩
    exact ha.trips rfl (by simp [stateOf]) (tripLit_trips sd _ _ (by simpa [stateOf] using h))

theorem OutsideCounted.from {sd : Side} {s u t : State} (h : OutsideCounted sd u t) (ha : Alike sd s u)
    (hg : u.msg = s.msg) (hs : stateOf u sd = stateOf s sd) (hm : (u.side.get sd).mismatchRun = (s.side.get sd).mismatchRun) :
    OutsideCounted sd s t := by
  unfold OutsideCounted at *; rw [hs, hm] at h
  refine ⟨h.1, fun x => ?_⟩
  exact ha.trips hg hs (h.2 x)

theorem advertTrips_iff (s : State) (sd : Side) (r : Report) :
    advertTrips (ownAdvert s sd) r (s.side.get sd).agree = true ↔ AdvertTrips s sd r := by
  unfold advertTrips AdvertTrips
  rw [Bool.and_eq_true, Bool.or_eq_true, refuses_iff, bne_iff_ne]
  simp [ownAdvert]

/-- The agreement lowered (R110). -/
theorem lowerAgreement_lowered (s : State) (sd : Side) (r : Report) (t : State)
    (h : (t.side.get sd).agree = lowerAgreement (ownAdvert s sd) r (s.side.get sd).agree) : AdvertLowered sd r s t := by
  unfold AdvertLowered; rw [h]; unfold lowerAgreement
  refine ⟨fun e => by rw [if_pos e], fun e => by rw [if_neg e]; rfl⟩

theorem verifyNow_iff (s : State) (sd : Side) (r : Report) :
    (verifyNow s sd r = .below ↔ TestBelow s sd r) ∧ (verifyNow s sd r = .pass ↔ TestPass s sd r) ∧
      (verifyNow s sd r = .outside ↔ ¬ TestBelow s sd r ∧ ¬ TestPass s sd r) := by
  unfold verifyNow verifyReport TestBelow TestPass powerLt
  by_cases hb : r.measured.toInt < (spanOf s sd).light.toInt
  · have : ¬ (spanOf s sd).light.toInt ≤ r.measured.toInt := by omega
    simp [hb, this]
  · have hb' : (spanOf s sd).light.toInt ≤ r.measured.toInt := by omega
    cases ho : txReading s sd with
    | none => simp [hb, hb']
    | some o =>
      by_cases hw : o.toInt - (spanOf s sd).lossMax ≤ r.measured.toInt ∧ r.measured.toInt ≤ o.toInt - (spanOf s sd).lossMin
      · simp only [hb, decide_false, Bool.false_eq_true, if_false, if_pos hw]
        simp only [hb', true_and, Option.some.injEq, forall_eq', hw]; simp
      · simp only [hb, decide_false, Bool.false_eq_true, if_false, if_neg hw]
        simp only [hb', true_and, Option.some.injEq, forall_eq', hw]; simp

/-! ### PROBE to RAMP -/

@[simp] theorem beginRamp_agree (sd : Side) (s : State) (n : Nat) (l : List Nat) (h : pumpsUp s.tab sd = n :: l) :
    beginRamp sd s = beginRampStep sd n s := by
  unfold beginRamp; rw [h]

/-- After a trip a side is in DARK, HOLD or LOCKOUT. -/
theorem Tripped.down {sd : Side} {c : Cause} {s t : State} (h : Tripped sd c s t) :
    stateOf t sd ∈ [.dark, .hold, .lockout] := by
  have rest : ∀ n, RestsWith sd c n s t → stateOf t sd ∈ [.dark, .hold, .lockout] := by
    intro n hr; rw [hr.1]; split <;> simp
  by_cases hc : stateOf s sd ≠ .run ∨ (s.side.get sd).proving ≠ none
  · rcases Nat.lt_or_ge ((s.side.get sd).failures ++ [s.time.uptime]).length (hdrBudget s.tab.tables) with hb | hb
    · exact rest _ (h.1 hc hb).1
    · rw [(h.2.1 hc hb).1]; simp
  · exact rest _ (h.2.2.1 hc).1

theorem DarkInputJudged.down {alone : Prop} {ch : Choices} {before : List Made} {sd : Side} {s t : State}
    (h : DarkInputJudged alone ch before sd s t) :
    stateOf t sd ∈ [.run, .dark, .hold, .lockout] := by
  cases hf : farView s sd with
  | none =>
    have := (h.2 (fun r hr => (nomatch hf.symm.trans hr))).1.down
    simp only [List.mem_cons, List.not_mem_nil, or_false] at *; exact Or.inr this
  | some r =>
    cases hd : r.throughDark with
    | true => rw [(h.1 r hf hd).1]; simp
    | false =>
      have := (h.2 (fun x hx => by rw [hf] at hx; injection hx with hx; rw [← hx]; exact hd)).1.down
      simp only [List.mem_cons, List.not_mem_nil, or_false] at *; exact Or.inr this

/-- A side that entry to RUN does not darken keeps its agreement and VERIFIED. -/
theorem enterRun_lights (sd : Side) (s : State) (ht : stateOf (enterRun sd s) sd ∈ [.probe, .ramp, .run]) :
    ((enterRun sd s).side.get sd).agree = (s.side.get sd).agree ∧
      ((enterRun sd s).side.get sd).verified = (s.side.get sd).verified := by
  let s1 := modSide sd (fun r => { r with
    state := .run, step := none, stepWindow := none, armed := false, late := false
    proving := some (hdrProving s.tab.tables) }) s
  let s2 := sideNotice 113 sd .none .run s1
  have e : enterRun sd s = if darkHolds s2 sd then judgeDarkInput sd s2 else s2 := rfl
  have a2 : (s2.side.get sd).agree = (s.side.get sd).agree ∧
      (s2.side.get sd).verified = (s.side.get sd).verified := by simp [s2, s1]
  have hr : stateOf s2 sd = .run := by simp [stateOf, s2, s1]
  have down : stateOf (tripLit sd .darkInput s2) sd ∈ [.probe, .ramp, .run] → False := by
    intro hx
    have := (tripLit_tripped sd .darkInput s2 (by simp [hr])).down
    simp only [List.mem_cons, List.not_mem_nil, or_false] at this hx
    rcases this with e | e | e <;> rw [e] at hx <;> simp at hx
  rw [e] at ht ⊢
  split
  · rename_i hd; rw [if_pos hd] at ht
    unfold judgeDarkInput at *
    cases hf : farView s2 sd with
    | none => rw [hf] at ht; exact absurd ht down
    | some v =>
      rw [hf] at ht; dsimp only at *
      split
      · simpa using a2
      · rename_i hn; rw [if_neg hn] at ht; exact absurd ht down
  · exact a2

/-- The record as a side goes from PROBE to RAMP, before its first step (R100, R103). -/
theorem enterRamp_eq (sd : Side) (s : State) {r : Report} (hf : farView s sd = some r) :
    ∃ s1, s1.side.get sd = { s.side.get sd with
        state := .ramp, probe := none, step := (pumpsUp s.tab sd).head?.map fun n => (planOf s.tab n).order
        stepWindow := none, armed := false, late := false } ∧
      s1 = { s with side := s1.side } ∧ (∀ x, x ≠ sd → s1.side.get x = s.side.get x) ∧
      enterRamp sd s =
        if sd = .east ∨ r.shows .ramp = true ∨ r.shows .run = true then beginRamp sd s1 else s1 := by
  let s1 := modSide sd (fun x => { x with
    state := .ramp, probe := none, step := (pumpsUp s.tab sd).head?.map fun n => (planOf s.tab n).order
    stepWindow := none, armed := false, late := false }) s
  have hl : leadRamps s1 sd = (r.shows .ramp || r.shows .run) := by
    unfold leadRamps; rw [show farView s1 sd = some r from hf]
  have e : enterRamp sd s = if sd = .east ∨ leadRamps s1 sd = true then beginRamp sd s1 else s1 := rfl
  refine ⟨s1, by simp [s1], rfl, fun x hx => by simp [s1, Sides.get_set_ne _ _ _ _ hx], ?_⟩
  rw [e, hl]; simp only [Bool.or_eq_true]

theorem enterRamp_agree (sd : Side) (s : State) {r : Report} (hf : farView s sd = some r)
    (ht : stateOf (enterRamp sd s) sd ∈ [.probe, .ramp, .run]) :
    ((enterRamp sd s).side.get sd).agree = (s.side.get sd).agree ∧
      ((enterRamp sd s).side.get sd).verified = (s.side.get sd).verified := by
  obtain ⟨s1, h1, -, -, e⟩ := enterRamp_eq sd s hf
  rw [e] at ht ⊢
  split
  · rename_i hc; rw [if_pos hc] at ht
    unfold beginRamp at *; split
    · rename_i hn; rw [hn] at ht
      have := enterRun_lights sd s1 ht
      rw [h1] at this; exact this
    · rw [beginRampStep_own, h1]; exact ⟨rfl, rfl⟩
  · rw [h1]; exact ⟨rfl, rfl⟩

/-- R100, R103: RAMP is entered from PROBE. -/
theorem enterRamp_entered (sd : Side) (s : State) {r : Report} (hs : stateOf s sd = .probe)
    (hf : farView s sd = some r) : RampEntered sd r s (enterRamp sd s) := by
  obtain ⟨s1, h1, h2, h3, e⟩ := enterRamp_eq sd s hf
  have hr : stateOf s1 sd = .ramp := by rw [stateOf, h1]
  have ht : s1.tab = s.tab := by rw [h2]
  have hp : s1.pdu = s.pdu := by rw [h2]
  have ha : Alike sd s s1 := by
    refine ⟨by rw [h2], by rw [h2], ht, by rw [h2], by rw [h2], by rw [h2], by rw [h2], by rw [h2], fun x => ?_,
      by rw [h1], by rw [h1], ?_⟩
    · by_cases hx : x = sd
      · have hs' : (s.side.get sd).state = .probe := hs
        unfold isAbsent; rw [hx, h1, hs']; rfl
      · unfold isAbsent; rw [h3 x hx]
    · rw [hr, hs]; simp
  unfold RampEntered; dsimp only
  refine ⟨fun n l hn => ?_, fun hn => ?_⟩
  · have hb : beginRamp sd s1 = beginRampStep sd n s1 := beginRamp_agree sd s1 n l (by rw [ht]; exact hn)
    have hd : (pumpsUp s.tab sd).head?.map (fun n => (planOf s.tab n).order) = some (planOf s.tab n).order := by
      rw [hn]; rfl
    have begun : StepBegun (sd = .east) sd n s (beginRampStep sd n s1) :=
      (StepBegun.from (beginRampStep_begun sd s1 hr (by rw [ht, hn]; exact List.mem_cons_self ..)) hp ht).when
    by_cases hc : sd = .east ∨ r.shows .ramp = true ∨ r.shows .run = true
    · rw [e, if_pos hc, hb]
      refine ⟨begun.1, ?_, begun.2.1, fun _ => begun, fun x => absurd hc x⟩
      rw [beginRampStep_own, h1]
    · rw [e, if_neg hc]
      refine ⟨hr, by rw [h1], by rw [h1]; exact hd, fun x => absurd x hc, fun _ => ⟨by rw [h1], fun _ _ _ => by rw [hp]⟩⟩
  · have hb : beginRamp sd s1 = enterRun sd s1 := by unfold beginRamp; rw [ht, hn]
    by_cases hc : sd = .east ∨ r.shows .ramp = true ∨ r.shows .run = true
    · rw [e, if_pos hc, hb]
      exact ⟨fun _ => ha.run (by rw [h2]) (enterRun_run sd s1 hr), fun x => absurd hc x⟩
    · rw [e, if_neg hc]
      refine ⟨fun x => absurd x hc, fun _ => ⟨hr, by rw [h1], by rw [h1]; simp [hn], by rw [h1]⟩⟩

/-! ### A far report in PROBE -/

theorem leadToRamp_same (sd : Side) (s : State) (h : ¬ (sd = .east ∧ stateOf s sd = .probe ∧
    (s.side.get sd).verified = true ∧ farVerified s sd = true)) : leadToRamp sd s = s := by
  unfold leadToRamp; rw [if_neg h]

theorem RampEntered.from {sd : Side} {r : Report} {s u t : State} (h : RampEntered sd r u t) (ha : Alike sd s u)
    (hm : u.msg = s.msg) (hp : u.pdu = s.pdu) : RampEntered sd r s t := by
  unfold RampEntered DrivesKept at *; dsimp only at *; rw [ha.tab, hp] at h
  refine ⟨fun n l hn => ?_, fun hn => ⟨fun x => ha.run hm ((h.2 hn).1 x), (h.2 hn).2⟩⟩
  obtain ⟨a, b, c, d, e⟩ := h.1 n l hn
  exact ⟨a, b, c, fun x => (d x).from hp ha.tab, e⟩

/-- Steps 5 and 6 of R102 at a side that is not verified. -/
theorem probeTest_tested (sd : Side) (r : Report) (s : State) (hs : stateOf s sd = .probe)
    (hv : (s.side.get sd).verified = false) (hf : farView s sd = some r) :
    ProbeTested sd r s (leadToRamp sd (probeTest sd r s)) ∧
      (stateOf (leadToRamp sd (probeTest sd r s)) sd ∈ [.probe, .ramp, .run] →
        ((leadToRamp sd (probeTest sd r s)).side.get sd).agree = (s.side.get sd).agree) := by
  have hs' : (s.side.get sd).state = .probe := hs
  obtain ⟨i1, i2, i3⟩ := verifyNow_iff s sd r
  cases hn : verifyNow s sd r with
  | below =>
    have hb := i1.1 hn
    have hp : ¬ TestPass s sd r := fun x => by rw [i2.2 x] at hn; cases hn
    have e : probeTest sd r s = modSide sd (fun x => { x with mismatchRun := 0 }) s := by
      unfold probeTest; rw [hv, hn]; rfl
    rw [e, leadToRamp_same _ _ (by simp [hv])]
    refine ⟨⟨fun _ => ?_, fun x => absurd x hp, fun x => absurd x hp, fun x => absurd hb x⟩, fun _ => ?_⟩
    · simp [stateOf, hs', hv]
    · simp
  | outside =>
    obtain ⟨hb, hp⟩ := i3.1 hn
    have e : probeTest sd r s = countOutside sd s := by unfold probeTest; rw [hv, hn]; rfl
    have hv' : ((countOutside sd s).side.get sd).verified = false := by
      unfold countOutside; split
      · simp [hv]
      · have ha : Alike sd s (modSide sd (fun x => { x with mismatchRun := x.mismatchRun + 1 }) s) :=
          Alike.modSide ⟨rfl, rfl, rfl, rfl⟩
        exact (tripLit_tripped sd .mismatch _ (by simp [stateOf, hs'])).2.2.2.2.2.2.2.2.2.1
    rw [e, leadToRamp_same _ _ (by simp [hv'])]
    have hc := countOutside_counted sd s (by simp [hs])
    refine ⟨⟨fun x => absurd x hb, fun x => absurd x hp, fun x => absurd x hp, fun _ _ => hc⟩, fun ht => ?_⟩
    unfold countOutside at *; split
    · simp
    · rename_i hl
      rw [if_neg hl] at ht
      have := (tripLit_tripped sd .mismatch (modSide sd (fun x => { x with mismatchRun := x.mismatchRun + 1 }) s)
        (by simp [stateOf, hs'])).down
      simp only [List.mem_cons, List.not_mem_nil, or_false] at this ht
      rcases this with e | e | e <;> rw [e] at ht <;> simp at ht
  | pass =>
    have hp := i2.1 hn
    have hb : ¬ TestBelow s sd r := fun x => by rw [i1.2 x] at hn; cases hn
    let s1 := modSide sd (fun x => { x with verified := true, mismatchRun := 0 }) s
    have e : probeTest sd r s = if sd = .west then enterRamp sd s1 else s1 := by
      unfold probeTest; rw [hv, hn]; rfl
    have r1 : s1.side.get sd = { s.side.get sd with verified := true, mismatchRun := 0 } := by simp [s1]
    have hf1 : farView s1 sd = some r := hf
    -- where it goes
    have key : leadToRamp sd (probeTest sd r s) = if sd = .west ∨ r.verified = true then enterRamp sd s1 else s1 := by
      rw [e]
      cases sd with
      | west => simp [leadToRamp]
      | east =>
        simp only [reduceCtorEq, if_false, false_or]
        unfold leadToRamp
        rw [farVerified_of hf1]
        have : stateOf s1 .east = .probe := by rw [stateOf, r1]; exact hs'
        simp [this, r1]
    rw [key]
    refine ⟨⟨fun x => absurd x hb, fun _ h1 h2 => ?_, fun _ h1 => ?_, fun _ x => absurd hp x⟩, fun ht => ?_⟩
    · rw [if_neg (by simp [h1, h2]), stateOf, r1]; exact ⟨hs', rfl, rfl⟩
    · rw [if_pos h1]
      refine ⟨fun hx => ?_, RampEntered.from (enterRamp_entered sd s1 (by rw [stateOf, r1]; exact hs') hf1)
        (Alike.modSide ⟨rfl, rfl, rfl, rfl⟩) rfl rfl⟩
      rw [(enterRamp_agree sd s1 hf1 (List.mem_cons_of_mem _ hx)).2, r1]
    · split
      · rename_i hc; rw [if_pos hc] at ht
        rw [(enterRamp_agree sd s1 hf1 ht).1, r1]
      · rw [r1]



/-- The back-off of a follower (R95, R96). -/
theorem backOff_own (sd : Side) (s : State) :
    stateOf (backOff sd s) sd = .listen ∧ ((backOff sd s).side.get sd).reason = .backOff ∧
      ((backOff sd s).side.get sd).probe = none ∧ ((backOff sd s).side.get sd).verified = false ∧
      ((backOff sd s).side.get sd).mismatchRun = 0 ∧ ((backOff sd s).side.get sd).agree = (s.side.get sd).agree ∧
      ((backOff sd s).side.get sd).failures = (s.side.get sd).failures ∧
      ∀ n ∈ probeLit s.tab sd, driveOf (backOff sd s).pdu n = 0 := by
  refine ⟨?_, ?_, ?_, ?_, ?_, ?_, ?_, fun n hn => ?_⟩
  · simp [stateOf, backOff, zeroCommand]
  · simp [backOff, zeroCommand]
  · simp [backOff, zeroCommand]
  · simp [backOff, zeroCommand]
  · simp [backOff, zeroCommand]
  · simp [backOff, zeroCommand]
  · simp [backOff, zeroCommand]
  · exact zeroPumps_dark s.tab (List.mem_reverse.2 hn) _

theorem ProbeTested.from {sd : Side} {r : Report} {s u t : State} (h : ProbeTested sd r u t) (ha : Alike sd s u)
    (hg : u.msg = s.msg) (hp : u.pdu = s.pdu) (hs : stateOf u sd = stateOf s sd)
    (hm : (u.side.get sd).mismatchRun = (s.side.get sd).mismatchRun) : ProbeTested sd r s t := by
  unfold ProbeTested at *
  rw [ha.below, ha.pass] at h
  exact ⟨h.1, h.2.1, fun a b => ⟨(h.2.2.1 a b).1, (h.2.2.1 a b).2.from ha hg hp⟩, fun a b => (h.2.2.2 a b).from ha hg hs hm⟩

/-- Steps 3 to 6 of R102. -/
theorem probeAgreed_in (sd : Side) (r : Report) (s : State) (hs : stateOf s sd = .probe) (hf : farView s sd = some r) :
    (AdvertTrips s sd r → Trips s.choices sd .mismatch s (probeAgreed sd r s)) ∧
    (¬ AdvertTrips s sd r →
      let t := probeAgreed sd r s
      (stateOf t sd ∈ [.probe, .ramp, .run] → AdvertLowered sd r s t) ∧
      ((s.side.get sd).lit = false →
        stateOf t sd = .probe ∧ (t.side.get sd).verified = (s.side.get sd).verified ∧
        (r.verified = true → Lighted sd s t) ∧
        (r.verified = false → (t.side.get sd).lit = false ∧ t.pdu = s.pdu)) ∧
      ((s.side.get sd).lit = true → (s.side.get sd).verified = false → ProbeTested sd r s t) ∧
      ((s.side.get sd).lit = true → (s.side.get sd).verified = true → sd = .east → r.verified = true →
        RampEntered sd r s t) ∧
      ((s.side.get sd).lit = true → (s.side.get sd).verified = true → sd = .west ∨ r.verified = false →
        stateOf t sd = .probe)) := by
  have hs' : (s.side.get sd).state = .probe := hs
  rw [← advertTrips_iff]
  refine ⟨fun h => ?_, fun h => ?_⟩
  · unfold probeAgreed; rw [if_pos h]; exact tripLit_trips sd _ s (by simp [hs])
  · let s1 := modSide sd (fun x => { x with agree := lowerAgreement (ownAdvert s sd) r x.agree }) s
    have ha : Alike sd s s1 := Alike.modSide ⟨rfl, rfl, rfl, rfl⟩
    have r1 : s1.side.get sd =
      { s.side.get sd with agree := lowerAgreement (ownAdvert s sd) r (s.side.get sd).agree } := by simp [s1]
    have hf1 : farView s1 sd = some r := hf
    have h1 : stateOf s1 sd = .probe := by rw [stateOf, r1]; exact hs'
    have e : probeAgreed sd r s = if (s.side.get sd).lit then leadToRamp sd (probeTest sd r s1)
        else if r.verified then lightProbe sd s1 else s1 := by
      unfold probeAgreed; rw [if_neg h]
    dsimp only
    cases hl : (s.side.get sd).lit with
    | false =>
      rw [hl] at e; simp only [Bool.false_eq_true, if_false] at e
      rw [e]
      have hr : (if r.verified then lightProbe sd s1 else s1).side.get sd =
          { s1.side.get sd with lit := r.verified } := by
        cases hv : r.verified with
        | true => simp
        | false => simp only [Bool.false_eq_true, if_false]; rw [r1, ← hl]
      refine ⟨fun _ => lowerAgreement_lowered s sd r _ (by rw [hr, r1]), fun _ => ?_, nofun, nofun, nofun⟩
      rw [stateOf, hr, r1]
      refine ⟨hs', rfl, fun hv => ?_, fun hv => ⟨hv, by rw [hv]; rfl⟩⟩
      rw [if_pos hv]; exact lightProbe_lighted sd s1 h1
    | true =>
      rw [hl] at e; simp only [if_true] at e
      rw [e]
      cases hv : (s.side.get sd).verified with
      | false =>
        obtain ⟨a, b⟩ := probeTest_tested sd r s1 h1 (by rw [r1]; exact hv) hf1
        refine ⟨fun ht => lowerAgreement_lowered s sd r _ (by rw [b ht, r1]), nofun, fun _ _ => ?_, nofun, nofun⟩
        exact a.from ha rfl rfl (by rw [h1, hs]) (by rw [r1])
      | true =>
        have e2 : probeTest sd r s1 = s1 := by unfold probeTest; rw [r1]; simp [hv]
        rw [e2]
        have e3 : leadToRamp sd s1 = if sd = .east ∧ r.verified = true then enterRamp sd s1 else s1 := by
          unfold leadToRamp; rw [farVerified_of hf1, h1, r1]; simp [hv]
        rw [e3]
        refine ⟨fun ht => lowerAgreement_lowered s sd r _ ?_, nofun, nofun, fun _ _ h2 h3 => ?_, fun _ _ h2 => ?_⟩
        · split
          · rename_i hc; rw [if_pos hc] at ht; rw [(enterRamp_agree sd s1 hf1 ht).1, r1]
          · rw [r1]
        · rw [if_pos ⟨h2, h3⟩]; exact (enterRamp_entered sd s1 h1 hf1).from ha rfl rfl
        · rw [if_neg (by rintro ⟨x, y⟩; rcases h2 with h2 | h2
                         · rw [x] at h2; cases h2
                         · rw [y] at h2; cases h2)]
          exact h1

/-- A far report taken in PROBE (R102). -/
theorem probeReport_in (sd : Side) (r : Report) (s : State) (hs : stateOf s sd = .probe) (hf : farView s sd = some r) :
    FarInProbe sd r s (probeReport sd r s) := by
  obtain ⟨p1, p2⟩ := probeAgreed_in sd r s hs hf
  unfold FarInProbe; dsimp only
  cases sd with
  | east =>
    by_cases ht : r.shows .probe = true ∨ r.shows .ramp = true ∨ r.shows .listen = true
    · have e : probeReport .east r s = probeAgreed .east r s := by
        unfold probeReport; dsimp only
        rw [if_pos (by rcases ht with h | h | h <;> simp [h])]
      rw [e]
      refine ⟨nofun, fun x => ?_, fun _ => p1, fun _ h => p2 h⟩
      exact absurd (by simpa using ht) x
    · have e : probeReport .east r s = tripLit .east .farDark s := by
        unfold probeReport; dsimp only
        rw [if_neg (by simpa [or_comm, or_assoc, or_left_comm] using ht)]
      rw [e]
      refine ⟨nofun, fun _ _ => tripLit_trips _ _ _ (by simp [hs]), fun x => ?_, fun x => ?_⟩
      · exact absurd (by simpa using x) ht
      · exact absurd (by simpa using x) ht
  | west =>
    by_cases hli : r.shows .listen = true
    · have e : probeReport .west r s = backOff .west s := by unfold probeReport; dsimp only; rw [if_pos hli]
      have nt : ¬ (r.shows .probe = true ∨ r.shows .ramp = true ∨ Side.west = Side.east ∧ r.shows .listen = true) := by
        have hc : r.state = SideState.code .listen := by simpa [Report.shows] using hli
        simp only [Report.shows, hc]; decide
      rw [e]
      refine ⟨fun _ _ => backOff_own .west s, fun _ h => ?_, fun x => absurd x nt, fun x => absurd x nt⟩
      rw [h rfl] at hli; cases hli
    · by_cases ht : r.shows .probe = true ∨ r.shows .ramp = true
      · have e : probeReport .west r s = probeAgreed .west r s := by
          unfold probeReport; dsimp only
          rw [if_neg hli, if_pos (by simpa using ht)]
        rw [e]
        refine ⟨fun _ x => absurd x hli, fun x => ?_, fun _ => p1, fun _ h => p2 h⟩
        exact absurd (by rcases ht with h | h <;> simp [h]) x
      · have e : probeReport .west r s = tripLit .west .farDark s := by
          unfold probeReport; dsimp only
          rw [if_neg hli, if_neg (by simpa using ht)]
        rw [e]
        refine ⟨fun _ x => absurd x hli, fun _ _ => tripLit_trips _ _ _ (by simp [hs]), fun x => ?_, fun x => ?_⟩
        · exact absurd (by simpa using x) ht
        · exact absurd (by simpa using x) ht



/-! ### A far report in RAMP and in RUN -/

theorem passStep_agree (sd : Side) (n : Nat) (s : State)
    (ht : stateOf (passStep sd n s) sd ∈ [.ramp, .run]) : ((passStep sd n s).side.get sd).agree = (s.side.get sd).agree := by
  unfold passStep at *; dsimp only at *
  split
  · rename_i hk; rw [hk] at ht; dsimp only at ht
    rw [(enterRun_lights sd _ (List.mem_cons_of_mem _ ht)).1]; simp
  · simp

theorem beginRamp_in (sd : Side) (s : State) (h : stateOf s sd = .ramp) :
    (∀ n l, pumpsUp s.tab sd = n :: l → StepBegun True sd n s (beginRamp sd s)) ∧
    (pumpsUp s.tab sd = [] → RunEntered True s.choices sd s (beginRamp sd s)) ∧
    (stateOf (beginRamp sd s) sd ∈ [.ramp, .run] → ((beginRamp sd s).side.get sd).agree = (s.side.get sd).agree) := by
  refine ⟨fun n l e => ?_, fun e => ?_, fun ht => ?_⟩
  · rw [beginRamp_agree sd s n l e]; exact beginRampStep_begun sd s h (by rw [e]; exact List.mem_cons_self ..)
  · have : beginRamp sd s = enterRun sd s := by unfold beginRamp; rw [e]
    rw [this]; exact enterRun_run sd s h
  · unfold beginRamp at *; split
    · rename_i e; rw [e] at ht; exact (enterRun_lights sd s (List.mem_cons_of_mem _ ht)).1
    · simp

theorem countOutside_agree (sd : Side) (s : State) (h : stateOf s sd ∈ [.probe, .ramp, .run])
    (ht : stateOf (countOutside sd s) sd ∈ [.ramp, .run]) : ((countOutside sd s).side.get sd).agree = (s.side.get sd).agree := by
  unfold countOutside at *; split
  · simp
  · rename_i hl; rw [if_neg hl] at ht
    have := (tripLit_tripped sd .mismatch (modSide sd (fun x => { x with mismatchRun := x.mismatchRun + 1 }) s)
      (by simpa [stateOf] using h)).down
    simp only [List.mem_cons, List.not_mem_nil, or_false] at this ht
    rcases this with e | e | e <;> rw [e] at ht <;> simp at ht

theorem rampTest_in (sd : Side) (r : Report) (s : State) (h : stateOf s sd = .ramp) :
    (∀ n, (s.side.get sd).stepWindow ≠ none → stepPump s sd = some n →
      ((s.side.get sd).armed = false ∨ (planOf s.tab n).check ≠ .farInput → rampTest sd r s = s) ∧
      ((s.side.get sd).armed = true → (planOf s.tab n).check = .farInput →
        (TestBelow s sd r → stateOf (rampTest sd r s) sd = .ramp ∧ ((rampTest sd r s).side.get sd).mismatchRun = 0) ∧
        (TestPass s sd r → StepPassed True s.choices sd n s (rampTest sd r s)) ∧
        (¬ TestBelow s sd r → ¬ TestPass s sd r → OutsideCounted sd s (rampTest sd r s)))) ∧
    (stateOf (rampTest sd r s) sd ∈ [.ramp, .run] → ((rampTest sd r s).side.get sd).agree = (s.side.get sd).agree) := by
  obtain ⟨i1, i2, i3⟩ := verifyNow_iff s sd r
  refine ⟨fun n hw hp => ⟨fun hn => ?_, fun ha hc => ?_⟩, fun ht => ?_⟩
  · unfold rampTest; rw [hp]; dsimp only
    rw [if_neg]
    rcases hn with hn | hn
    · simp [hn]
    · simp [hn]
  · have e : rampTest sd r s = match verifyNow s sd r with
        | .pass => passStep sd n s
        | .outside => countOutside sd s
        | .below => modSide sd (fun x => { x with mismatchRun := 0 }) s := by
      unfold rampTest; rw [hp]; dsimp only
      have hb : stepBegun s sd = true := by
        unfold stepBegun; rw [Option.isSome_iff_ne_none]; exact hw
      exact (if_pos (by simp [ha, hb, hc])).trans rfl
    rw [e]
    refine ⟨fun hb => ?_, fun hb => ?_, fun hb hp' => ?_⟩
    · rw [i1.2 hb]; simp [stateOf]; exact h
    · rw [i2.2 hb]; exact passStep_passed sd n s h
    · rw [i3.2 ⟨hb, hp'⟩]; exact countOutside_counted sd s (by simp [h])
  · unfold rampTest at *
    split
    · rfl
    · rename_i n hp
      rw [hp] at ht; dsimp only at ht
      split
      · rename_i hc; rw [if_pos hc] at ht
        split
        · rename_i hv; rw [hv] at ht; exact passStep_agree sd n s ht
        · rename_i hv; rw [hv] at ht; exact countOutside_agree sd s (by simp [h]) ht
        · simp
      · rfl

/-- A far report taken in RAMP (R108). -/
theorem rampReport_in (sd : Side) (r : Report) (s : State) (hs : stateOf s sd = .ramp) :
    FarInRamp sd r s (rampReport sd r s) := by
  have hs' : (s.side.get sd).state = .ramp := hs
  unfold FarInRamp; dsimp only
  by_cases ht : r.shows .probe = true ∨ r.shows .ramp = true ∨ r.shows .run = true
  · have hc : (r.shows .probe || r.shows .ramp || r.shows .run) = true := by
      rcases ht with h | h | h <;> simp [h]
    refine ⟨fun x => absurd ht x, fun _ ha => ?_, fun _ ha => ?_⟩
    · unfold rampReport; rw [if_pos hc, if_pos ((advertTrips_iff s sd r).2 ha)]
      exact tripLit_trips sd _ s (by simp [hs])
    · let s1 := modSide sd (fun x => { x with agree := lowerAgreement (ownAdvert s sd) r x.agree }) s
      have al : Alike sd s s1 := Alike.modSide ⟨rfl, rfl, rfl, rfl⟩
      have r1 : s1.side.get sd =
        { s.side.get sd with agree := lowerAgreement (ownAdvert s sd) r (s.side.get sd).agree } := by simp [s1]
      have h1 : stateOf s1 sd = .ramp := by rw [stateOf, r1]; exact hs'
      have e : rampReport sd r s = if (s.side.get sd).stepWindow.isSome then rampTest sd r s1
          else if r.shows .ramp || r.shows .run then beginRamp sd s1 else s1 := by
        unfold rampReport
        rw [if_pos hc, if_neg (fun x => ha ((advertTrips_iff s sd r).1 x))]
        rfl
      have hsp : stepPump s1 sd = stepPump s sd := by unfold stepPump; rw [r1]; rfl
      obtain ⟨b1, b2, b3⟩ := beginRamp_in sd s1 h1
      obtain ⟨t1, t2⟩ := rampTest_in sd r s1 h1
      refine ⟨fun hx => lowerAgreement_lowered s sd r _ ?_, fun hw => ?_, fun n hw hp => ?_⟩
      · rw [e] at hx ⊢
        cases hw : (s.side.get sd).stepWindow.isSome with
        | true => rw [hw] at hx; simp only [if_true] at *; rw [t2 hx, r1]
        | false =>
          rw [hw] at hx; simp only [Bool.false_eq_true, if_false] at *
          split
          · rename_i hy; rw [if_pos hy] at hx; rw [b3 hx, r1]
          · rw [r1]
      · rw [e, hw]; simp only [Option.isSome_none, Bool.false_eq_true, if_false]
        refine ⟨fun n l hy hn => ?_, fun hy hn => ?_, fun hy hz => ?_⟩
        · rw [if_pos (by simpa using hy)]; exact (b1 n l hn).from rfl rfl
        · rw [if_pos (by simpa using hy)]; exact al.run rfl (b2 hn)
        · rw [if_neg (by simp [hy, hz])]; exact ⟨h1, by rw [r1]; exact hw, rfl⟩
      · have hw' : (s.side.get sd).stepWindow.isSome = true := by rw [Option.isSome_iff_ne_none]; exact hw
        rw [e, hw']; simp only [if_true]
        have := t1 n (by rw [r1]; exact hw) (by rw [hsp]; exact hp)
        rw [r1, al.tab, al.below, al.pass] at this
        refine ⟨fun x => ?_, fun x y => ?_⟩
        · rw [this.1 x]; exact ⟨h1, by rw [r1], rfl⟩
        · obtain ⟨c1, c2, c3⟩ := this.2 x y
          exact ⟨c1, fun z => al.passed rfl rfl (c2 z), fun z z' => (c3 z z').from al rfl (by rw [h1, hs]) (by rw [r1])⟩
  · have hc : ¬ (r.shows .probe || r.shows .ramp || r.shows .run) = true := by
      simpa [or_assoc] using ht
    refine ⟨fun _ => ?_, fun x => absurd x ht, fun x => absurd x ht⟩
    unfold rampReport; rw [if_neg hc]; exact tripLit_trips sd _ s (by simp [hs])

/-- A far report taken in RUN (R62, R109, R67). -/
theorem runReport_in (sd : Side) (r : Report) (s : State) (hs : stateOf s sd = .run) :
    FarInRun sd r s (runReport sd r s) := by
  have hs' : (s.side.get sd).state = .run := hs
  unfold FarInRun; dsimp only
  by_cases ht : r.shows .ramp = true ∨ r.shows .run = true ∨ r.shows .stepdown = true
  · have hc : (r.shows .ramp || r.shows .run || r.shows .stepdown) = true := by
      rcases ht with h | h | h <;> simp [h]
    refine ⟨fun x => absurd ht x, fun _ ha => ?_, fun _ ha => ?_⟩
    · unfold runReport; rw [if_pos hc, if_pos ((advertTrips_iff s sd r).2 ha)]
      exact tripLit_trips sd _ s (by simp [hs])
    · let s1 := modSide sd (fun x => { x with agree := lowerAgreement (ownAdvert s sd) r x.agree }) s
      have al : Alike sd s s1 := Alike.modSide ⟨rfl, rfl, rfl, rfl⟩
      have r1 : s1.side.get sd =
        { s.side.get sd with agree := lowerAgreement (ownAdvert s sd) r (s.side.get sd).agree } := by simp [s1]
      have h1 : stateOf s1 sd = .run := by rw [stateOf, r1]; exact hs'
      have e : runReport sd r s = starvedReport sd r s1 := by
        unfold runReport; rw [if_pos hc, if_neg (fun x => ha ((advertTrips_iff s sd r).1 x))]
      have hin : inRearm s1 sd = (!(s.side.get sd).starved && darkHolds s sd) := by
        unfold inRearm; rw [al.dark, r1, h1]; simp
      have hag : ((starvedReport sd r s1).side.get sd).agree = (s1.side.get sd).agree ∧
          stateOf (starvedReport sd r s1) sd = .run ∧ (starvedReport sd r s1).pdu = s1.pdu := by
        unfold starvedReport; dsimp only
        split <;> split <;> simp_all [stateOf]
      rw [e]
      refine ⟨hag.2.1, lowerAgreement_lowered s sd r _ (by rw [hag.1, r1]), hag.2.2, fun hst => ?_, fun hst => ?_⟩
      · unfold starvedReport; dsimp only; rw [r1]; simp only [hst, if_true]
        cases hd : r.throughDark with
        | true => simp [r1, hst]
        | false => simp [r1]
      · unfold starvedReport; dsimp only; rw [hin, r1]; simp only [hst, Bool.false_eq_true, if_false, Bool.not_false, Bool.true_and]
        by_cases hq : (darkHolds s sd && r.throughDark) = true
        · rw [if_pos hq]; simp [r1]; simpa using hq
        · rw [if_neg hq]
          simp only [r1, hst]
          refine ⟨⟨nofun, fun x => absurd (by simpa using x) hq⟩, nofun⟩
  · have hc : ¬ (r.shows .ramp || r.shows .run || r.shows .stepdown) = true := by
      simpa [or_assoc] using ht
    refine ⟨fun _ => ?_, fun x => absurd x ht, fun x => absurd x ht⟩
    unfold runReport; rw [if_neg hc]; exact tripLit_trips sd _ s (by simp [hs])

/-! ### A far report at its side -/

/-- What a far report does, it does to its side and its side's pumps. -/
theorem FarReportTaken.congr {sd : Side} {r : Report} {s t u : State} (h : FarReportTaken sd r s t)
    (hr : u.side.get sd = t.side.get sd)
    (hd : ∀ n ∈ pumpsUp s.tab sd, driveOf t.pdu n = 0 → driveOf u.pdu n = 0)
    (hp : u.pdu.stepdown.get sd = t.pdu.stepdown.get sd)
    (hs : stateOf t sd = stateOf s sd → u = t) (hh : still u = still t) (hc : u.ctl = t.ctl) (hm : u.msg = t.msg)
    (he : sd = .east → u = t)
    (hw : sd = .east ∨ PrereqsOwn s.tab → ∀ n ∈ pumpsUp s.tab sd, SameAt n t.pdu u.pdu) : FarReportTaken sd r s u := by
  have tr : ∀ c, Trips s.choices sd c s t → Trips s.choices sd c s u := fun c x => x.congr hr hd hp hh hc hm
  have ho : ∀ l m, (True → RecordsHanded s.choices l s t ∧ NoticesMade m s t) →
      (True → RecordsHanded s.choices l s u ∧ NoticesMade m s u) := fun l m x y => ⟨(x y).1.to hc, (x y).2.to hm⟩
  have di : DarkInputJudged True s.choices [ranNotice sd] sd s t →
      DarkInputJudged True s.choices [ranNotice sd] sd s u := by
    intro x; unfold DarkInputJudged at *
    refine ⟨fun a b c => ?_, fun y => ⟨(x.2 y).1.congr hr hd hp, fun z => ((x.2 y).2 z).to hh hc hm⟩⟩
    have := x.1 a b c
    unfold stateOf at *; rw [hr]; exact ⟨this.1, this.2.1, ho _ _ this.2.2⟩
  have re : RunEntered True s.choices sd s t → RunEntered True s.choices sd s u := by
    intro x; unfold RunEntered at *
    refine ⟨fun z => ?_, fun z => di (x.2 z)⟩
    obtain ⟨a1, a2, a3, a4, a5⟩ := x.1 z
    unfold stateOf at *; rw [hr]; exact ⟨a1, a2, a3, a4, ho _ _ a5⟩
  have dk : DrivesKept sd s t → DrivesKept sd s u := fun x => x.congr hw
  have sb : ∀ n ∈ pumpsUp s.tab sd, StepBegun (sd = .east) sd n s t → StepBegun (sd = .east) sd n s u := by
    intro n hn x; unfold StepBegun stateOf at *; rw [hr]
    obtain ⟨a1, a2, a3, a4, a5, a6⟩ := x
    refine ⟨a1, a2, a3, a4, a5, fun b1 b2 b3 b4 => ⟨fun y => ?_, fun y => ?_⟩⟩
    · obtain ⟨c1, c2, c3⟩ := (a6 b1 b2 b3 b4).1 y
      exact ⟨(hw y n hn).1.trans c1, (hw y n hn).2.trans c2, fun m hm hne => (hw y m hm).1.trans (c3 m hm hne)⟩
    · rw [he y]; exact (a6 b1 b2 b3 b4).2 y
  have rp : RampEntered sd r s t → RampEntered sd r s u := by
    intro x; unfold RampEntered at *; dsimp only at *
    refine ⟨fun n l hn => ?_, fun hn => ⟨fun y => re ((x.2 hn).1 y), fun y => ?_⟩⟩
    · obtain ⟨a1, a2, a3, a4, a5⟩ := x.1 n l hn
      have hm : n ∈ pumpsUp s.tab sd := by rw [hn]; exact List.mem_cons_self ..
      unfold stateOf at *; rw [hr]
      exact ⟨a1, a2, a3, fun y => sb n hm (a4 y), fun y => ⟨(a5 y).1, dk (a5 y).2⟩⟩
    · have := (x.2 hn).2 y
      unfold stateOf at *; rw [hr]; exact this
  have li : Lighted sd s t → Lighted sd s u := fun x => x.congr hr hw
  have pe : ∀ v, ProbeEntered sd v s t → ProbeEntered sd v s u := fun v x => x.congr hr hw
  have oc : OutsideCounted sd s t → OutsideCounted sd s u := by
    intro x; unfold OutsideCounted stateOf at *; rw [hr]; exact ⟨x.1, fun y => tr _ (x.2 y)⟩
  have al : AdvertLowered sd r s t → AdvertLowered sd r s u := by
    intro x; unfold AdvertLowered at *; rw [hr]; exact x
  have so : stateOf u sd = stateOf t sd := by unfold stateOf; rw [hr]
  refine ⟨fun x => ?_, fun x => ?_, fun x => ?_, fun x => ?_, fun x => ?_⟩
  · obtain ⟨a, b, c, d, e, f⟩ := h.1 x
    unfold FarInListen; dsimp only; rw [so, hr]
    exact ⟨a, b, c, d, e, fun y => ⟨(f y).1, fun z w => pe _ ((f y).2.1 z w), (f y).2.2⟩⟩
  · obtain ⟨a, b, c, d⟩ := h.2.1 x
    unfold FarInProbe; dsimp only; rw [so, hr]
    refine ⟨fun y z => ?_, fun y z => tr _ (b y z), fun y z => tr _ (c y z), fun y z => ?_⟩
    · obtain ⟨a1, a2, a3, a4, a5, a6, a7, a8⟩ := a y z
      exact ⟨a1, a2, a3, a4, a5, a6, a7, fun n hn => hd n (List.mem_of_mem_filter hn) (a8 n hn)⟩
    · obtain ⟨d1, d2, d3, d4, d5⟩ := d y z
      refine ⟨fun w => al (d1 w), fun w => ?_, fun w v => ?_, fun w v p q => rp (d4 w v p q), d5⟩
      · obtain ⟨e1, e2, e3, e4⟩ := d2 w
        exact ⟨e1, e2, fun v => li (e3 v), fun v => ⟨(e4 v).1, by rw [hs (by rw [e1, x])]; exact (e4 v).2⟩⟩
      · have := d3 w v
        unfold ProbeTested at *; rw [so, hr]
        exact ⟨this.1, this.2.1, fun p q => ⟨(this.2.2.1 p q).1, rp (this.2.2.1 p q).2⟩, fun p q => oc (this.2.2.2 p q)⟩
  · obtain ⟨a, b, c⟩ := h.2.2.1 x
    unfold FarInRamp; dsimp only; rw [so, hr]
    refine ⟨fun y => tr _ (a y), fun y z => tr _ (b y z), fun y z => ?_⟩
    obtain ⟨c1, c2, c3⟩ := c y z
    refine ⟨fun w => al (c1 w), fun w => ?_, fun n w v => ?_⟩
    · obtain ⟨e1, e2, e3⟩ := c2 w
      refine ⟨fun n l p q => ?_, fun p q => re (e2 p q), fun p q => ?_⟩
      · have := e1 n l p q
        rw [hs (by rw [this.1, x])]; exact this
      · obtain ⟨f1, f2, f3⟩ := e3 p q
        exact ⟨f1, f2, by rw [hs (by rw [f1, x])]; exact f3⟩
    · obtain ⟨e1, e2⟩ := c3 n w v
      refine ⟨fun p => ?_, fun p q => ?_⟩
      · obtain ⟨f1, f2, f3⟩ := e1 p
        exact ⟨f1, f2, by rw [hs (by rw [f1, x])]; exact f3⟩
      · obtain ⟨f1, f2, f3⟩ := e2 p q
        refine ⟨f1, fun o => ⟨fun k hk => ?_, fun y => re ((f2 o).2 y)⟩, fun o o' => oc (f3 o o')⟩
        have := (f2 o).1 k hk
        rw [hs (by rw [this.1.1, x])]; exact this
  · obtain ⟨a, b, c⟩ := h.2.2.2.1 x
    unfold FarInRun; dsimp only; rw [so, hr]
    refine ⟨fun y => tr _ (a y), fun y z => tr _ (b y z), fun y z => ?_⟩
    obtain ⟨c1, c2, c3, c4, c5⟩ := c y z
    exact ⟨c1, al c2, by rw [hs (by rw [c1, x])]; exact c3, c4, c5⟩
  · have := h.2.2.2.2 x
    rw [hs (by rw [this]), this]

/-- A far report at its side (R49). -/
theorem farReport_taken (sd : Side) (r : Report) (s : State) (hf : farView s sd = some r) :
    FarReportTaken sd r s (farReport r sd s) := by
  refine ⟨fun x => ?_, fun x => ?_, fun x => ?_, fun x => ?_, fun x => ?_⟩
  · unfold farReport; rw [x]; exact listenReport_in sd r s x hf
  · unfold farReport; rw [x]; exact probeReport_in sd r s x hf
  · unfold farReport; rw [x]; exact rampReport_in sd r s x
  · unfold farReport; rw [x]; exact runReport_in sd r s x
  · simp only [List.mem_cons, List.not_mem_nil, or_false, not_or] at x
    unfold farReport
    cases hs : stateOf s sd <;> simp_all

/-- The same with the lead's judgment after it. -/
theorem sideEvent_farReport (sd : Side) (r : Report) (s : State) (hf : farView s sd = some r) :
    FarReportTaken sd r s (sideEvent (farReport r) sd s) := by
  have ht : (farReport r sd s).tab = s.tab := (still_fields (farReport_still r sd s)).2.2.2.2.2.2.1
  have hp := sideEvent_pumps (farReport r) sd s ht
  exact (farReport_taken sd r s hf).congr (sideEvent_own ..) hp.1 (by rw [hp.2])
    (fun hs => sideEvent_same _ _ _ hs) (sideEvent_hands ..).1 (sideEvent_hands ..).2.1 (sideEvent_hands ..).2.2
    (fun he => by unfold sideEvent; rw [he]; rfl)
    (sideEvent_own_pumps (farReport r) sd s ht)

/-! ### The lead's judgment -/

theorem mayProbe_east (s : State) : mayProbe s .east = true ↔
    stateOf s .east = .listen ∧ (s.side.get .east).ready = true ∧ pacingCount s < hdrLimit s.tab.tables ∧
      ∃ f, (s.ports.get .east).report = some f ∧ f.shows .listen = true ∧ f.ready = true := by
  unfold mayProbe farView
  cases h : (s.ports.get .east).report with
  | none => simp
  | some f =>
    simp only [Bool.and_eq_true, beq_iff_eq, decide_eq_true_eq, Option.some.injEq]
    constructor
    · rintro ⟨⟨a, b⟩, ⟨c, d⟩, e⟩; exact ⟨a, b, e, f, rfl, c, d⟩
    · rintro ⟨a, b, e, g, rfl, c, d⟩; exact ⟨⟨a, b⟩, ⟨c, d⟩, e⟩

/-- R94, R95: what the lead does at a change of its route view. -/
theorem leadJudge_judged (s : State) : LeadJudged s (leadJudge s) := by
  unfold LeadJudged; dsimp only
  rw [← mayProbe_east s]
  by_cases hl : stateOf s .east = .listen
  · have e : leadJudge s = judgeProbe .east s := by unfold leadJudge; rw [hl]
    have hg : ¬ (stateOf s .east = .probe ∧ (s.side.get .east).verified = false ∧
        hdrLimit s.tab.tables ≤ lowerSpanCount s) := by rw [hl]; rintro ⟨h, -⟩; cases h
    rw [e]
    by_cases hm : mayProbe s .east = true
    · have hs := judgeProbe_side .east s
      rw [if_pos hm] at hs
      have hready := ((mayProbe_east s).1 hm).2.1
      have ej : judgeProbe .east s = enterProbe .east s := by unfold judgeProbe; rw [if_pos hm]
      refine ⟨fun h => absurd hm h, fun _ => ?_, fun h => absurd h hg, fun _ => ?_, ?_⟩
      · rw [hs]
        refine ⟨rfl, rfl, rfl, rfl, hready, ?_⟩
        rw [ej]; exact (enterProbe_entered .east s).2.2.2.2.2.1 (Or.inl rfl)
      · rw [hs]; exact ⟨rfl, rfl, rfl, rfl, rfl⟩
      · rw [ej]; rfl
    · have ej : judgeProbe .east s = s := by unfold judgeProbe; rw [if_neg hm]
      rw [ej]
      exact ⟨fun _ _ => rfl, fun h => absurd h hm, fun h => absurd h hg,
        fun h => h.elim (fun h => absurd h hm) (fun h => absurd h hg), by cases s with | _ => rfl⟩
  · have hm : ¬ mayProbe s .east = true := fun h => hl ((mayProbe_east s).1 h).1
    by_cases hg : stateOf s .east = .probe ∧ (s.side.get .east).verified = false ∧
        hdrLimit s.tab.tables ≤ lowerSpanCount s
    · have e : leadJudge s = backOff .east s := by
        unfold leadJudge; rw [hg.1]; dsimp only; rw [if_neg (by rw [hg.2.1]; decide), if_pos hg.2.2]
      rw [e]
      have hr : (backOff .east s).side.get .east = { s.side.get .east with
          state := .listen, reason := .backOff, probe := none, verified := false, mismatchRun := 0, lit := false
          ready := readyConditions s .east } := rfl
      refine ⟨fun _ h => absurd hg h, fun h => absurd h hm, fun _ => ?_, fun _ => ?_, rfl⟩
      · rw [hr]
        refine ⟨rfl, rfl, rfl, rfl, readyConditions_iff s .east, fun n hn => ?_⟩
        exact zeroPumps_dark s.tab (List.mem_reverse.2 hn) s.pdu
      · rw [hr]; exact ⟨rfl, rfl, rfl, rfl, rfl⟩
    · have e : leadJudge s = s := by
        unfold leadJudge; split
        · rename_i h; exact absurd h hl
        · rename_i h
          split
          · rfl
          · rename_i hv
            rw [if_neg]; exact fun h' => hg ⟨h, by simpa using hv, h'⟩
        all_goals rfl
      rw [e]
      exact ⟨fun _ _ => rfl, fun h => absurd h hm, fun h => absurd h hg,
        fun h => h.elim (fun h => absurd h hm) (fun h => absurd h hg), by cases s with | _ => rfl⟩

theorem sideEvent_judged (f : Side → State → State) (s : State) :
    ViewJudged s (f .west s) (sideEvent f .west s) := by
  refine ⟨fun h => sideEvent_same f .west s h, fun h => ?_⟩
  have e : sideEvent f .west s = leadJudge (f .west s) := by unfold sideEvent; dsimp only; rw [if_pos ⟨rfl, h⟩]
  rw [e]; exact leadJudge_judged _

/-! ### The events of a port's condition -/

theorem mayListen_iff (sd : Side) (s : State) : mayListen s sd = true ↔ MayListen sd s := by
  unfold mayListen MayListen; simp [and_assoc]

theorem judgeDark_stays {sd : Side} {s : State} (h : ¬ MayListen sd s) : judgeDark sd s = s := by
  unfold judgeDark; rw [if_neg (fun hm => h ((mayListen_iff sd s).1 hm))]

theorem judgeDark_enters {sd : Side} {s : State} (h : MayListen sd s) : ListenEntered sd s (judgeDark sd s) := by
  have e : judgeDark sd s = modSide sd (SideRecord.listening (hdrSettle s.tab.tables)) s := by
    unfold judgeDark; rw [if_pos ((mayListen_iff sd s).2 h)]
  have own : (judgeDark sd s).side.get sd = SideRecord.listening (hdrSettle s.tab.tables) (s.side.get sd) := by
    rw [e]; simp
  refine ⟨?_, ?_, ?_, ?_, ?_, ?_, ?_, ?_⟩
  · rw [own, e]; rfl
  all_goals rw [own]; rfl

/-- R54, R56: a side in DARK judges the move to LISTEN. -/
theorem judgeDark_judged (sd : Side) (s : State) : DarkJudged sd s (sideEvent judgeDark sd s) := by
  refine ⟨fun h => ?_, fun h => ⟨judgeDark sd s, judgeDark_enters h, fun he => ?_, fun hw => ?_⟩⟩
  · have e := judgeDark_stays h
    rw [sideEvent_same judgeDark sd s (by rw [e]), e]
  · subst he; rfl
  · subst hw; exact sideEvent_judged judgeDark s

/-- R91, R94, R98: a side in LISTEN judges READY. -/
theorem judgeReady_judged (sd : Side) (s : State) : ReadyJudged sd s (sideEvent judgeReady sd s) := by
  unfold ReadyJudged; dsimp only
  have hr : (stateOf s sd = .listen ∧ readyConditions s sd = true) ↔ stateOf s sd = .listen ∧
      (s.side.get sd).settle = none ∧ (s.side.get sd).agree.state = .settled ∧
      (s.ports.get sd).condition = .clear ∧ s.lines.trip.get sd = false := by rw [readyConditions_iff]
  rw [← hr]
  let s1 := modSide sd (fun r => { r with ready := true }) s
  have r1 : s1.side.get sd = { s.side.get sd with ready := true } := by simp [s1]
  have hp1 : pacingCount s1 = pacingCount s := by
    unfold pacingCount routeView routeSpans; simp only [stateOf]
    cases sd <;> rfl
  refine ⟨fun h => ?_, fun h => ?_⟩
  · have e : judgeReady sd s = s := by unfold judgeReady; rw [if_neg h]
    rw [sideEvent_same judgeReady sd s (by rw [e]), e]
  · have e : judgeReady sd s = judgeProbe sd s1 := by unfold judgeReady; rw [if_pos h]
    have hs1 : stateOf s1 sd = .listen := by rw [stateOf, r1]; exact h.1
    refine ⟨?_, fun r hf ha => ?_, fun hn => ?_⟩
    · rw [sideEvent_own, e, judgeProbe_side, r1]; split <;> rfl
    · have hf1 : farView s1 sd = some r := hf
      have ha1 : ProbeAllowed s1 sd r := by unfold ProbeAllowed at *; rw [hp1]; exact ha
      have e' : judgeReady sd s = enterProbe sd s1 := by
        rw [e]; unfold judgeProbe; rw [if_pos ((mayProbe_of hf1).2 ⟨hs1, by rw [r1], ha1⟩)]
      have he := enterProbe_entered sd s1
      rw [farVerified_of hf1, ← e'] at he
      refine (ProbeEntered.from he rfl rfl).congr (sideEvent_own ..) (sideEvent_own_pumps judgeReady sd s ?_)
      exact (still_fields (judgeReady_still sd s)).2.2.2.2.2.2.1
    · have hm : ¬ mayProbe s1 sd = true := fun hm => by
        cases hf : farView s1 sd with
        | none => unfold mayProbe at hm; rw [hf] at hm; simp at hm
        | some r =>
          have := ((mayProbe_of hf).1 hm).2.2
          refine hn r hf ?_
          unfold ProbeAllowed at *; rw [hp1] at this; exact this
      have e' : judgeReady sd s = s1 := by rw [e]; unfold judgeProbe; rw [if_neg hm]
      rw [sideEvent_same judgeReady sd s (by rw [e', hs1, h.1]), e']; rfl

/-- R54, R91, R92: the event of a change of condition, but for WITHDRAWN begun. -/
theorem conditionEvent_taken (sd : Side) (old new : PortCondition) (s : State) :
    ConditionTaken sd old new s (sideEvent (conditionEvent old new) sd s) := by
  refine ⟨fun h => ?_, fun h k => ?_, fun h k => ?_, fun h k => ?_⟩
  · subst h
    have e : conditionEvent old old sd s = s := by cases old <;> rfl
    rw [sideEvent_same _ sd s (by rw [e]), e]
  · subst h k
    have e : conditionEvent .clear .degraded sd s = { s with
        side := s.side.set sd (if stateOf s sd = .listen then { s.side.get sd with ready := false }
          else s.side.get sd) } := by
      show degradedBegun sd s = _
      unfold degradedBegun; split
      · rfl
      · cases s with | _ => cases sd <;> rfl
    rw [sideEvent_same _ sd s ?_, e]
    rw [e]; unfold stateOf; dsimp only; rw [Sides.get_set]; split <;> rfl
  · subst h k; exact judgeReady_judged sd s
  · subst h k; exact judgeDark_judged sd s

/-! ### The events of the Notice Filter -/

/-- R177: a stepdown overtaken. -/
theorem enterLockout_overtakes {sd : Side} {s : State} (h : stateOf s sd = .stepdown) :
    StepdownOvertaken sd s (enterLockout sd .ordered .ordered s) := by
  have hl : (stateOf s sd).lights = true := by rw [h]; rfl
  have hh := enterLockout_handsOn (before := []) (sd := sd) (s := s) (u := s) .ordered .ordered rfl rfl rfl rfl rfl
    (fun _ => rfl) rfl (NoticesMade.none rfl) (by rw [h]; simp)
  rw [h] at hh
  refine ⟨?_, ?_, enterLockout_stepdown sd _ _ _ hl, ?_, ?_, fun n hn => enterLockout_dark sd _ _ _ hl hn, hh⟩
  · unfold stateOf; rw [enterLockout_own]; rfl
  all_goals rw [enterLockout_own]; rfl

/-- R57, R64, R177: the trip event of a notice at a side. -/
theorem tripEvent_noticed (sd : Side) (s : State) : NoticeTripTaken sd s (tripEvent .notice sd s) := by
  refine ⟨tripEvent_took sd .notice s, fun h => ?_, fun h => ?_⟩
  · have e : tripEvent .notice sd s = enterLockout sd .ordered .ordered s := by unfold tripEvent; rw [h]; rfl
    rw [e]; exact enterLockout_overtakes h
  · unfold tripEvent; split <;> simp_all

/-- R149: a defer does not shorten a longer wait. -/
theorem deferredRetry_keeps {i n : Nat} {l : Bool} {r : Option Nat} (hr : r = some n) (hl : l = true) (hi : i < n) :
    deferredRetry i l r = r := by
  subst hr hl; exact if_pos (by simpa using hi)
/-- R149: it restarts every other wait. -/
theorem deferredRetry_restarts {i : Nat} {l : Bool} {r : Option Nat} (h : ∀ n, r = some n → l = false ∨ n ≤ i) :
    deferredRetry i l r = some i := by
  cases r with
  | none => rfl
  | some n =>
    refine if_neg ?_
    simp only [Bool.and_eq_true, decide_eq_true_eq]
    rintro ⟨x, y⟩
    rcases h n rfl with z | z
    · rw [z] at x; cases x
    · exact absurd y (Nat.not_lt.2 z)

/-- R55, R57, R149: the defer event at a side. -/
theorem deferEvent_deferred (sd : Side) (s : State) : Deferred sd s (deferEvent sd s) := by
  unfold Deferred; dsimp only
  refine ⟨fun h => ?_, fun h => ?_, fun h => ?_⟩
  · have e : deferEvent sd s = setSide sd { s.side.get sd with
        retry := deferredRetry (restartInterval s) (waitsLonger s sd) (s.side.get sd).retry } s := by
      unfold deferEvent; rw [h]; rfl
    rw [e]
    refine ⟨fun n hn hl hi => ?_, fun hs => ?_⟩
    · rw [deferredRetry_keeps hn (by cases sd <;> exact hl) hi]
      cases s with | _ => cases sd <;> rfl
    · rw [deferredRetry_restarts (by cases sd <;> exact hs)]; rfl
  · have e : deferEvent sd s = leaveListen sd .defer (restartInterval s) s := by unfold deferEvent; rw [h]
    have hr : (deferEvent sd s).side.get sd =
        if s.hold.view = 0 then (s.side.get sd).darkened .defer (restartInterval s)
        else ((s.side.get sd).darkened .defer (restartInterval s)).held := by
      rw [e]; unfold leaveListen; rw [onToHold_own]
      by_cases hv : s.hold.view = 0 <;> simp [hv, stateOf, SideRecord.darkened]
    have hw : deferEvent sd s = { s with side := s.side.set sd ((deferEvent sd s).side.get sd) } := by
      rw [e]; unfold leaveListen onToHold
      split <;> cases s with | _ => cases sd <;> rfl
    refine ⟨?_, ?_, ?_, ?_, ?_, ?_, hw⟩
    · unfold RestsWith stateOf; rw [hr]
      by_cases hv : s.hold.view = 0
      · rw [if_pos hv, if_pos hv, if_pos hv, if_pos hv]; exact ⟨rfl, rfl, rfl⟩
      · rw [if_neg hv, if_neg hv, if_neg hv, if_neg hv]; exact ⟨rfl, rfl, rfl⟩
    all_goals rw [hr]; split <;> rfl
  · unfold deferEvent; split <;> simp_all

end Sys2Proof.Machine
end

