-- ==== Sys2Proof/Laws/Holds.lean ====
section
/-! SUPPORT. What the Hold Unit's recomputation of the obeyed hold view does to the view and to the sides (R138 to
R140, R58, R59). -/

namespace Sys2Proof.Machine

/-! ### The other side -/

/-- Under prerequisites within a side, an immediate cut leaves the other side's pumps as they stand (R114, R115). -/
theorem immediateCut_at {sd : Side} (s : State) (hp : PrereqsOwn s.tab) {n : Nat} (h : n ∈ pumpsUp s.tab sd.other) :
    SameAt n s.pdu (immediateCut sd s).pdu := by
  refine (zeroPumps_at hp (pumpsDown s.tab sd) (fun m hm => ?_) s.pdu : SameAt n s.pdu _)
  rw [pumpsUp_side (List.mem_reverse.1 hm), pumpsUp_side h]
  cases sd <;> decide

/-- An event whose still part is kept, the other side's record with it. -/
theorem OneSide.of {sd : Side} {s t : State} (h : still t = still s) (ho : t.side.get sd.other = s.side.get sd.other)
    (hd : PrereqsOwn s.tab → ∀ n ∈ pumpsUp s.tab sd.other, driveOf t.pdu n = driveOf s.pdu n) : OneSide sd s t := by
  have hf := still_fields h
  unfold OneSide SameOutside; tauto

theorem litExit_oneSide (sd : Side) (c : Cause) (e : SideState) (f : SideRecord → SideRecord) (s : State) :
    OneSide sd s (litExit sd c e f s) := by
  refine OneSide.of (litExit_still ..) (litExit_other ..) fun hp n hn => ?_
  have : (litExit sd c e f s).pdu = (immediateCut sd (modSide sd f s)).pdu := by unfold litExit; simp
  rw [this]
  exact (immediateCut_at (modSide sd f s) hp hn).1

theorem enterLockout_oneSide (sd : Side) (c r : Cause) (s : State) : OneSide sd s (enterLockout sd c r s) := by
  refine OneSide.of (enterLockout_still ..) (enterLockout_other ..) fun hp n hn => ?_
  have : (enterLockout sd c r s).pdu = (if (stateOf s sd).lights then
      immediateCut sd (modSide sd (SideRecord.lockedOut c) s) else s).pdu := by
    unfold enterLockout; dsimp only; split <;> simp
  rw [this]; split
  · exact (immediateCut_at (modSide sd (SideRecord.lockedOut c) s) hp hn).1
  · rfl

/-! ### Hold-begun and hold-ended at a side -/

/-- A record gone to HOLD (R58). -/
theorem InHold.of {sd : Side} {s t : State} (h : t.side.get sd = (s.side.get sd).held) : InHold sd s t := by
  unfold InHold; rw [h]; exact ⟨rfl, rfl, rfl, rfl, rfl, rfl, rfl, rfl, rfl, rfl, rfl⟩

/-- R58, R177: a side takes hold-begun. -/
theorem holdBegun_taken (sd : Side) (s : State) : HoldBegunTaken sd s (holdBegun sd s) := by
  refine ⟨fun h => ?_, fun h => ?_, fun h => ?_, fun h => ?_⟩
  · have e : holdBegun sd s = modSide sd SideRecord.held s := by
      simp only [List.mem_cons, List.not_mem_nil, or_false] at h
      unfold holdBegun; rcases h with h | h <;> rw [h]
    have own : (holdBegun sd s).side.get sd = (s.side.get sd).held := by rw [e]; simp
    exact ⟨InHold.of own, by rw [own, e]; rfl⟩
  · have ha : stateOf s sd ≠ .absent := by intro k; rw [k] at h; simp at h
    have e : holdBegun sd s = litExit sd .hold .hold SideRecord.held s := by
      simp only [List.mem_cons, List.not_mem_nil, or_false] at h
      unfold holdBegun; rcases h with h | h | h <;> rw [h]
    have own : (holdBegun sd s).side.get sd = (s.side.get sd).held := by rw [e]; simp
    have hh := litExit_handsOn (before := []) (sd := sd) (s := s) (u := s) .hold .hold SideRecord.held
      (Alike.refl sd s) (NoticesMade.none rfl) ha (by simp [SideRecord.held])
    refine ⟨InHold.of own, ?_, by rw [e]; exact litExit_oneSide .., by rw [e]; exact hh.1, by rw [e]; exact hh.2⟩
    unfold Extinguished; rw [own, e]
    exact ⟨rfl, rfl, rfl, rfl, rfl, rfl, rfl, rfl, rfl, rfl, rfl, rfl, fun n hn => litExit_dark _ _ _ _ _ hn,
      litExit_stepdown ..⟩
  · have e : holdBegun sd s = enterLockout sd .ordered .ordered s := by unfold holdBegun; rw [h]
    rw [e]; exact ⟨enterLockout_overtakes h, enterLockout_oneSide ..⟩
  · unfold holdBegun; split <;> simp_all

/-- R59, R54: a side takes hold-ended, the view now empty. -/
theorem holdEnded_taken (sd : Side) (s : State) (hv : s.hold.view = 0) : HoldEndedTaken sd s (holdEnded sd s) := by
  refine ⟨fun h => ?_, fun h => ?_, fun h => ?_⟩
  · let d := fun r : SideRecord => r.darkened r.reason (tripRest s)
    have e1 : enterDark sd (tripRest s) s = modSide sd d s := by
      unfold enterDark onToHold; rw [if_neg (fun k => k.2 hv)]
    have e : holdEnded sd s = modSide sd d s := by
      unfold holdEnded; rw [h]; dsimp only
      rw [e1, judgeDark_stays]
      intro m
      have := m.2.2.2.2.1
      simp [d, SideRecord.darkened] at this
    have own : (holdEnded sd s).side.get sd = d (s.side.get sd) := by rw [e]; simp
    dsimp only; rw [own, e]
    exact ⟨rfl, rfl, rfl, rfl, rfl, rfl, rfl, rfl, rfl⟩
  · have e : holdEnded sd s = judgeDark sd s := by unfold holdEnded; rw [h]
    rw [e]; exact ⟨judgeDark_stays, judgeDark_enters⟩
  · unfold holdEnded; split <;> simp_all

/-! ### The view -/

/-- The state with the view recomputed, before the sides take its change. -/
def reviewed (s : State) : State := { s with hold := { s.hold with view := heldView s } }

theorem recomputeView_same {s : State} (h : heldView s = s.hold.view) : recomputeView s = s := if_pos h
theorem recomputeView_begins {s : State} (h0 : s.hold.view = 0) (h1 : heldView s ≠ 0) :
    recomputeView s = bothSides (sideEvent holdBegun) (reviewed s) :=
  (if_neg fun e : heldView s = s.hold.view => h1 (e.trans h0)).trans (if_pos h0)
theorem recomputeView_ends {s : State} (h0 : s.hold.view ≠ 0) (h1 : heldView s = 0) :
    recomputeView s = bothSides (sideEvent holdEnded) (reviewed s) :=
  (if_neg fun e : heldView s = s.hold.view => h0 (e.symm.trans h1)).trans ((if_neg h0).trans (if_pos h1))
theorem recomputeView_still_held {s : State} (h : s.hold.view = 0 ↔ heldView s = 0) : recomputeView s = reviewed s := by
  by_cases e : heldView s = s.hold.view
  · rw [recomputeView_same e]; unfold reviewed; rw [e]
  · have h0 : s.hold.view ≠ 0 := fun k => e ((h.1 k).trans k.symm)
    exact (if_neg e).trans ((if_neg h0).trans (if_neg fun k => h0 (h.2 k)))

/-- An event of both sides, taken in the order of the command's choices. -/
theorem bothSides_inTurn {taken : Side → State → State → Prop} (f : Side → State → State) (s : State)
    (hs : ∀ sd s, still (f sd s) = still s)
    (h : ∀ sd t, t.hold = s.hold → taken sd t (f sd t)) : SidesInTurn taken s (bothSides (sideEvent f) s) := by
  have east : ∀ t, sideEvent f .east t = f .east t := fun _ => rfl
  have hold : ∀ sd t, (f sd t).hold = t.hold := fun sd t => (still_fields (hs sd t)).2.2.2.2.2.2.2.2.1
  have lead : (sideEvent f .west s).hold = s.hold :=
    (still_fields (sideEvent_still f hs .west s)).2.2.2.2.2.2.2.2.1
  refine ⟨fun he => ⟨f .west s, sideEvent f .west s, h .west s rfl, sideEvent_judged f s, ?_⟩,
    fun he => ⟨f .east s, f .west (f .east s), h .east s rfl, h .west _ (hold .east s), ?_⟩⟩
  · have e : bothSides (sideEvent f) s = f .east (sideEvent f .west s) := by unfold bothSides; rw [he]; rfl
    rw [e]; exact h .east _ lead
  · have e : bothSides (sideEvent f) s = sideEvent f .west (f .east s) := by unfold bothSides; rw [he]; rfl
    rw [e]; exact sideEvent_judged f (f .east s)

/-- R138 to R140: the recomputation of the obeyed hold view, with what both sides take. -/
theorem recomputeView_recomputed (s : State) : ViewRecomputed s (recomputeView s) := by
  refine ⟨fun h0 h1 => ?_, fun h0 h1 => ?_, recomputeView_still_held⟩
  · rw [recomputeView_begins h0 h1]
    exact bothSides_inTurn holdBegun _ holdBegun_still fun sd t _ => holdBegun_taken sd t
  · rw [recomputeView_ends h0 h1]
    exact bothSides_inTurn holdEnded _ holdEnded_still fun sd t ht => holdEnded_taken sd t (by rw [ht]; exact h1)

/-- R135 to R137: the own hold bit has changed, and the view is recomputed. -/
theorem recomputeOwn_recomputed {s : State} (h : (s.hold.request || s.lines.hold) ≠ s.hold.own) :
    ViewRecomputed { s with hold := { s.hold with own := s.hold.request || s.lines.hold } } (recomputeOwn s) := by
  unfold recomputeOwn; dsimp only; rw [if_neg h]; exact recomputeView_recomputed _

/-- R138: a received hold set is taken, and the view recomputed. -/
theorem takeHoldSet_recomputed (sd : Side) (s : State) :
    ViewRecomputed { s with hold := { s.hold with sets := s.hold.sets.set sd (s.ports.get sd).holdSet } }
      (takeHoldSet sd s) := recomputeView_recomputed _

theorem bothSides_hold (f : Side → State → State) (s : State) (hs : ∀ sd s, still (f sd s) = still s) :
    (bothSides (sideEvent f) s).hold = s.hold :=
  (still_fields (bothSides_still _ (fun sd s => sideEvent_still f hs sd s) s)).2.2.2.2.2.2.2.2.1

/-- A recomputation leaves the Hold Unit with the view it computes. -/
theorem recomputeView_hold (s : State) : (recomputeView s).hold = { s.hold with view := heldView s } := by
  by_cases h0 : s.hold.view = 0 <;> by_cases h1 : heldView s = 0
  · rw [recomputeView_still_held (⟨fun _ => h1, fun _ => h0⟩)]; rfl
  · rw [recomputeView_begins h0 h1, bothSides_hold _ _ holdBegun_still]; rfl
  · rw [recomputeView_ends h0 h1, bothSides_hold _ _ holdEnded_still]; rfl
  · rw [recomputeView_still_held (⟨fun e => absurd e h0, fun e => absurd e h1⟩)]; rfl

end Sys2Proof.Machine
end

