-- ==== Sys2Proof/Laws/Queues.lean ====
section
/-! SUPPORT. What joins an outbound queue keeps its law (R156 to R158). -/

namespace Sys2Proof.Machine

/-- Which subject a notice of this part is about: 0 West, 1 East, 2 the site (R157). -/
def subjectOf (n : Message) : Nat := if n.kind = 115 then 2 else if octetAt n.body 0 = 0 then 0 else 1

theorem subjectOf_lt (n : Message) : subjectOf n < 3 := by
  unfold subjectOf; split
  · omega
  · split <;> omega

/-- Notices of this part about different subjects have different subject numbers. -/
theorem subjectOf_ne {a b : Message} (ha : OwnNotice a) (hb : OwnNotice b) (h : sameSubject a b = false) :
    subjectOf a ≠ subjectOf b := by
  unfold sameSubject at h
  unfold subjectOf
  rcases ha with ha | ha | ha <;> rcases hb with hb | hb | hb <;> by_cases h1 : a.kind = 115 <;>
    by_cases h2 : b.kind = 115 <;> simp_all

/-- At most three numbers below 3 are different from each other. -/
theorem length_le_of_subjects {l : List Message} (hp : l.Pairwise (fun a b => sameSubject a b = false))
    (ho : ∀ n ∈ l, OwnNotice n) : l.length ≤ 3 := by
  have hn : (l.map subjectOf).Nodup := by
    rw [List.nodup_iff_pairwise_ne, List.pairwise_map]
    exact hp.imp_of_mem (fun ha hb h => subjectOf_ne (ho _ ha) (ho _ hb) h)
  have hs : (l.map subjectOf) ⊆ List.range 3 := by
    intro x hx
    obtain ⟨a, -, rfl⟩ := List.mem_map.1 hx
    exact List.mem_range.2 (subjectOf_lt a)
  have := (hn.subperm hs).length_le
  simpa using this

/-- R157: at most three notices of this part stand in an outbound queue. -/
theorem queueLaw_notices {q : OutQueue} (h : QueueLaw q) : q.notices.length ≤ 3 :=
  length_le_of_subjects h.2.1 h.2.2

/-- What a notice supersedes leaves the others, and the notice joins them last. -/
theorem kept_law {q : OutQueue} (h : QueueLaw q) {n : Message} (hn : OwnNotice n) :
    let kept := q.notices.filter fun a => !sameSubject a n
    (kept ++ [n]).Pairwise (fun a b => sameSubject a b = false) ∧ (∀ a ∈ kept ++ [n], OwnNotice a) ∧
      kept.length ≤ 2 ∧ kept.length ≤ q.notices.length := by
  dsimp only
  have hp : (q.notices.filter (fun a => !sameSubject a n) ++ [n]).Pairwise (fun a b => sameSubject a b = false) := by
    rw [List.pairwise_append]
    refine ⟨h.2.1.filter _, List.pairwise_singleton _ _, fun a ha b hb => ?_⟩
    rw [List.mem_singleton.1 hb]
    simpa using (List.mem_filter.1 ha).2
  have ho : ∀ a ∈ q.notices.filter (fun a => !sameSubject a n) ++ [n], OwnNotice a := by
    intro a ha
    rcases List.mem_append.1 ha with ha | ha
    · exact h.2.2 a (List.mem_of_mem_filter ha)
    · rw [List.mem_singleton.1 ha]; exact hn
  have hl := length_le_of_subjects hp ho
  rw [List.length_append, List.length_singleton] at hl
  exact ⟨hp, ho, by omega, List.length_filter_le ..⟩

theorem releaseReset_out (v : Queued) (m : MsgEngine) : (releaseReset v m).out = m.out := by
  unfold releaseReset; split <;> rfl

/-- R157: a notice of this part joins a queue, and the queue keeps its law. -/
theorem joinNotice_law {m : MsgEngine} {sd : Side} {n : Message} (h : QueueLaw (m.out.get sd)) (hn : OwnNotice n) :
    QueueLaw ((joinNotice n sd m).out.get sd) ∧
      ((joinNotice n sd m).out.get sd).notices =
        ((m.out.get sd).notices.filter fun a => !sameSubject a n) ++ [n] ∧
      (joinNotice n sd m).out.get sd.other = m.out.get sd.other := by
  obtain ⟨hp, ho, h2, hk⟩ := kept_law h hn
  have hs := h.1; unfold OutQueue.size at hs
  unfold joinNotice; dsimp only; split
  · rename_i hlt
    rw [Sides.get_set, Sides.get_set_other]
    refine ⟨⟨?_, hp, ho⟩, rfl, rfl⟩
    have : Config.outQueueSize = 8 := rfl
    unfold OutQueue.size; dsimp only; rw [List.length_append, List.length_singleton]; omega
  · rename_i hge
    have : Config.outQueueSize = 8 := rfl
    split
    · rename_i hv
      have he : (m.out.get sd).messages = [] := List.getLast?_eq_none_iff.1 hv
      rw [he] at hge; simp at hge; omega
    · rw [discardMessage, releaseReset_out, Sides.get_set, Sides.get_set_other]
      refine ⟨⟨?_, hp, ho⟩, rfl, rfl⟩
      unfold OutQueue.size; dsimp only; rw [List.length_append, List.length_singleton, List.length_dropLast]; omega

/-- R158: a message that joins a queue keeps its law. -/
theorem joinMessage_law {m : MsgEngine} {sd : Side} (v : Queued) (h : ∀ x, QueueLaw (m.out.get x)) (x : Side) :
    QueueLaw ((joinMessage sd v m).out.get x) := by
  unfold joinMessage; dsimp only; split
  · rename_i hlt
    by_cases hx : x = sd
    · subst hx; rw [Sides.get_set]
      refine ⟨?_, (h x).2⟩
      have : Config.outQueueSize = 8 := rfl
      unfold OutQueue.size at *; dsimp only; rw [List.length_append, List.length_singleton]; omega
    · rw [Sides.get_set_ne _ _ _ _ hx]; exact h x
  · rw [discardMessage, releaseReset_out]; exact h x

end Sys2Proof.Machine
end

