-- ==== Sys2Proof/Laws/Requests.lean ====
section
/-! SUPPORT. How a command begins (its choices in place) and the judgments every request passes. -/

namespace Sys2Proof.Machine

/-! ### The state as a command begins -/

/-- A command of the powered part, with the state it begins on. -/
theorem runWith_begins {s : State} (h : s.powered = true) (ch : Choices) (f : State → State) :
    runWith ch f s = .next (settle (f (withChoices ch s))) := runWith_powered ch f s h

@[simp] theorem withChoices_powered (ch : Choices) (s : State) : (withChoices ch s).powered = s.powered := rfl
@[simp] theorem withChoices_position (ch : Choices) (s : State) : (withChoices ch s).position = s.position := rfl
@[simp] theorem withChoices_time (ch : Choices) (s : State) : (withChoices ch s).time = s.time := rfl
@[simp] theorem withChoices_lines (ch : Choices) (s : State) : (withChoices ch s).lines = s.lines := rfl
@[simp] theorem withChoices_ports (ch : Choices) (s : State) : (withChoices ch s).ports = s.ports := rfl
@[simp] theorem withChoices_tx (ch : Choices) (s : State) : (withChoices ch s).tx = s.tx := rfl
@[simp] theorem withChoices_tab (ch : Choices) (s : State) : (withChoices ch s).tab = s.tab := rfl
@[simp] theorem withChoices_side (ch : Choices) (s : State) : (withChoices ch s).side = s.side := rfl
@[simp] theorem withChoices_pdu (ch : Choices) (s : State) : (withChoices ch s).pdu = s.pdu := rfl
@[simp] theorem withChoices_scan (ch : Choices) (s : State) : (withChoices ch s).scan = s.scan := rfl
@[simp] theorem withChoices_hold (ch : Choices) (s : State) : (withChoices ch s).hold = s.hold := rfl
@[simp] theorem withChoices_msg (ch : Choices) (s : State) : (withChoices ch s).msg = s.msg := rfl
@[simp] theorem withChoices_loc (ch : Choices) (s : State) : (withChoices ch s).loc = s.loc := rfl
@[simp] theorem withChoices_ctl (ch : Choices) (s : State) : (withChoices ch s).ctl = s.ctl := rfl
@[simp] theorem withChoices_store (ch : Choices) (s : State) : (withChoices ch s).store = s.store := rfl
@[simp] theorem withChoices_choices (ch : Choices) (s : State) : (withChoices ch s).choices = ch := rfl
@[simp] theorem withChoices_free (ch : Choices) (s : State) : (withChoices ch s).free = s.free := rfl
@[simp] theorem withChoices_pending (ch : Choices) (s : State) : (withChoices ch s).pending = s.pending := rfl
@[simp] theorem withChoices_stateOf (ch : Choices) (s : State) (sd : Side) :
    stateOf (withChoices ch s) sd = stateOf s sd := rfl
@[simp] theorem withChoices_isAbsent (ch : Choices) (s : State) (sd : Side) :
    isAbsent (withChoices ch s) sd = isAbsent s sd := rfl
@[simp] theorem withChoices_eitherActive (ch : Choices) (s : State) :
    eitherActive (withChoices ch s) = eitherActive s := rfl
@[simp] theorem withChoices_pos (ch : Choices) (s : State) : pos (withChoices ch s) = pos s := rfl
@[simp] theorem withChoices_posOctet (ch : Choices) (s : State) : posOctet (withChoices ch s) = posOctet s := rfl
@[simp] theorem withChoices_taken (ch : Choices) (s : State) (req : Request) :
    taken (withChoices ch s) req = taken s req := rfl

/-! ### A request as handled -/

@[simp] theorem taken_via (s : State) (r : Request) : (taken s r).via = r.via := by
  cases h : r.via <;> simp [taken, h]

@[simp] theorem taken_tag (s : State) (r : Request) : (taken s r).tag = r.tag := by
  cases h : r.via <;> simp [taken, h]

@[simp] theorem taken_len (s : State) (r : Request) : (taken s r).len = r.len := by
  cases h : r.via <;> simp [taken, h]

@[simp] theorem taken_body (s : State) (r : Request) : (taken s r).body = r.body := by
  cases h : r.via <;> simp [taken, h]

@[simp] theorem writeBody_taken (s : State) (r : Request) (st : Status) (off : Octet) :
    writeBody (taken s r) st off = writeBody r st off := by simp [writeBody]

@[simp] theorem writtenEntry_taken (s : State) (r : Request) : writtenEntry (taken s r) = writtenEntry r := by
  simp [writtenEntry]

@[simp] theorem sideRefusal_taken (s : State) (r : Request) (st : Status) (c : Octet) :
    sideRefusal (taken s r) st c = sideRefusal r st c := by simp [sideRefusal]

/-- A reply to the request as handled is the answer of the statements. -/
theorem reply_taken (kind : Octet) (req : Request) (body : List Octet) (s t : State) (h : t.position = s.position) :
    reply kind (taken s req) body t = answer kind req body t := by
  have : taken s req = taken t req := by
    cases hv : req.via <;> simp [taken, hv, posOctet, h]
  simp only [reply, answer, taken_tag, this]

@[simp] theorem sideOf_sideOctet (sd : Side) : sideOf (sideOctet sd) = some sd := by cases sd <;> rfl

/-- R164: a permitted request is not denied, another one is. -/
theorem denied_eq_false {s : State} {req : Request} (h : Permitted s req) : denied s (taken s req) = false := by
  rcases h with h | ⟨h1, h2⟩
  · simp [denied, h]
  · cases hv : req.via
    · simp [denied, taken, hv, isManager, h1, h2]
    · simp [denied, hv]

theorem denied_eq_true {s : State} {req : Request} (h : ¬ Permitted s req) : denied s (taken s req) = true := by
  simp only [Permitted, not_or, not_and, Bool.not_eq_true] at h
  obtain ⟨h1, h2⟩ := h
  cases hv : req.via
  · by_cases hl : req.source.toNat < 32
    · have h3 := h2 hl
      simp only [denied, taken, hv, isManager, hl, h3, decide_true, Bool.and_false, Bool.not_false]
      rfl
    · simp [denied, taken, hv, isManager, hl]
  · exact absurd hv h1

/-- A modifying request accepted by R163 goes on to its rule. -/
theorem judgeModifying_accepted {s : State} {req : Request} (h : Accepted s req) (ch : Choices) (kind : Octet)
    (refusal : Status → List Octet) (rule : State → State) :
    judgeModifying kind (taken s req) refusal rule (withChoices ch s) = rule (withChoices ch s) := by
  have hd : denied (withChoices ch s) (taken s req) = false := denied_eq_false (s := withChoices ch s) h.2.1
  rw [judgeModifying, hd]
  simp [judgePending, h.2.2]

/-- A reading request with no route reset pending goes on to its rule. -/
theorem judgePending_idle {s : State} (h : s.msg.resetPhase = .idle) (ch : Choices) (kind : Octet) (req : Request)
    (refusal : Status → List Octet) (rule : State → State) :
    judgePending kind req refusal rule (withChoices ch s) = rule (withChoices ch s) := by
  simp [judgePending, h]

/-- A request about a side that exists, accepted and of the right length, goes on to its rule (R173). -/
theorem sideRequest_accepted {s : State} {req : Request} {sd : Side} {len : Octet} (h : Accepted s req)
    (hl : req.len = len) (ho : octetAt req.body 0 = sideOctet sd) (ha : isAbsent s sd = false) (ch : Choices)
    (kind : Octet) (rule : Side → State → State) :
    sideRequest kind len (taken s req) rule (withChoices ch s) = rule sd (withChoices ch s) := by
  rw [sideRequest, judgeModifying_accepted h]
  simp [hl, ho, ha]

/-! ### Flag octets (R165, R166, R136) -/

/-- Bit i of a flag octet is the i-th flag of its list. -/
theorem flagOctet_bit (l : List Bool) (i : Nat) (h : l.length ≤ 8) : (flagOctet l).getLsbD i = l.getD i false := by
  have bits : ∀ (l : List Bool) (i : Nat),
      (l.foldr (fun (b : Bool) (a : Nat) => 2 * a + b.toNat) 0).testBit i = l.getD i false := by
    intro l
    induction l with
    | nil => intro i; simp
    | cons b l ih =>
      intro i
      cases i with
      | zero =>
        rw [List.foldr_cons, Nat.testBit_zero, List.getD_cons_zero]
        cases b <;> simp
      | succ i =>
        rw [List.getD_cons_succ, ← ih, List.foldr_cons, Nat.testBit_succ]
        congr 1
        cases b
        · simp
        · simp; omega
  rw [flagOctet, natOctet, BitVec.getLsbD_ofNat, bits]
  by_cases hi : i < 8
  · simp [hi]
  · have : l.length ≤ i := by omega
    simp [hi, List.getElem?_eq_none this]

end Sys2Proof.Machine
end

