-- ==== Sys2Proof/Laws/Reception.lean ====
section
/-! SUPPORT. What is received: the order in which an arrival hands on (R11, R151), the local receiver over portions of
octets (R160, R161), and requests by their kind (section 7.1). -/

namespace Sys2Proof.Machine

/-! ### What an arrival hands on -/

/-- An order of all four that the command gives is the order taken. -/
theorem handOrder_nodup (a b c d : HandOn) (h : [a, b, c, d].Nodup) : handOrder [a, b, c, d] = [a, b, c, d] := by
  cases a <;> cases b <;> cases c <;> cases d <;> first | rfl | exact absurd h (by decide)

theorem handAll_nodup (port : Side) (f : Frame) {s : State} {a b c d : HandOn} (h : s.choices.handOn = [a, b, c, d])
    (hn : [a, b, c, d].Nodup) :
    handAll port f s = handOne port f d (handOne port f c (handOne port f b (handOne port f a s))) := by
  unfold handAll; rw [h, handOrder_nodup a b c d hn]; rfl

/-! ### The local receiver -/

@[simp] theorem takeOctets_nil (s : State) : takeOctets [] s = s := rfl
@[simp] theorem takeOctets_cons (o : Octet) (l : List Octet) (s : State) :
    takeOctets (o :: l) s = takeOctets l (takeOctet s o) := rfl

/-- Octets are taken in whatever portions they come. -/
theorem takeOctets_append (l m : List Octet) (s : State) : takeOctets (l ++ m) s = takeOctets m (takeOctets l s) :=
  List.foldl_append

/-- A hunting receiver discards every octet but the start octet. -/
theorem takeOctets_noise {l : List Octet} {s : State} (h : s.loc.receiver = .hunting) (hl : ∀ o ∈ l, o ≠ 0xA5) :
    takeOctets l s = s := by
  induction l with
  | nil => rfl
  | cons o l ih =>
    have e : takeOctet s o = s := by unfold takeOctet; rw [h]; exact if_neg (hl o (List.mem_cons_self ..))
    rw [takeOctets_cons, e]; exact ih fun x hx => hl x (List.mem_cons_of_mem _ hx)

theorem takeOctet_start {s : State} (h : s.loc.receiver = .hunting) : takeOctet s 0xA5 =
    { s with loc := { s.loc with receiver := .receiving [], rateApplied := s.loc.rateInForce } } := by
  unfold takeOctet; rw [h]; dsimp only; rw [if_pos rfl]; unfold applyRate setReceiver; rw [h]

/-- A receiving receiver stores octets while it holds fewer than 30. -/
theorem takeOctets_stored {l held : List Octet} {s : State} (h : s.loc.receiver = .receiving held)
    (hl : held.length + l.length < 30) :
    takeOctets l s = { s with loc := { s.loc with receiver := .receiving (held ++ l) } } := by
  induction l generalizing held s with
  | nil => rw [List.append_nil, ← h]; rfl
  | cons o l ih =>
    rw [List.length_cons] at hl
    have e : takeOctet s o = setReceiver (.receiving (held ++ [o])) s := by
      unfold takeOctet; rw [h]; exact if_pos (by omega)
    rw [takeOctets_cons, e, ih (held := held ++ [o]) rfl (by simp; omega), List.append_assoc]; rfl

/-- The octet that makes 30 has the frame judged. -/
theorem takeOctets_judged {l held : List Octet} {s : State} (h : s.loc.receiver = .receiving held)
    (hh : held.length < 30) (hl : (held ++ l).length = 30) : takeOctets l s = localFrame (held ++ l) s := by
  rcases List.eq_nil_or_concat l with rfl | ⟨a, o, rfl⟩
  · rw [List.append_nil] at hl; omega
  · simp only [List.concat_eq_append, List.length_append, List.length_cons, List.length_nil] at *
    rw [takeOctets_append, takeOctets_stored h (by omega), takeOctets_cons, takeOctets_nil, takeOctet]
    dsimp only
    rw [if_neg (by simp; omega), List.append_assoc]
    unfold localFrame framingError setReceiver; rfl

/-- A completed frame is judged in the state in which the receiver hunts again (R160). -/
theorem takeOctets_completed {octets frame : List Octet} {s u : State} (h : FrameCompleted octets frame s u) :
    takeOctets octets s =
      if crc16 (frame.take 28) = word16At frame 28 then localMessage (messageOf frame) u
      else onMsg (fun m => { m with framingErrors := satInc m.framingErrors }) u := by
  obtain ⟨hl, ⟨held, h1, h2, rfl, rfl⟩ | ⟨noise, h1, rfl, h3, rfl⟩⟩ := h
  · rw [takeOctets_judged h1 h2 hl]; rfl
  · rw [takeOctets_append, takeOctets_noise h1 h3, takeOctets_cons, takeOctet_start h1,
      takeOctets_judged (held := []) rfl (by decide) hl]; rfl

/-! ### Requests by their kind -/

/-- A kind the part does not define (R163). -/
theorem handleRequest_unknown (kind : Octet) (r : Request) (h : kind = 0 ∨ 16 < kind.toNat) :
    handleRequest kind r = reqUnknown kind r := by
  funext s
  rcases h with rfl | h
  · rfl
  · unfold handleRequest; split
    case h_17 => rfl
    all_goals omega

/-- An operation that neither reads nor changes the choices of the command. -/
def ChoiceFree (f : State → State) : Prop := ∀ ch s, f (withChoices ch s) = withChoices ch (f s)

theorem ChoiceFree.ite {f g : State → State} (c : State → Prop) [∀ s, Decidable (c s)]
    (hc : ∀ ch s, c (withChoices ch s) ↔ c s) (hf : ChoiceFree f) (hg : ChoiceFree g) :
    ChoiceFree fun s => if c s then f s else g s := by
  intro ch s; dsimp only
  by_cases h : c s
  · rw [if_pos h, if_pos ((hc ch s).2 h)]; exact hf ch s
  · rw [if_neg h, if_neg fun k => h ((hc ch s).1 k)]; exact hg ch s

theorem routeResponse_free (v : Queued) : ChoiceFree (routeResponse v) := by
  refine ChoiceFree.ite (fun _ => 31 < v.msg.dest.toNat) (fun _ _ => Iff.rfl) (fun _ _ => rfl) ?_
  refine ChoiceFree.ite (fun s => v.msg.dest.toNat = pos s) (fun _ _ => Iff.rfl) (fun _ _ => rfl) ?_
  exact ChoiceFree.ite (fun s => isAbsent s (routeSide s v.msg.dest) = true) (fun _ _ => Iff.rfl) (fun _ _ => rfl)
    (fun _ _ => rfl)

/-- A response with a body read off the state, after a change of it. -/
theorem reply_free (kind : Octet) (r : Request) (b : State → List Octet) (f : State → State)
    (hb : ∀ ch s, b (withChoices ch s) = b s) (hf : ChoiceFree f) : ChoiceFree fun s => reply kind r (b s) (f s) := by
  intro ch s; dsimp only; rw [hb, hf]; exact routeResponse_free _ ch (f s)

theorem reply_same_free (kind : Octet) (r : Request) (b : List Octet) : ChoiceFree (reply kind r b) :=
  reply_free kind r (fun _ => b) id (fun _ _ => rfl) (fun _ _ => rfl)

theorem judgePending_free (kind : Octet) (r : Request) (refusal : Status → List Octet) {rule : State → State}
    (h : ChoiceFree rule) : ChoiceFree (judgePending kind r refusal rule) :=
  ChoiceFree.ite (fun s => s.msg.resetPhase = .idle) (fun _ _ => Iff.rfl) h (reply_same_free _ _ _)

theorem judgeModifying_free (kind : Octet) (r : Request) (refusal : Status → List Octet) {rule : State → State}
    (h : ChoiceFree rule) : ChoiceFree (judgeModifying kind r refusal rule) :=
  ChoiceFree.ite (fun s => denied s r = true) (fun _ _ => Iff.rfl) (reply_same_free _ _ _) (judgePending_free kind r refusal h)

theorem reqStatusRead_free (r : Request) : ChoiceFree (reqStatusRead r) := by
  refine judgePending_free 1 r alone (ChoiceFree.ite (fun _ => r.len ≠ 1) (fun _ _ => Iff.rfl) (reply_same_free _ _ _) ?_)
  refine ChoiceFree.ite (fun _ => 3 < (octetAt r.body 0).toNat) (fun _ _ => Iff.rfl) (reply_same_free _ _ _) ?_
  exact reply_free 1 r (fun s => [Status.done.code, octetAt r.body 0] ++ statusPage s (octetAt r.body 0))
    (fun s => nextFree (nextFree s)) (fun _ _ => rfl) (fun _ _ => rfl)

theorem reqSideRead_free (r : Request) : ChoiceFree (reqSideRead r) := by
  refine judgePending_free 2 r alone (ChoiceFree.ite (fun _ => r.len ≠ 2) (fun _ _ => Iff.rfl) (reply_same_free _ _ _) ?_)
  cases h : sideOf (octetAt r.body 0) with
  | none => exact reply_same_free _ _ _
  | some sd =>
    refine ChoiceFree.ite (fun _ => 7 < (octetAt r.body 1).toNat) (fun _ _ => Iff.rfl) (reply_same_free _ _ _) ?_
    exact reply_free 2 r (fun s => [Status.done.code, octetAt r.body 0, octetAt r.body 1] ++
      sidePage s sd (octetAt r.body 1)) afterSidePage (fun _ _ => rfl) (fun _ _ => rfl)

theorem reqMonitorRead_free (r : Request) : ChoiceFree (reqMonitorRead r) := by
  refine judgePending_free 3 r alone (ChoiceFree.ite (fun _ => r.len ≠ 1) (fun _ _ => Iff.rfl) (reply_same_free _ _ _) ?_)
  refine ChoiceFree.ite (fun _ => 7 < (octetAt r.body 0).toNat) (fun _ _ => Iff.rfl) (reply_same_free _ _ _) ?_
  exact reply_free 3 r (fun s => [Status.done.code, octetAt r.body 0] ++ monitorBody s (octetAt r.body 0).toNat) id
    (fun _ _ => rfl) (fun _ _ => rfl)

theorem reqEntryRead_free (r : Request) : ChoiceFree (reqEntryRead r) := by
  refine judgePending_free 4 r alone (ChoiceFree.ite (fun _ => r.len ≠ 2) (fun _ _ => Iff.rfl) (reply_same_free _ _ _) ?_)
  refine ChoiceFree.ite (fun _ => (!entryExists (octetAt r.body 0) (octetAt r.body 1)) = true) (fun _ _ => Iff.rfl)
    (reply_same_free _ _ _) ?_
  exact reply_free 4 r (fun s => [Status.done.code, octetAt r.body 0, octetAt r.body 1] ++
    getEntry s.tab.tables (octetAt r.body 0).toNat (octetAt r.body 1).toNat) id (fun _ _ => rfl) (fun _ _ => rfl)

theorem reqUnlockArm_free (r : Request) : ChoiceFree (reqUnlockArm r) := by
  refine judgeModifying_free 11 r alone (ChoiceFree.ite (fun _ => r.len ≠ 1) (fun _ _ => Iff.rfl) (reply_same_free _ _ _) ?_)
  cases h : sideOf (octetAt r.body 0) with
  | none => exact reply_same_free _ _ _
  | some sd =>
    refine ChoiceFree.ite (fun s => isAbsent s sd = true) (fun _ _ => Iff.rfl)
      (reply_free 11 r (fun s => sideRefusal r .index (stateOf s sd).code) id (fun _ _ => rfl) (fun _ _ => rfl)) ?_
    refine ChoiceFree.ite (fun s => stateOf s sd ≠ .lockout) (fun _ _ => Iff.rfl)
      (reply_free 11 r (fun s => sideRefusal r .state (stateOf s sd).code) id (fun _ _ => rfl) (fun _ _ => rfl)) ?_
    refine ChoiceFree.ite (fun s => (s.side.get sd).lock.reason = .cut) (fun _ _ => Iff.rfl)
      (reply_free 11 r (fun s => sideRefusal r .cutLatched (stateOf s sd).code) id (fun _ _ => rfl) (fun _ _ => rfl)) ?_
    exact reply_free 11 r (fun s => [Status.done.code, sideOctet sd] ++ octets16 (s.side.get sd).lock.count ++ [10])
      (armSide r.source sd) (fun _ _ => rfl) (fun _ _ => rfl)

theorem reqPartReset_free (r : Request) : ChoiceFree (reqPartReset r) := by
  refine judgeModifying_free 16 r alone (ChoiceFree.ite (fun _ => r.len ≠ 0) (fun _ _ => Iff.rfl) (reply_same_free _ _ _) ?_)
  refine ChoiceFree.ite (fun s => s.ctl.op.locksTables = true) (fun _ _ => Iff.rfl) (reply_same_free _ _ _) ?_
  intro ch s
  exact routeResponse_free { msg := responseTo 16 r.source r.tag (alone .done) s, resetDone := true } ch
    (onMsg (fun m => { m with resetPhase := .pending }) s)

/-- The request kinds whose row carries no choices are handled alike under any (log 10). -/
theorem handleRequest_free (kind : Octet) (r : Request)
    (h : kind ∈ ([0, 1, 2, 3, 4, 11, 16] : List Octet) ∨ 16 < kind.toNat) : ChoiceFree (handleRequest kind r) := by
  have hu : ∀ k : Octet, ChoiceFree (reqUnknown k r) := fun k => reply_same_free k r _
  rcases h with h | h
  · simp only [List.mem_cons, List.not_mem_nil, or_false] at h
    rcases h with rfl | rfl | rfl | rfl | rfl | rfl | rfl
    · exact hu 0
    · exact reqStatusRead_free r
    · exact reqSideRead_free r
    · exact reqMonitorRead_free r
    · exact reqEntryRead_free r
    · exact reqUnlockArm_free r
    · exact reqPartReset_free r
  · rw [handleRequest_unknown kind r (Or.inr h)]; exact hu kind

/-- A row that runs the rule of its kind on the request as handled. -/
theorem runWith_handles {s : State} (hp : s.powered = true) (ch : Choices) {kind : Octet} {req : Request}
    {f : Request → State → State} (hf : handleRequest kind = f) :
    runWith ch (fun t => f (taken t req) t) s =
      .next (settle (handleRequest kind (taken s req) (withChoices ch s))) := by
  subst hf; rw [runWith_begins hp, withChoices_taken]

/-- A request row runs its kind's rule on the request as handled (R163, sections 7.1 and 8.1). -/
theorem exec_handles {c : Instr} {kind : Octet} {req : Request} {s : State} (hp : s.powered = true)
    (h : modifyingKind c = some (kind, req) ∨ readingKind c = some (kind, req)) :
    exec c s = .next (settle (handleRequest kind (taken s req) (withChoices (choicesOf c) s))) := by
  cases c <;> simp only [modifyingKind, readingKind, Option.some.injEq, Prod.mk.injEq, reduceCtorEq, or_false, false_or,
    or_self] at h <;> obtain ⟨rfl, rfl⟩ := h <;> exact runWith_handles hp _ rfl

theorem exec_unknown {kind : Octet} {req : Request} {s : State} (hp : s.powered = true)
    (h : kind = 0 ∨ 16 < kind.toNat) :
    exec (.unknownRequest kind req) s = .next (settle (handleRequest kind (taken s req) (begun s))) :=
  runWith_handles hp _ (funext fun r => handleRequest_unknown kind r h)

end Sys2Proof.Machine
end

