-- ==== Sys2Proof/Laws/RecordWrites.lean ====
section
/-! SUPPORT. How the Store Controller goes on with the records of its queue (R189, R191): the relation of the
statements is what the machine's operation does. -/

namespace Sys2Proof.Machine

/-- An operation that writes records: RECORDING or SUSPENDED. -/
def StoreOp.writesRecords : StoreOp → Prop
  | .recording _ => True
  | .suspended _ _ _ => True
  | .idle => False
  | .loading _ _ _ => False
  | .committing _ _ _ => False
  | .reading _ _ _ => False

/-- A record's write ended by a store fault (R191). -/
theorem faultRecord_eq (r : StoreRecord) (c : StoreCtl) : faultRecord r c = recordLost r c := by
  cases r <;> rfl

@[simp] theorem recordLost_op (r : StoreRecord) (c : StoreCtl) : (recordLost r c).op = c.op := by
  cases r <;> rfl

/-- The Store Controller starts the records of a list as R191 says. -/
theorem startRecords_goesOn (l : List StoreRecord) (s : State) (h : s.ctl.op.writesRecords) :
    RecordsGoOn l s (startRecords l s) := by
  induction l generalizing s with
  | nil =>
    refine ⟨fun w hw => ?_, fun who k w hw => ⟨fun ha => ?_, fun ha => ?_⟩⟩
    · simp only [startRecords, recordsDone, onCtl, hw]; rfl
    all_goals
      have ha' : ackOf (onCtl (fun c => { c with queue := [] }) s) = ackOf s := rfl
      simp only [startRecords, recordsDone, onCtl_ctl, hw, beginCommitPage, ha', ha, if_true, if_false, Bool.false_eq_true]
      rfl
  | cons r l ih =>
    refine ⟨fun ha => ⟨fun w hw => ?_, fun who k w hw => ?_⟩, fun ha => ?_⟩
    · simp only [startRecords, ha, if_true, onCtl, popAck, hw, withRecord]
    · simp only [startRecords, ha, if_true, onCtl, popAck, hw, withRecord]
    · have e : startRecords (r :: l) s =
          startRecords l (popAck (onCtl (fun c => { faultRecord r c with queue := l }) s)) := by
        simp only [startRecords, ha, Bool.false_eq_true, if_false]
      rw [e]
      have := ih (popAck (onCtl (fun c => { faultRecord r c with queue := l }) s)) (by
        rw [popAck_ctl, onCtl_ctl]
        show (faultRecord r s.ctl).op.writesRecords
        rw [faultRecord_eq, recordLost_op]; exact h)
      have lost : onCtl (fun c => { faultRecord r c with queue := l }) s =
          { s with ctl := { recordLost r s.ctl with queue := l } } := by
        cases r <;> rfl
      rw [lost] at this ⊢
      exact this

/-- A Store Controller that is IDLE, or waits in RECORDING, with a record queued goes on with its queue (R184). -/
theorem settle_goesOn (s : State) (h : s.ctl.op = .idle ∨ s.ctl.op = .recording none) (hq : s.ctl.queue ≠ []) :
    ∃ u, RecordsGoOn s.ctl.queue { s with ctl := { s.ctl with op := .recording none } } u ∧
      settle s = { u with choices := Choices.default } := by
  refine ⟨startRecords s.ctl.queue { s with ctl := { s.ctl with op := .recording none } },
    startRecords_goesOn _ _ trivial, ?_⟩
  have hn : s.ctl.queue.isEmpty = false := by cases hs : s.ctl.queue with
    | nil => exact absurd hs hq
    | cons => rfl
  rcases h with h | h
  · simp only [settle, startIfWaiting, hn, h, Bool.false_eq_true, if_false]; rfl
  · simp only [settle, startIfWaiting, hn, h, Bool.false_eq_true, if_false]
    rw [← h]

end Sys2Proof.Machine
end

