-- ==== Sys2Proof/Laws/StoreImage.lean ====
section
/-! SUPPORT. The image of a commit (R188): what its page writes leave in the store, and the tables it gives back. -/

namespace Sys2Proof.Machine

/-! ### Reads of a written store -/

/-- A read after octets have been written. -/
theorem Memory.read_writeOctets {l : List Octet} {m : Memory} {a y : Nat} (h : Memory.wf m = true) :
    Memory.read (Memory.writeOctets m a l) y =
      if a ≤ y ∧ y < a + l.length then l.getD (y - a) 0 else Memory.read m y := by
  induction l generalizing m a with
  | nil => rw [if_neg (by simp only [List.length_nil]; omega)]; rfl
  | cons o l ih =>
    rw [Memory.writeOctets_cons, ih (Memory.write_wf h), Memory.read_write h]
    simp only [List.length_cons]
    by_cases h1 : a + 1 ≤ y ∧ y < a + 1 + l.length
    · rw [if_pos h1, if_pos (by omega)]
      obtain ⟨k, rfl⟩ : ∃ k, y = a + 1 + k := ⟨y - (a + 1), by omega⟩
      rw [show a + 1 + k - (a + 1) = k by omega, show a + 1 + k - a = k + 1 by omega]
      rfl
    · rw [if_neg h1]
      by_cases h2 : y = a
      · subst h2; rw [if_pos rfl, if_pos (by omega), Nat.sub_self]; rfl
      · rw [if_neg h2, if_neg (by omega)]

/-- Octets read one after the other. -/
theorem Memory.readOctets_eq (m : Memory) (a n : Nat) :
    Memory.readOctets m a n = (List.range n).map fun i => Memory.read m (a + i) := by
  induction n generalizing a with
  | zero => cases a <;> rfl
  | succ n ih =>
    rw [Memory.readOctets_succ, ih, List.range_succ_eq_map, List.map_cons, List.map_map]
    refine congrArg₂ _ rfl (List.map_congr_left fun i _ => ?_)
    show _ = Memory.read m (a + (i + 1))
    rw [show a + 1 + i = a + (i + 1) by omega]

/-- A store whose octets from an address on are those of a list reads back as that list. -/
theorem Memory.readOctets_of {m : Memory} {a : Nat} {l : List Octet}
    (h : ∀ i, i < l.length → Memory.read m (a + i) = l.getD i 0) : Memory.readOctets m a l.length = l := by
  rw [Memory.readOctets_eq]
  refine List.ext_getElem (by simp) fun i h1 h2 => ?_
  rw [List.getElem_map, List.getElem_range, h i h2, List.getD_eq_getElem _ _ h2]

/-! ### The tables of an image -/

/-- Entries of one size that are joined and cut again. -/
theorem chunks_flatten {size n : Nat} (l : List (List Octet)) (hn : l.length = n) (h : ∀ e ∈ l, e.length = size)
    (r : List Octet) : chunks size n (l.flatten ++ r) = l := by
  subst hn
  induction l with
  | nil => rfl
  | cons e l ih =>
    have he : e.length = size := h e (List.mem_cons_self ..)
    rw [List.length_cons, List.flatten_cons, chunks, List.append_assoc, ← he, List.take_left, List.drop_left, he,
      ih fun x hx => h x (List.mem_cons_of_mem _ hx)]

theorem length_flatten_of {size : Nat} (l : List (List Octet)) (h : ∀ e ∈ l, e.length = size) :
    l.flatten.length = size * l.length := by
  induction l with
  | nil => rfl
  | cons e l ih =>
    rw [List.flatten_cons, List.length_append, ih fun x hx => h x (List.mem_cons_of_mem _ hx),
      h e (List.mem_cons_self ..), List.length_cons, Nat.mul_add, Nat.mul_one, Nat.add_comm]

/-- The lengths of the six parts of an image's tables. -/
theorem TablesShaped.lengths {t : Tables} (h : TablesShaped t) :
    t.header.length = 17 ∧ t.spans.flatten.length = 434 ∧ t.pumps.flatten.length = 144 ∧
      t.monitors.flatten.length = 40 ∧ t.accepts.flatten.length = 40 ∧ t.site.length = 9 := by
  obtain ⟨h1, ⟨h2, k2⟩, ⟨h3, k3⟩, ⟨h4, k4⟩, ⟨h5, k5⟩, h6⟩ := h
  rw [length_flatten_of _ k2, length_flatten_of _ k3, length_flatten_of _ k4, length_flatten_of _ k5, h2, h3, h4, h5]
  exact ⟨h1, rfl, rfl, rfl, rfl, h6⟩

/-- Section 9.1: the tables fill 684 octets. -/
theorem tablesOctets_length {t : Tables} (h : TablesShaped t) : (tablesOctets t).length = 684 := by
  obtain ⟨h1, h2, h3, h4, h5, h6⟩ := h.lengths
  simp only [tablesOctets, List.length_append, h1, h2, h3, h4, h5, h6]

/-- An image's tables are those that were composed into it. -/
theorem tablesOf_tablesOctets {t : Tables} (h : TablesShaped t) : tablesOf (tablesOctets t) = t := by
  obtain ⟨h1, h2, h3, h4, h5, h6⟩ := h.lengths
  obtain ⟨_, ⟨n2, k2⟩, ⟨n3, k3⟩, ⟨n4, k4⟩, ⟨n5, k5⟩, _⟩ := h
  obtain ⟨hd, sp, pu, mo, ac, si⟩ := t
  dsimp only at *
  have e (a b : List Octet) (n : Nat) (hn : a.length = n) : (a ++ b).drop n = b := by rw [← hn, List.drop_left]
  have d1 : (tablesOctets ⟨hd, sp, pu, mo, ac, si⟩).drop 17 =
      sp.flatten ++ (pu.flatten ++ (mo.flatten ++ (ac.flatten ++ si))) := by
    simp only [tablesOctets, List.append_assoc]; exact e _ _ _ h1
  have d2 : (tablesOctets ⟨hd, sp, pu, mo, ac, si⟩).drop 451 = pu.flatten ++ (mo.flatten ++ (ac.flatten ++ si)) := by
    rw [show 451 = 17 + 434 from rfl, ← List.drop_drop, d1]; exact e _ _ _ h2
  have d3 : (tablesOctets ⟨hd, sp, pu, mo, ac, si⟩).drop 595 = mo.flatten ++ (ac.flatten ++ si) := by
    rw [show 595 = 451 + 144 from rfl, ← List.drop_drop, d2]; exact e _ _ _ h3
  have d4 : (tablesOctets ⟨hd, sp, pu, mo, ac, si⟩).drop 635 = ac.flatten ++ si := by
    rw [show 635 = 595 + 40 from rfl, ← List.drop_drop, d3]; exact e _ _ _ h4
  have d5 : (tablesOctets ⟨hd, sp, pu, mo, ac, si⟩).drop 675 = si := by
    rw [show 675 = 635 + 40 from rfl, ← List.drop_drop, d4]; exact e _ _ _ h5
  have d0 : (tablesOctets ⟨hd, sp, pu, mo, ac, si⟩).take 17 = hd := by
    simp only [tablesOctets, List.append_assoc]; rw [← h1, List.take_left]
  simp only [tablesOf, d0, d1, d2, d3, d4, d5, chunks_flatten _ n2 k2, chunks_flatten _ n3 k3, chunks_flatten _ n4 k4,
    chunks_flatten _ n5 k5]
  rw [← h6, List.take_length]

/-- Entries cut from a list that is long enough. -/
theorem chunks_shaped (size n : Nat) (l : List Octet) (h : size * n ≤ l.length) :
    (chunks size n l).length = n ∧ ∀ e ∈ chunks size n l, e.length = size := by
  induction n generalizing l with
  | zero => exact ⟨rfl, nofun⟩
  | succ n ih =>
    rw [Nat.mul_succ] at h
    have := ih (l.drop size) (by rw [List.length_drop]; omega)
    refine ⟨by rw [chunks, List.length_cons, this.1], fun e he => ?_⟩
    rcases List.mem_cons.1 he with rfl | he
    · rw [List.length_take]; omega
    · exact this.2 e he

/-- The tables that 684 octets carry have the shape of section 2.1. -/
theorem tablesOf_shaped {l : List Octet} (h : l.length = 684) : TablesShaped (tablesOf l) := by
  have d (n : Nat) : (l.drop n).length = 684 - n := by rw [List.length_drop, h]
  refine ⟨?_, chunks_shaped _ _ _ ?_, chunks_shaped _ _ _ ?_, chunks_shaped _ _ _ ?_, chunks_shaped _ _ _ ?_, ?_⟩
  · show (l.take 17).length = 17; rw [List.length_take, h]; rfl
  · rw [d]; decide
  · rw [d]; decide
  · rw [d]; decide
  · rw [d]; decide
  · show ((l.drop 675).take 9).length = 9; rw [List.length_take, d]; rfl

/-- What a loader run takes from the store has the shape of section 2.1. -/
theorem storedTables_shaped (m : Memory) : TablesShaped (storedTables m) :=
  tablesOf_shaped (Memory.readOctets_length m 8 684)

theorem emptied_shaped : TablesShaped Tables.emptied := by unfold TablesShaped; decide

/-- An entry replaced by one of its size keeps the shape (R35). -/
theorem setEntry_shaped {t : Tables} (h : TablesShaped t) (table index : Nat) (e : List Octet)
    (he : ∀ n first size, tableShape table = some (n, first, size) → e.length = size) :
    TablesShaped (setEntry t table index e) := by
  obtain ⟨h1, ⟨h2, k2⟩, ⟨h3, k3⟩, ⟨h4, k4⟩, ⟨h5, k5⟩, h6⟩ := h
  have put {size : Nat} {l : List (List Octet)} (i : Nat) (hl : ∀ x ∈ l, x.length = size) (hs : e.length = size) :
      ∀ x ∈ l.set i e, x.length = size := fun x hx => (List.mem_or_eq_of_mem_set hx).elim (hl x) (fun k => k ▸ hs)
  unfold setEntry; split
  · exact ⟨he _ _ _ rfl, ⟨h2, k2⟩, ⟨h3, k3⟩, ⟨h4, k4⟩, ⟨h5, k5⟩, h6⟩
  · exact ⟨h1, ⟨by rw [List.length_set, h2], put _ k2 (he _ _ _ rfl)⟩, ⟨h3, k3⟩, ⟨h4, k4⟩, ⟨h5, k5⟩, h6⟩
  · exact ⟨h1, ⟨h2, k2⟩, ⟨by rw [List.length_set, h3], put _ k3 (he _ _ _ rfl)⟩, ⟨h4, k4⟩, ⟨h5, k5⟩, h6⟩
  · exact ⟨h1, ⟨h2, k2⟩, ⟨h3, k3⟩, ⟨by rw [List.length_set, h4], put _ k4 (he _ _ _ rfl)⟩, ⟨h5, k5⟩, h6⟩
  · exact ⟨h1, ⟨h2, k2⟩, ⟨h3, k3⟩, ⟨h4, k4⟩, ⟨by rw [List.length_set, h5], put _ k5 (he _ _ _ rfl)⟩, h6⟩
  · exact ⟨h1, ⟨h2, k2⟩, ⟨h3, k3⟩, ⟨h4, k4⟩, ⟨h5, k5⟩, he _ _ _ rfl⟩
  · exact ⟨h1, ⟨h2, k2⟩, ⟨h3, k3⟩, ⟨h4, k4⟩, ⟨h5, k5⟩, h6⟩

/-! ### The image and its page writes -/

/-- The header of an image: signature, edition, length 692 and checksum (section 9.1). -/
def imageHeader (e c : Word16) : List Octet :=
  [0x5C, 0x3A, e.extractLsb' 8 8, e.extractLsb' 0 8, 0x02, 0xB4, c.extractLsb' 8 8, c.extractLsb' 0 8]

/-- Section 9.1: an image is its header, the tables and 12 zeros. -/
theorem imageOctets_eq (t : Tables) : imageOctets t =
    imageHeader (hdrEdition t) (imageChecksum (hdrEdition t) t) ++ (tablesOctets t ++ List.replicate 12 0) := by
  simp only [imageOctets, List.append_assoc]; rfl

theorem imageOctets_length {t : Tables} (h : TablesShaped t) : (imageOctets t).length = 704 := by
  rw [imageOctets_eq]
  simp only [List.length_append, tablesOctets_length h, List.length_replicate]
  rfl

/-- The store after the first page writes of a commit (R188). -/
def commitStored (t : Tables) (m : Memory) (n : Nat) : Memory :=
  (List.range n).foldl (fun m k => Memory.writeOctets m (commitPage t k).addr (commitPage t k).data) m

theorem commitStored_succ (t : Tables) (m : Memory) (n : Nat) : commitStored t m (n + 1) =
    Memory.writeOctets (commitStored t m n) (commitPage t n).addr (commitPage t n).data := by
  simp only [commitStored, List.range_succ, List.foldl_append, List.foldl_cons, List.foldl_nil]

theorem commitStored_wf (t : Tables) {m : Memory} (h : Memory.wf m = true) (n : Nat) :
    Memory.wf (commitStored t m n) = true := by
  induction n with
  | zero => exact h
  | succ n ih => rw [commitStored_succ]; exact Memory.writeOctets_wf ih

/-- What a commit's page writes but the last have stored: signature 0000 and the pages from 1 on. -/
theorem read_commitStored {t : Tables} (ht : TablesShaped t) {m : Memory} (h : Memory.wf m = true) (n y : Nat)
    (hn : n ≤ 10) : Memory.read (commitStored t m (n + 1)) y =
      if y < 2 then 0 else if 64 ≤ y ∧ y < 64 * (n + 1) then (imageOctets t).getD y 0 else Memory.read m y := by
  induction n with
  | zero =>
    rw [commitStored_succ, Memory.read_writeOctets (commitStored_wf t h 0)]
    show (if 0 ≤ y ∧ y < 0 + 2 then ([0, 0] : List Octet).getD (y - 0) 0 else Memory.read m y) = _
    by_cases hy : y < 2
    · rw [if_pos (by omega), if_pos hy]
      have : y = 0 ∨ y = 1 := by omega
      rcases this with rfl | rfl <;> rfl
    · rw [if_neg (by omega), if_neg hy, if_neg (by omega)]
  | succ n ih =>
    have hp : commitPage t (n + 1) = newWrite (64 * (n + 1)) (((imageOctets t).drop (64 * (n + 1))).take 64) := by
      rw [commitPage, if_neg (by omega), if_neg (by omega)]
    have hl : (((imageOctets t).drop (64 * (n + 1))).take 64).length = 64 := by
      rw [List.length_take, List.length_drop, imageOctets_length ht]; omega
    rw [commitStored_succ, hp, newWrite, Memory.read_writeOctets (commitStored_wf t h _), hl]
    by_cases hy : 64 * (n + 1) ≤ y ∧ y < 64 * (n + 1) + 64
    · rw [if_pos hy, if_neg (by omega), if_pos (by omega)]
      have h1 : y - 64 * (n + 1) < (((imageOctets t).drop (64 * (n + 1))).take 64).length := by omega
      have h2 : y < (imageOctets t).length := by rw [imageOctets_length ht]; omega
      rw [List.getD_eq_getElem _ _ h1, List.getD_eq_getElem _ _ h2, List.getElem_take, List.getElem_drop]
      congr 1; omega
    · rw [if_neg hy, ih (by omega)]
      by_cases h2 : y < 2
      · rw [if_pos h2, if_pos h2]
      · rw [if_neg h2, if_neg h2]
        by_cases h3 : 64 ≤ y ∧ y < 64 * (n + 1)
        · rw [if_pos h3, if_pos (by omega)]
        · rw [if_neg h3, if_neg (by omega)]

/-- The whole commit stored (R188): the image from address 0 on, and the store outside it as before. -/
theorem read_commitStored_all {t : Tables} (ht : TablesShaped t) {m : Memory} (h : Memory.wf m = true) (y : Nat) :
    Memory.read (commitStored t m 12) y = if y < 704 then (imageOctets t).getD y 0 else Memory.read m y := by
  have hl : ((imageOctets t).take 64).length = 64 := by rw [List.length_take, imageOctets_length ht]; rfl
  rw [commitStored_succ, Memory.read_writeOctets (commitStored_wf t h _)]
  show (if 0 ≤ y ∧ y < 0 + ((imageOctets t).take 64).length then ((imageOctets t).take 64).getD (y - 0) 0
    else Memory.read (commitStored t m (10 + 1)) y) = _
  rw [hl, read_commitStored ht h 10 y (Nat.le_refl _)]
  by_cases hy : y < 64
  · rw [if_pos (by omega), if_pos (by omega), List.getD_eq_getElem _ _ (by omega : y - 0 < _),
      List.getD_eq_getElem _ _ (by rw [imageOctets_length ht]; omega), List.getElem_take]
    rfl
  · rw [if_neg (by omega), if_neg (by omega)]
    by_cases h2 : y < 704
    · rw [if_pos (by omega), if_pos h2]
    · rw [if_neg (by omega), if_neg h2]

/-- Octets of a committed image, read back. -/
theorem readOctets_commitStored {t : Tables} (ht : TablesShaped t) {m : Memory} (h : Memory.wf m = true) (a n : Nat)
    (ha : a + n ≤ 704) : Memory.readOctets (commitStored t m 12) a n = ((imageOctets t).drop a).take n := by
  have hl : (((imageOctets t).drop a).take n).length = n := by
    rw [List.length_take, List.length_drop, imageOctets_length ht]; omega
  have := Memory.readOctets_of (m := commitStored t m 12) (a := a) (l := ((imageOctets t).drop a).take n)
    (fun i hi => by
      have hi' : i < n := by omega
      rw [read_commitStored_all ht h, if_pos (by omega), List.getD_eq_getElem _ _ hi,
        List.getD_eq_getElem _ _ (by rw [imageOctets_length ht]; omega), List.getElem_take, List.getElem_drop])
  rwa [hl] at this

/-- A committed image carries the tables it was composed from. -/
theorem storedTables_commitStored {t : Tables} (ht : TablesShaped t) {m : Memory} (h : Memory.wf m = true) :
    storedTables (commitStored t m 12) = t := by
  have hd : ((imageOctets t).drop 8).take 684 = tablesOctets t := by
    rw [imageOctets_eq, List.drop_left' (i := 8) rfl, List.take_left' (tablesOctets_length ht)]
  rw [storedTables, readOctets_commitStored ht h 8 684 (by omega), hd, tablesOf_tablesOctets ht]

/-- The header of a committed image. -/
theorem header_commitStored {t : Tables} (ht : TablesShaped t) {m : Memory} (h : Memory.wf m = true) :
    Memory.readOctets (commitStored t m 12) 0 8 =
      imageHeader (hdrEdition t) (imageChecksum (hdrEdition t) t) := by
  rw [readOctets_commitStored ht h 0 8 (by omega), imageOctets_eq, List.drop_zero, List.take_left' (i := 8) rfl]

/-- A field of two octets, read back. -/
theorem word16_joined (w : Word16) : w.extractLsb' 8 8 ++ w.extractLsb' 0 8 = w := by
  ext i hi
  simp only [BitVec.getElem_append, BitVec.getElem_extractLsb']
  split
  · rw [Nat.zero_add, BitVec.getLsbD_eq_getElem hi]
  · rw [show 8 + (i - 8) = i by omega, BitVec.getLsbD_eq_getElem hi]

/-- The fields of an image's header. -/
theorem imageHeader_fields (e c : Word16) : word16At (imageHeader e c) 0 = 0x5C3A ∧ word16At (imageHeader e c) 2 = e ∧
    word16At (imageHeader e c) 4 = 692 ∧ word16At (imageHeader e c) 6 = c :=
  ⟨(by decide : (0x5C : Octet) ++ (0x3A : Octet) = (0x5C3A : Word16)), word16_joined e,
    (by decide : (0x02 : Octet) ++ (0xB4 : Octet) = (692 : Word16)), word16_joined c⟩

/-- A loader run finds a committed image's header complete (R185). -/
theorem judgeHeader_commitStored {t : Tables} (ht : TablesShaped t) {m : Memory} (h : Memory.wf m = true) :
    judgeHeader (Memory.readOctets (commitStored t m 12) 0 8) = none := by
  obtain ⟨h0, _, h4, _⟩ := imageHeader_fields (hdrEdition t) (imageChecksum (hdrEdition t) t)
  rw [header_commitStored ht h, judgeHeader, h0, h4]
  decide

/-- A loader run finds a committed image's checksum right (R185). -/
theorem judgeImage_commitStored {t : Tables} (ht : TablesShaped t) {m : Memory} (h : Memory.wf m = true) :
    judgeImage (commitStored t m 12) = .loaded := by
  obtain ⟨_, h2, _, h6⟩ := imageHeader_fields (hdrEdition t) (imageChecksum (hdrEdition t) t)
  rw [judgeImage, storedTables_commitStored ht h, header_commitStored ht h, h2, h6, if_pos rfl]

end Sys2Proof.Machine
end

