-- ==== Sys2Proof/Tests/Slice0.lean ====
section
/-! SUPPORT. Tests of the model on small states: ill-formed commands, values the spec writes out, and for
every statement of Obligations.lean states and operands that meet its hypotheses. -/

namespace Sys2Proof.Tests

set_option Elab.async false

open Sys2Proof.Machine

/-! ### Helpers -/

/-- A request with this body length and body, from the local port. -/
def req (len : Octet) (body : List Octet) : Request :=
  { via := .localPort, source := 0, tag := 7, len := len, body := padTo 23 body }

/-- The same request from the line, from position 9. -/
def lineReq (len : Octet) (body : List Octet) : Request := { req len body with via := .line, source := 9 }

/-- Whether a command answers a next state with a property. -/
def after (o : Host.Outcome State Fault Refusal) (p : State → Bool) : Bool :=
  match o with
  | .next t => p t
  | _ => false

/-- A reset part whose Store Controller is idle. -/
def idle : State := { State.reset with ctl := { StoreCtl.reset with op := .idle } }

/-- The same part without power. -/
def dead : State := { idle with powered := false }

/-- The reset part with another operation of the Store Controller under way. -/
def busy (op : StoreOp) : State := { State.reset with ctl := { StoreCtl.reset with op := op } }

def power (x : Int) : List Octet := octets16 (BitVec.ofInt 16 x)

def header : List Octet :=
  octets16 1 ++ [3, 8] ++ octets16 5 ++ [5] ++ octets16 60 ++ [2] ++ octets16 60 ++ [2, 3] ++ octets16 60 ++ [1]

def span : List Octet :=
  octets16 1000 ++ octets16 3000 ++ power (-4000) ++ power (-3500) ++ power (-1000) ++ [20] ++ power 1000 ++ [1]

/-- A TX pump: side, order, probe drive, prerequisite, step check, output monitor. -/
def pump (sd order : Octet) (probe : Word16) (prereq check monitor : Octet) : List Octet :=
  [1, sd, 1, order] ++ octets16 2000 ++ octets16 probe ++ [prereq, check] ++ power 1000 ++ octets16 500 ++
    [monitor, 10] ++ power (-2000)

def gap (n : Nat) : List Octet := List.replicate n 0

/-- Tables of position 1 on a route of length 3: two pumps on each side. -/
def tables : Tables :=
  { header := header, spans := [span, span] ++ List.replicate 29 (gap 14)
    pumps := [pump 0 1 500 255 2 2, pump 0 2 0 0 0 255, pump 1 1 500 255 0 255, pump 1 2 0 2 0 255] ++
      List.replicate 4 (gap 18)
    monitors := [[1, 0, 0, 0, 0], [1, 2, 0, 0, 0], [1, 1, 1, 0, 0]] ++ List.replicate 5 (gap 5)
    accepts := [[1, 4, 31, 1, 0], [1, 5, 31, 15, 1], [1, 6, 31, 15, 2], [1, 7, 31, 15, 3]] ++
      List.replicate 4 (gap 5)
    site := List.replicate 8 255 ++ [1] }

/-- A side in a state, all else as after reset. -/
def sideIn (st : SideState) : SideRecord := { SideRecord.reset with state := st }

/-- A part at position 1 with validated tables, its sides in these states, both ports served. -/
def live (w e : SideRecord) : State :=
  { idle with
    position := 1, tab := ⟨tables, true, none⟩, side := ⟨w, e⟩
    ports := ⟨{ PortRecord.reset with loss := false, lossTimer := some 8 },
              { PortRecord.reset with loss := false, lossTimer := some 8 }⟩
    pdu := { PumpUnit.reset with startCut := false } }

/-- Both sides in one state. -/
def both (st : SideState) : State := live (sideIn st) (sideIn st)

/-- The part with some choices, drives, a latch or a hold view. -/
def withLatch (s : State) : State := { s with pdu := { s.pdu with latch := true } }
def withDrive (s : State) (l : List Word16) : State := { s with pdu := { s.pdu with drive := l } }
def withView (s : State) (v : PosSet) : State := { s with hold := { s.hold with view := v } }
def withOp (s : State) (op : StoreOp) : State := { s with ctl := { s.ctl with op := op } }
def dflt : Choices := Choices.default
def pins : PinLevels := { straps := 1, tripWest := false, tripEast := true, hold := true }
def who : Requester := { dest := 1, tag := 7 }

/-! ### Well-formedness -/

theorem test_wf_body_short : (Instr.statusRead { req 1 [] with body := [0] }).wf = false := by decide
theorem test_wf_body_modifying :
    (Instr.entryWrite { req 1 [] with body := List.replicate 24 0 } dflt).wf = false := by decide
theorem test_wf_unknown_defined : (Instr.unknownRequest 16 (req 0 [])).wf = false := by decide
theorem test_wf_unknown_notice : (Instr.unknownRequest 112 (req 0 [])).wf = false := by decide
theorem test_wf_unknown_edges :
    (Instr.unknownRequest 17 (req 0 [])).wf = true ∧ (Instr.unknownRequest 111 (req 0 [])).wf = true ∧
    (Instr.unknownRequest 116 (req 0 [])).wf = true ∧ (Instr.unknownRequest 127 (req 0 [])).wf = true := by decide
theorem test_wf_residue : (Instr.powerLoss (List.replicate 65 none)).wf = false ∧
    (Instr.powerOn pins (List.replicate 65 none) dflt).wf = false ∧
    (Instr.pinReset pins (List.replicate 65 none) dflt).wf = false ∧
    (Instr.addressRepeat true (List.replicate 65 none) dflt).wf = false := by decide

/-! ### Values the spec writes out -/

/-- R3: the check value of the nine octets "123456789" under this CRC. -/
theorem test_crc : crc16 [0x31, 0x32, 0x33, 0x34, 0x35, 0x36, 0x37, 0x38, 0x39] = 0x29B1 := by decide +kernel

/-- R42: the example of the two failures found one after the other. -/
def badTables : Tables :=
  { tables with
    pumps := [gap 18, gap 18, gap 18, pump 0 2 0 5 0 255, gap 18, pump 0 3 0 255 0 255, gap 18, gap 18]
    monitors := [[1, 0, 0, 0, 0], [1, 2, 0, 0, 0], gap 5, gap 5, gap 5, gap 5, [1, 1, 0, 0, 0], gap 5] }
theorem test_check_order : runChecks 1 badTables = some ⟨3, 3, 9⟩ := by decide +kernel
theorem test_check_next :
    runChecks 1 { badTables with pumps := badTables.pumps.set 3 (pump 0 2 0 255 0 255) } = some ⟨4, 6, 14⟩ := by
  decide +kernel
theorem test_check_pass : runChecks 1 tables = none := by decide +kernel
theorem test_check_position : runChecks 3 tables = some ⟨1, 0, 2⟩ := by decide +kernel
theorem test_image_round : tablesOf (tablesOctets tables) = tables := by decide +kernel
theorem test_image_length : (imageOctets tables).length = 704 := by decide +kernel
theorem test_lock_copy : lockCopyValid .west (lockCopyOctets 3 .west true .cut 9) = true := by decide +kernel

/-! ### Frames -/

def report (st : SideState) (flags : Octet) : Report :=
  { sender := 0, state := st.code, flags := flags, measured := minPower, probe := BitVec.ofInt 16 (-1000)
    launch := 1000, duration := 20, edition := 1 }

/-- A frame from position 0 with this slot. -/
def frame (slot : Message) : Frame :=
  { origin := 0, sequence := 5, holdSet := 0x10, report := report .dark 0, spans := List.replicate 31 0
    slot := slot }

def msg (kind dest source : Octet) : Message := makeMessage kind dest source 3 [0]
def arrivalOctets : List Octet := frameOctets (frame emptySlot)

/-- A valid arrival gives back the frame its octets were made from (section 1.1). -/
theorem test_frame_round : frameOf arrivalOctets = frame emptySlot := by decide +kernel
theorem test_frame_octets : arrivalOctets.length = 80 ∧ arrivalOctets.take 8 = [1, 0, 5, 0, 0, 0, 0x10, 0] := by
  decide +kernel

/-! ### Hypotheses met: the machine and reset -/

theorem test_step_front : ({ idle with pending := [.uptimeSecond] } : State).pending = .uptimeSecond :: [] ∧
    idle.pending = [] := by decide
theorem test_settle_premises :
    let s : State := { idle with ctl := { idle.ctl with queue := [.lock .west true .manual 1] } }
    idle.ctl.queue = [] ∧ s.ctl.op = .idle ∧ s.ctl.queue = .lock .west true .manual 1 :: [] ∧ ackOf s = true := by
  decide
theorem test_powerOn_premises : dflt.acks.headD true = true ∧ idle.powered = true ∧
    after (exec (.powerOn pins [] dflt) dead) (fun t => t.position == 1 && t.hold.view == 2) = true := by
  decide +kernel
theorem test_pinReset_result :
    after (exec (.pinReset pins [] dflt) { both .run with loc := { LocalPort.reset with sent := some ⟨[0xA5], .r9600⟩ } })
      (fun t => t.side == State.reset.side && t.pdu.startCut &&
      t.loc.sent == some ⟨[0xA5], .r9600⟩) = true := by
  decide +kernel
def resetDue (st : SideState) : State := { both st with msg := { MsgEngine.reset with resetPhase := .due } }
theorem test_routeReset_premises :
    (resetDue .lockout).powered = true ∧ (resetDue .lockout).msg.resetPhase = .due ∧
    stateOf (resetDue .lockout) .west = .lockout ∧
    (stateOf (resetDue .dark) .west ≠ .lockout ∧ (resetDue .dark).pdu.latch = false ∧
      (resetDue .dark).msg.resetPhase = .due) ∧
    (stateOf (withLatch (resetDue .absent)) .west ≠ .lockout ∧ (withLatch (resetDue .absent)).pdu.latch = true ∧
      (withLatch (resetDue .absent)).msg.resetPhase = .due) := by decide +kernel
theorem test_routeReset_records :
    (stateOf (resetDue .run) .west).lights = true ∧ 0 ∈ pumpsUp (resetDue .run).tab .west ∧
    (resetDue .dark).ctl.op = .idle ∧ (resetDue .dark).ctl.queue = [] ∧ dflt.acks = [] ∧
    (withOp (resetDue .dark) (.reading who 0 1)).ctl.op = .reading who 0 1 ∧
    (stateOf (resetDue .dark) .west).lights = false ∧ (resetDue .dark).pdu.latch = false := by decide +kernel
theorem test_routeReset_result :
    after (exec (.routeReset dflt) (resetDue .run)) (fun t => stateOf t .west == .unconfigured && t.ctl.draining &&
      t.ctl.queue.length == 1 && (match t.ctl.op with | .recording (some _) => true | _ => false)) = true ∧
    after (exec (.routeReset dflt) (resetDue .dark)) (fun t => t.ctl.op == .recording none && t.ctl.queue == []) = true ∧
    after (exec (.routeReset dflt) (withOp (resetDue .dark) (.reading who 0 1))) (fun t =>
      t.ctl.op == .reading who 0 1 && t.ctl.draining) = true := by
  decide +kernel
def drained : State :=
  { busy (.recording none) with ctl := { (busy (.recording none)).ctl with draining := true } }
def drainedLive : State :=
  { both .unconfigured with ctl := drained.ctl, pdu := { (both .run).pdu with drive := List.replicate 8 5 } }
def drainedDue : State := { drained with msg := { MsgEngine.reset with resetPhase := .due } }
theorem test_drained_premises : drained.powered = true ∧ drained.ctl.draining = true ∧
    drained.ctl.op = .recording none ∧ drained.ctl.queue = [] ∧ drained.tab.validated = false ∧
    dflt.acks.headD true = true ∧ drained.msg.resetPhase = .idle ∧ drainedDue.msg.resetPhase ≠ .idle ∧
    (drainedLive.tab.validated = true ∧ drainedLive.pdu.drive.length = 8) := by decide +kernel
theorem test_drained_waits :
    after (exec (.loaderStartAfterDrain dflt) drainedDue) (fun t => t.ctl.op == .recording none && t.ctl.draining) = true ∧
    after (exec (.loaderStartAfterDrain dflt) drainedLive) (fun t => !t.tab.validated && t.pdu.drive == List.replicate 8 0) =
      true := by decide +kernel
def write0 (elapsed : Nat) (done : Bool) : PageWrite := { addr := 64, data := [1, 2], elapsed := elapsed, done := done }
theorem test_powerLoss_premises :
    let s := busy (.committing who 1 (write0 0 false))
    let d := busy (.committing who 1 (write0 0 true))
    dead.powered = false ∧ (∀ p l c, Instr.uptimeSecond ≠ .powerOn p l c) ∧
    s.powered = true ∧ StoreCanonical s ∧ currentWrite idle.ctl.op = none ∧
    (currentWrite d.ctl.op = some (write0 0 true) ∧ (write0 0 true).done = true) ∧
    currentWrite s.ctl.op = some (write0 0 false) ∧
    ((63 : Nat) < (write0 0 false).addr ∧ (write0 0 false).addr + (write0 0 false).data.length ≤ 66) := by
  refine ⟨rfl, ?_, rfl, rfl, rfl, ⟨rfl, rfl⟩, rfl, by decide⟩
  intro p l c h; cases h
theorem test_powerLoss_result :
    after (exec (.powerLoss [some 9]) (busy (.committing who 1 (write0 0 false))))
      (fun t => !t.powered && t.store == [(64, 9), (65, 2)]) = true := by decide +kernel
/-- R194: page writes cut off, over a store with a whole image's signature and a record in slot 63. -/
def cutSlot (number : Word32) : List Octet := tripRecordOctets number 9 1 5 (siteCutRecord 0 0)
def signedStore : Memory := Memory.writeOctets (Memory.writeOctets [] 0 [0x5C, 0x3A]) (slotAddr 63) (cutSlot 7)
def unsignedStore : Memory := Memory.writeOctets [] 0 [0, 0]
def cutCommit (k : Nat) (data : List Octet) (m : Memory) : State :=
  { busy (.committing who k (newWrite 0 data)) with store := m }
def cutLock : PageWrite := newWrite (lockCopyAddr .west false) (lockCopyOctets 0 .west true .manual 1)
def cutRecord (r : StoreRecord) (w : PageWrite) : State :=
  { busy (.recording (some ⟨r, w⟩)) with store := signedStore }
theorem test_cutOff_premises :
    StoreCanonical (cutCommit 0 [0, 0] signedStore) ∧ StoreCanonical (cutCommit 11 [0x5C, 0x3A, 1] unsignedStore) ∧
    ((newWrite 0 [0, 0]).done = false ∧ (newWrite 0 [0, 0]).addr = 0 ∧ 2 ≤ (newWrite 0 [0x5C, 0x3A, 1]).data.length) ∧
    word16At (residueOctets [0, 0] [some 1]) 0 ≠ 0x5C3A ∧
    word16At (residueOctets [0, 0] [some 0x5C, some 0x3A]) 0 = word16At (Memory.readOctets signedStore 0 2) 0 ∧
    (2 ≤ (write0 0 false).addr ∧ word16At (Memory.readOctets unsignedStore 0 8) 0 = 0) ∧
    (StoreCanonical (cutRecord (.lock .west true .manual 1) cutLock) ∧ cutLock.data.length = 8 ∧
      lockCopyValid .west (residueOctets cutLock.data [some 1]) = false) ∧
    (tripRecordValid (residueOctets (cutSlot 8) [some 1]) = false ∧ (newWrite (slotAddr 0) (cutSlot 8)).data.length = 32 ∧
      slotNumber signedStore 63 = 7 ∧ (∀ i, i < 64 → i ≠ 0 → i ≠ 63 → slotNumber signedStore i < 7)) := by
  unfold StoreCanonical; decide +kernel
theorem test_cutOff_result :
    let header := fun (left : Residue) (s : State) => judgeHeader (Memory.readOctets (cutOff left s).store 0 8)
    header [some 0x5C, some 0x3A] (cutCommit 0 [0, 0] unsignedStore) = some .incomplete ∧
    header [some 0x5C, some 0x3B] (cutCommit 0 [0, 0] signedStore) = some .blank ∧
    Memory.readOctets (cutOff [some 0x5C, some 0x3A] (cutCommit 0 [0, 0] signedStore)).store 0 2 = [0x5C, 0x3A] ∧
    Memory.readOctets (cutOff [none, none, some 2] (cutCommit 11 [0x5C, 0x3A, 1] unsignedStore)).store 0 3 =
      [0x5C, 0x3A, 1] ∧
    header [some 0, some 0, some 2] (cutCommit 11 [0x5C, 0x3A, 1] unsignedStore) = some .incomplete ∧
    newestCopy (cutOff [some 1] (cutRecord (.lock .west true .manual 1) cutLock)).store .west = none ∧
    logPosition (cutOff [some 1] (cutRecord (.trip (siteCutRecord 0 0)) (newWrite (slotAddr 0) (cutSlot 8)))).store 0 = (0, 8) := by
  decide +kernel
theorem test_uptime_premises : idle.powered = true ∧ idle.time.uptime ≠ BitVec.allOnes 32 ∧
    after (exec .uptimeSecond idle) (fun t => t.time == ⟨1, ⟨true, true⟩⟩) = true := by decide +kernel

/-! ### Line ports -/

def routeEnd : State := live (sideIn .absent) (sideIn .dark)
def neighbourWrong : List Octet :=
  frameOctets { frame emptySlot with report := { report .dark 0 with sender := 9 } }
def wrongFormat : List Octet :=
  let l := 2 :: (frameBody (frame emptySlot)).tail
  l ++ octets16 (crc16 l)
theorem test_arrival_premises : routeEnd.powered = true ∧ isAbsent routeEnd .west = true ∧
    (gap 79).length ≠ 80 ∧
    ((gap 80).length = 80 ∧ crc16 ((gap 80).take 78) ≠ word16At (gap 80) 78) ∧
    (wrongFormat.length = 80 ∧ octetAt wrongFormat 0 ≠ 1) ∧
    (arrivalOctets.length = 80 ∧ crc16 (arrivalOctets.take 78) = word16At arrivalOctets 78 ∧
      octetAt arrivalOctets 0 = 1) := by decide +kernel
theorem test_arrival_checks :
    classify 1 .west arrivalOctets = .valid ∧ classify 1 .east arrivalOctets = .neighbour ∧
    classify 1 .west neighbourWrong = .neighbour ∧ classify 1 .west wrongFormat = .corrupt ∧
    classify 0 .west arrivalOctets = .neighbour := by decide +kernel
/-- The part with the West port at a score and condition. -/
def scored (st : SideState) (score : Nat) (c : PortCondition) (last : Option (Octet × Octet)) : State :=
  let r := { (both st).ports.west with score := score, condition := c, last := last }
  { both st with ports := (both st).ports.set .west r }
theorem test_invalidArrival_premises :
    (both .run).powered = true ∧ isAbsent (both .run) .west = false ∧
    classify (pos (both .run)) .west neighbourWrong ≠ .valid ∧
    ((both .run).ports.west.condition ≠ .withdrawn ∧ min 255 ((both .run).ports.west.score + 8) ≠ 255 ∧
      (both .run).ports.west.neighbour = false ∧ classify (pos (both .run)) .west neighbourWrong = .neighbour ∧
      (both .run).ports.west.condition ≠ .degraded) ∧
    ((scored .run 250 .degraded none).ports.west.condition ≠ .withdrawn ∧
      min 255 ((scored .run 250 .degraded none).ports.west.score + 8) = 255) ∧
    (classify 1 .west (gap 79) = .corrupt ∧ (scored .dark 40 .withdrawn none).ports.west.condition = .withdrawn) := by
  decide +kernel
theorem test_invalidArrival_result :
    after (exec (.arrival .west neighbourWrong dflt) (both .run)) (fun t =>
      t.ports.west.score == 8 && t.ports.west.neighbour && stateOf t .west == .dark &&
      t.side.west.reason == .neighbour && t.tx.east.transit == [.originated]) = true ∧
    after (exec (.arrival .west (gap 79) dflt) (scored .run 250 .degraded none)) (fun t =>
      t.ports.west.score == 255 && t.ports.west.condition == .withdrawn && stateOf t .west == .dark &&
      t.side.west.reason == .withdrawn && t.tx.east.transit == []) = true ∧
    after (exec (.arrival .west (gap 79) dflt) (scored .run 88 .clear none)) (fun t =>
      t.ports.west.score == 96 && t.ports.west.condition == .degraded && stateOf t .west == .run) = true := by
  decide +kernel
/-- R91, R92: DEGRADED begins at a side in LISTEN with READY. -/
def readySide (s : State) : State := { s with side := s.side.set .west { s.side.west with ready := true } }
theorem test_degraded_begins :
    ((scored .listen 88 .clear none).ports.west.condition = .clear ∧
      96 ≤ min 255 ((scored .listen 88 .clear none).ports.west.score + 8) ∧
      min 255 ((scored .listen 88 .clear none).ports.west.score + 8) ≠ 255 ∧ classify 1 .west (gap 79) = .corrupt) ∧
    after (exec (.arrival .west (gap 79) dflt) (readySide (scored .listen 88 .clear none))) (fun t =>
      stateOf t .west == .listen && !t.side.west.ready) = true ∧
    after (exec (.arrival .west (gap 79) dflt) (readySide (scored .run 88 .clear none))) (fun t =>
      t.side.west.ready) = true := by decide +kernel
theorem test_validArrival_premises :
    isAbsent (both .dark) .west = false ∧ classify (pos (both .dark)) .west arrivalOctets = .valid ∧
    octetAt arrivalOctets 50 = 0 ∧ dflt.handOn = [] ∧ octetAt arrivalOctets 2 = 5 ∧
    ((both .dark).ports.west.score = 0 ∧ (both .dark).ports.west.condition = .clear ∧
      scoreSkips (both .dark).ports.west arrivalOctets = false) ∧
    scoreSkips (scored .dark 10 .clear (some (0, 3))).ports.west arrivalOctets = true ∧
    scoreSkips (scored .dark 10 .clear (some (0, 4))).ports.west arrivalOctets = false := by decide +kernel
theorem test_validArrival_result :
    after (exec (.arrival .west arrivalOctets dflt) (both .dark)) (fun t => t.hold.sets.west == 0x10 &&
      stateOf t .west == .hold && t.tx.east.transit == [.forwarded (frame emptySlot)]) = true ∧
    after (exec (.arrival .west arrivalOctets dflt) (scored .dark 10 .clear (some (0, 3)))) (fun t =>
      t.ports.west.score == 14) = true ∧
    after (exec (.arrival .west arrivalOctets dflt) (scored .dark 96 .degraded (some (0, 4)))) (fun t =>
      t.ports.west.score == 95 && t.ports.west.condition == .clear) = true ∧
    after (exec (.arrival .west (frameOctets { frame (msg 112 255 4) with holdSet := 0 }) dflt) (both .run)) (fun t =>
      stateOf t .east == .dark && t.side.east.reason == .notice) = true := by decide +kernel
/-- R54, R91: what a change of condition, or the end of LOSS, does at its side at a valid arrival. -/
def calmOctets : List Octet := frameOctets { frame emptySlot with holdSet := 0 }
def waitingReady : SideRecord := { sideIn .listen with agree := { Agreement.reset with state := .settled } }
def conditioned (w : SideRecord) (score : Nat) (c : PortCondition) (loss : Bool) (sequence : Octet) : State :=
  let r := { (both .dark).ports.west with score := score, condition := c, loss := loss, last := some (0, sequence) }
  { live w (sideIn .dark) with ports := (both .dark).ports.set .west r }
theorem test_condition_taken :
    after (exec (.arrival .west calmOctets dflt) (conditioned { waitingReady with ready := true } 92 .clear false 3)) (fun t =>
      t.ports.west.condition == .degraded && stateOf t .west == .listen && !t.side.west.ready) = true ∧
    (sideEvent (conditionEvent .degraded .clear) .west (conditioned waitingReady 95 .clear false 4)).side.west.ready = true ∧
    after (exec (.arrival .west calmOctets dflt) (conditioned (sideIn .dark) 1 .withdrawn false 4)) (fun t =>
      t.ports.west.condition == .clear && stateOf t .west == .listen && t.side.west.agree.state == .settling) = true ∧
    after (exec (.arrival .west calmOctets dflt) (conditioned (sideIn .dark) 0 .clear true 4)) (fun t =>
      !t.ports.west.loss && stateOf t .west == .listen) = true ∧
    classify 1 .west calmOctets = .valid := by decide +kernel
/-- R138 to R140, R58, R59: a received hold set begins a hold at both sides, and an empty one ends it; with an order
of its own the command hands the hold set on first. -/
def holdingOctets : List Octet := frameOctets { frame emptySlot with report := report .run 0 }
def heldWest : State :=
  let s := { both .hold with hold := { (both .hold).hold with sets := ⟨0x10, 0⟩, view := 0x10 } }
  { s with side := ⟨{ s.side.west with reason := .hold }, { s.side.east with reason := .hold }⟩ }
def ordered : Choices := { dflt with handOn := [.holdSet, .slot, .view, .report] }
theorem test_arrival_hold :
    after (exec (.arrival .west holdingOctets dflt) (both .run)) (fun t =>
      t.hold == { (both .run).hold with sets := ⟨0x10, 0⟩, view := 0x10 } && stateOf t .west == .hold &&
      stateOf t .east == .hold && t.side.east.reason == .hold && t.msg.noticeNumber == 2) = true ∧
    after (exec (.arrival .west calmOctets dflt) heldWest) (fun t => t.hold.view == 0 && t.hold.sets.west == 0 &&
      stateOf t .west == .dark && t.side.east.retry == some 5 && t.side.east.reason == .hold) = true ∧
    after (exec (.arrival .west arrivalOctets ordered) (both .run)) (fun t => t.side.west.reason == .hold) = true ∧
    (classify 1 .west holdingOctets = .valid ∧ ordered.handOn.Nodup) := by decide +kernel
def withdrawn : State :=
  let r := { (both .dark).ports.west with score := 40, condition := .withdrawn, loss := true }
  { both .dark with ports := (both .dark).ports.set .west r }
theorem test_withdrawn_premises :
    withdrawn.powered = true ∧ isAbsent withdrawn .west = false ∧
    classify (pos withdrawn) .west arrivalOctets = .valid ∧
    (withdrawn.ports.west.condition = .withdrawn ∧ scoreSkips withdrawn.ports.west arrivalOctets = false ∧
      withdrawn.ports.west.score - 1 ≠ 0) ∧
    ((scored .run 252 .degraded (some (0, 3))).ports.west.condition ≠ .withdrawn ∧
      scoreSkips (scored .run 252 .degraded (some (0, 3))).ports.west arrivalOctets = true ∧
      min 255 ((scored .run 252 .degraded (some (0, 3))).ports.west.score + 4) = 255) := by
  decide +kernel
theorem test_withdrawn_result :
    after (exec (.arrival .west arrivalOctets dflt) (scored .run 252 .degraded (some (0, 3)))) (fun t =>
      t.ports.west.condition == .withdrawn && stateOf t .west == .dark && t.side.west.reason == .withdrawn &&
      t.hold.sets.west == 0 && t.ports.west.report == none && t.tx.east.transit == []) = true := by decide +kernel

/-! ### Far reports -/

/-- The part with both far views this report. -/
def farSeen (w e : SideRecord) (r : Report) : State :=
  let s := live w e
  { s with ports := ⟨{ s.ports.west with report := some r }, { s.ports.east with report := some r }⟩ }
/-- A far report taken by a side. -/
def takeFar (w e : SideRecord) (r : Report) (sd : Side) : State := sideEvent (farReport r) sd (farSeen w e r)
def settled : Agreement :=
  { Agreement.reset with state := .settled, far := some (report .run 8).advert, count := 16, duration := 20, launch := 1000 }
/-- A side in a state with the agreement settled. -/
def agreed (st : SideState) : SideRecord := { sideIn st with agree := settled }
/-- A report with AGREED-MODE, as the agreement holds it, and a measured input. -/
def seen (st : SideState) (flags : Octet) (x : Int) : Report :=
  { report st (flags ||| 8) with measured := BitVec.ofInt 16 x }
def settlingFor (n : Nat) : SideRecord :=
  { sideIn .listen with agree := { settled with state := .settling, count := n } }
theorem test_far_listen :
    ((takeFar (settlingFor 3) (settlingFor 3) (seen .listen 1 0) .east).side.east.agree.count = 4) ∧
    ((takeFar (sideIn .listen) (sideIn .listen) (seen .listen 1 0) .east).side.east.agree.far =
      some (seen .listen 1 0).advert) ∧
    ((takeFar (settlingFor 3) (settlingFor 3) (seen .dark 1 0) .east).side.east.agree.count = 4) ∧
    ((takeFar (settlingFor 3) (settlingFor 3) { seen .listen 1 0 with edition := 0 } .east).side.east.agree.far = none) ∧
    stateOf (takeFar (settlingFor 15) (settlingFor 15) (seen .listen 1 0) .east) .east = .probe ∧
    stateOf (takeFar (settlingFor 15) (settlingFor 15) (seen .probe 0 0) .west) .west = .probe ∧
    stateOf (takeFar (settlingFor 15) (settlingFor 15) (seen .listen 0 0) .west) .west = .listen := by decide +kernel
def lit (v : Bool) (run : Nat) : SideRecord := { agreed .probe with lit := true, verified := v, mismatchRun := run }
theorem test_far_probe :
    (takeFar (agreed .probe) (agreed .probe) (seen .listen 0 0) .west).side.west.reason = .backOff ∧
    (takeFar (agreed .probe) (agreed .probe) (seen .dark 0 0) .west).side.west.reason = .farDark ∧
    (takeFar (agreed .probe) (agreed .probe) { seen .probe 0 0 with duration := 5 } .east).side.east.reason = .mismatch ∧
    (takeFar (agreed .probe) (agreed .probe) (seen .probe 2 0) .west).side.west.lit = true ∧
    (takeFar (lit false 3) (lit false 3) (seen .probe 0 (-3501)) .east).side.east.mismatchRun = 0 ∧
    (takeFar (lit false 3) (lit false 3) (seen .probe 0 (-3500)) .east).side.east.verified = true ∧
    stateOf (takeFar (lit false 3) (lit false 3) (seen .probe 2 (-3500)) .east) .east = .ramp ∧
    (takeFar (lit false 3) (lit false 3) (seen .probe 2 (-1000)) .west).side.west.mismatchRun = 4 ∧
    (takeFar (lit false 7) (lit false 7) (seen .probe 2 (-1000)) .west).side.west.reason = .mismatch ∧
    stateOf (takeFar (lit true 0) (lit true 0) (seen .probe 2 0) .east) .east = .ramp ∧
    stateOf (takeFar (lit true 0) (lit true 0) (seen .probe 0 0) .east) .east = .probe := by decide +kernel
/-- A side in RAMP at a step, armed. -/
def rampAt (order : Nat) (armed : Bool) (run : Nat) : SideRecord :=
  { agreed .ramp with step := some order, stepWindow := some 500, armed := armed, mismatchRun := run }
theorem test_far_ramp :
    (takeFar (agreed .ramp) (agreed .ramp) (seen .dark 0 0) .west).side.west.reason = .farDark ∧
    (takeFar (agreed .ramp) (agreed .ramp) (seen .ramp 0 0) .west).side.west.step = some 1 ∧
    (takeFar (agreed .ramp) (agreed .ramp) (seen .probe 0 0) .west).side.west.stepWindow = none ∧
    stateOf (takeFar (rampAt 1 true 3) (rampAt 1 true 3) (seen .ramp 0 (-3501)) .west) .west = .ramp ∧
    (takeFar (rampAt 1 true 3) (rampAt 1 true 3) (seen .ramp 0 (-1000)) .west).side.west.mismatchRun = 4 ∧
    (takeFar (rampAt 1 true 7) (rampAt 1 true 7) (seen .ramp 0 (-1000)) .west).side.west.reason = .mismatch ∧
    (takeFar (rampAt 1 false 7) (rampAt 1 false 7) (seen .ramp 0 (-1000)) .west).side.west.mismatchRun = 7 := by
  decide +kernel
/-- R39: the plan of the tests has its prerequisites within a side and, where lit, lit before. -/
theorem test_plan_prereqs : PrereqsOwn (both .run).tab ∧ LitInOrder (both .run).tab .west ∧
    LitInOrder (both .run).tab .east := by
  have own : ∀ n : Fin 8, ((planOf (both .run).tab n).prereq.all fun q =>
      (planOf (both .run).tab q).side == (planOf (both .run).tab n).side) = true := by decide +kernel
  have litWest : ∀ n ∈ probeLit (both .run).tab .west, (planOf (both .run).tab n).prereq = none := by decide +kernel
  have litEast : ∀ n ∈ probeLit (both .run).tab .east, (planOf (both .run).tab n).prereq = none := by decide +kernel
  refine ⟨fun n q h e => ?_, fun n h q e => ?_, fun n h q e => ?_⟩
  · have h8 : n < 8 := by
      unfold assigned at h; simp only [Bool.and_eq_true, decide_eq_true_eq] at h; exact h.1.2
    have := own ⟨n, h8⟩
    rw [e] at this; simpa using this
  · rw [litWest n h] at e; cases e
  · rw [litEast n h] at e; cases e
/-- R97, R98, R100, R103, R104: the lead lights at its entry, a follower where its far view shows VERIFIED; the first
ramp step commands full drive, at a follower where its lead ramps; a side without pumps enters RUN. -/
def follower (r : Report) (t : Tables) : State :=
  sideEvent (farReport r) .west { farSeen (lit false 3) (sideIn .dark) r with
    tab := ⟨t, true, none⟩, scan := { Scanner.reset with latest := Scanner.reset.latest.set 2 0 } }
def bare : Tables := { tables with pumps := List.replicate 8 (gap 18) }
theorem test_far_lights :
    (takeFar (settlingFor 15) (settlingFor 15) (seen .listen 1 0) .east).pdu.drive.take 4 = [0, 0, 500, 0] ∧
    (takeFar (settlingFor 15) (settlingFor 15) (seen .probe 0 0) .west).side.west.lit = false ∧
    (takeFar (settlingFor 15) (settlingFor 15) (seen .probe 2 0) .west).side.west.lit = true ∧
    (takeFar (settlingFor 15) (settlingFor 15) (seen .probe 2 0) .west).pdu.drive.take 4 = [500, 0, 0, 0] ∧
    (takeFar (agreed .probe) (agreed .probe) (seen .probe 2 0) .west).pdu.drive.take 4 = [500, 0, 0, 0] := by decide +kernel
theorem test_far_ramps :
    (let t := takeFar (lit true 0) (lit true 0) (seen .probe 2 0) .east
     t.side.east.step = some 1 ∧ t.side.east.stepWindow = some 500 ∧ t.pdu.drive.take 4 = [0, 0, 2000, 0]) ∧
    (let t := follower (seen .probe 2 (-2000)) tables
     stateOf t .west = .ramp ∧ t.side.west.step = some 1 ∧ t.side.west.stepWindow = none ∧ t.side.west.verified = true ∧
       t.pdu.drive.take 4 = [0, 0, 0, 0]) ∧
    (let t := follower (seen .ramp 2 (-2000)) tables
     stateOf t .west = .ramp ∧ t.side.west.stepWindow = some 500 ∧ t.pdu.drive.take 4 = [2000, 0, 0, 0]) ∧
    (let t := follower (seen .ramp 2 (-2000)) bare
     stateOf t .west = .run ∧ t.side.west.proving = some 60) ∧
    (let t := follower (seen .probe 2 (-2000)) bare
     stateOf t .west = .ramp ∧ t.side.west.step = none) ∧
    (takeFar (agreed .ramp) (agreed .ramp) (seen .ramp 0 0) .west).pdu.drive.take 4 = [2000, 0, 0, 0] ∧
    ((planOf (both .run).tab 2).full ≠ 0 ∧ (planOf (both .run).tab 2).prereq = none) := by decide +kernel
def starvedRun (b : Bool) : SideRecord := { agreed .run with starved := b, rearm := 1 }
theorem test_far_run :
    (takeFar (agreed .run) (agreed .run) (seen .dark 0 0) .west).side.west.reason = .farDark ∧
    (takeFar (agreed .run) (agreed .run) { seen .run 0 0 with launch := 900 } .west).side.west.agree.launch = 900 ∧
    (takeFar (starvedRun true) (agreed .run) (seen .run 0 0) .west).side.west.starved = false ∧
    (takeFar (starvedRun true) (agreed .run) (seen .run 4 0) .west).side.west.starved = true ∧
    takeFar (agreed .hold) (agreed .dark) (seen .run 4 0) .west = farSeen (agreed .hold) (agreed .dark) (seen .run 4 0) := by
  decide +kernel
theorem test_slot_premises :
    emptySlot.kind = 0 ∧ ((msg 1 1 4).kind ≠ 0 ∧ (msg 1 1 4).dest.toNat = pos (both .dark)) ∧
    ((msg 112 255 4).dest = 255 ∧ 112 ≤ (msg 112 255 4).kind.toNat ∧ (msg 115 255 4).kind.toNat ≤ 115) ∧
    ((msg 111 255 4).kind ≠ 0 ∧ (msg 111 255 4).dest = 255 ∧ (msg 111 255 4).kind.toNat < 112 ∧
      115 < (msg 116 255 4).kind.toNat) ∧
    ((msg 1 2 4).kind ≠ 0 ∧ (msg 1 2 4).dest.toNat ≠ pos (both .dark) ∧ (msg 1 2 4).dest ≠ 255) := by decide
/-- Requests by their kind: the rows, a kind without choices, and the source of a request from the local port. -/
theorem test_kinds_premises :
    (both .dark).powered = true ∧ modifyingKind (.holdSet (req 0 []) dflt) = some (7, req 0 []) ∧
    readingKind (.logRead (req 0 []) dflt) = some (15, req 0 []) ∧ 16 < (17 : Octet).toNat ∧
    (lineReq 0 []).via = .line ∧ (req 0 []).via = .localPort := by decide
theorem test_kinds_result :
    after (exec (.statusRead (lineReq 1 [0])) (both .dark)) (fun t =>
      t == settle (handleRequest 1 (lineReq 1 [0]) (begun (both .dark)))) = true ∧
    taken (both .dark) (req 0 []) = { req 0 [] with source := 1 } := by decide +kernel
/-- The action of the acceptance entry that matches a SIDE-TRIP notice of a source. -/
def actionOn (source : Octet) : Option Action :=
  ((acceptsInForce (both .dark)).find? fun e => e.accepts source 112).map AcceptEntry.action
theorem test_filter_premises : idle.tab.validated = false ∧ actionOn 4 = some .trip ∧ actionOn 5 = some .defer ∧
    actionOn 6 = some .deliver ∧ actionOn 7 = some .discard ∧ actionOn 8 = none ∧ actionOn 36 = none ∧
    (∀ e ∈ acceptsInForce (both .dark), e.accepts (msg 112 255 8).source (msg 112 255 8).kind = false) := by
  decide +kernel
theorem test_filter_trip : stateOf (filterNotice (msg 112 255 4) (both .run)) .east = .dark ∧
    (filterNotice (msg 112 255 4) (both .run)).side.east.reason = .notice := by decide +kernel
/-- A lead and a follower with READY, the far view showing LISTEN with READY. -/
def leading (w e : SideRecord) : State :=
  { farSeen w { e with ready := true } (seen .listen 1 0) with
    tab := ⟨{ tables with header := header.set 12 1 }, true, none⟩ }
/-- R93 to R95: the West span in PROBE fills the limit of 1; at its end the lead enters PROBE and lights its probe. A
lead in PROBE backs off from it; one that is verified does not. -/
theorem test_lead_judges :
    hdrLimit (leading (sideIn .probe) (agreed .listen)).tab.tables = 1 ∧ pacingCount (leading (sideIn .probe) (agreed .listen)) = 1 ∧
    leadJudge (leading (sideIn .probe) (agreed .listen)) = leading (sideIn .probe) (agreed .listen) ∧
    after (exec (.lossTimerExpiry .west dflt) (leading (sideIn .probe) (agreed .listen))) (fun t =>
      stateOf t .west == .dark && stateOf t .east == .probe && t.side.east.lit && t.side.east.probe == some 20 &&
      t.pdu.drive.take 4 == [0, 0, 500, 0]) = true ∧
    (leadJudge (leading (sideIn .probe) (lit false 3))).side.east.state = .listen ∧
    (leadJudge (leading (sideIn .probe) (lit false 3))).side.east.reason = .backOff ∧
    (leadJudge (leading (sideIn .probe) (lit false 3))).side.east.ready = true ∧
    stateOf (leadJudge (leading (sideIn .probe) (lit true 3))) .east = .probe ∧
    ((both .dark).pdu.latch = false ∧ (both .dark).pdu.drive.length = 8) := by decide +kernel
/-- R149, R55, R57: a defer; R64, R177: a stepdown overtaken by a notice. -/
def retries (n : Option Nat) : State := live { sideIn .dark with retry := n } (sideIn .listen)
def longWest (s : State) : State := { s with choices := { dflt with westLonger := true } }
theorem test_defer :
    restartInterval (retries none) = 60 ∧ (deferEvent .west (retries none)).side.west.retry = some 60 ∧
    (deferEvent .west (retries (some 100))).side.west.retry = some 60 ∧
    (deferEvent .west (longWest (retries (some 100)))).side.west.retry = some 100 ∧
    (deferEvent .west (longWest (retries (some 60)))).side.west.retry = some 60 ∧
    (deferEvent .east (retries none)).side.east.reason = .defer ∧
    (deferEvent .east (retries none)).side.east.retry = some 60 ∧ deferEvent .west (both .run) = both .run := by
  decide +kernel
theorem test_notice_stepdown :
    (filterNotice (msg 112 255 4) (both .stepdown)).side.west.lock = ⟨true, .ordered, 1, none⟩ ∧
    stateOf (filterNotice (msg 112 255 4) (both .stepdown)) .east = .lockout ∧
    stateOf (filterNotice (msg 112 255 5) (both .listen)) .west = .dark ∧ dflt.eastFirst = false := by decide +kernel
theorem test_lossTimer_premises : (both .run).powered = true ∧ isAbsent (both .run) .west = false ∧
    (both .run).ports.west.lossTimer ≠ none ∧ isAbsent (both .run) Side.west.other = false ∧
    after (exec (.lossTimerExpiry .west dflt) (both .run)) (fun t =>
      stateOf t .west == .dark && t.side.west.reason == .loss && t.tx.east.frameTimer) = true := by decide +kernel
/-- LOSS from the states it trips, a counted failure that reaches the budget, and a state it leaves alone. -/
theorem test_lossTimer_result :
    after (exec (.lossTimerExpiry .west dflt) (both .listen)) (fun t => t.side.west.reason == .loss &&
      t.side.west.retry == some 5 && t.side.west.failures == []) = true ∧
    after (exec (.lossTimerExpiry .west dflt) (both .ramp)) (fun t => t.side.west.failures == [0] &&
      t.side.west.retry == some 60) = true ∧
    after (exec (.lossTimerExpiry .west dflt) (live { sideIn .probe with failures := [0] } (sideIn .dark))) (fun t =>
      stateOf t .west == .lockout && t.side.west.reason == .budget) = true ∧
    after (exec (.lossTimerExpiry .west dflt) (both .stepdown)) (fun t => stateOf t .west == .stepdown) = true := by
  decide +kernel
def sending (d : Departure) : State := { both .dark with tx := ⟨Transmitter.reset, { Transmitter.reset with transit := [d] }⟩ }
theorem test_frameTimer_premises : (sending .originated).powered = true ∧
    (sending .originated).tx.east.frameTimer = true ∧ isAbsent (sending .originated) .east = false ∧
    after (exec (.frameTimerExpiry .east) (sending .originated)) (fun t =>
      t.tx.east.transit == [.originated, .originated]) = true := by decide +kernel
def queued : Queued := { msg := msg 129 7 1, resetDone := false }
def withQueue (s : State) : State := { s with msg := { s.msg with out := ⟨⟨[], []⟩, ⟨[], [queued]⟩⟩ } }
theorem test_originated_premises :
    (sending .originated).powered = true ∧ isAbsent (sending .originated) .east = false ∧
    (sending .originated).tx.east.transit = .originated :: [] ∧
    queueHead ((sending .originated).msg.out.get .east) = none ∧
    queueHead ((withQueue (sending .originated)).msg.out.get .east) = some queued ∧
    after (exec (.departure .east) (withQueue (sending .originated))) (fun t =>
      t.tx.east.counter == 1 && t.msg.out.east.size == 0 &&
      (match t.tx.east.line with
        | some l => l.length == 80 && octetAt l 50 == 129 && crc16 (l.take 78) == word16At l 78
        | none => false)) = true := by decide +kernel
theorem test_forwarded_premises :
    let s := sending (.forwarded (frame (msg 1 2 4)))
    s.powered = true ∧ isAbsent s .east = false ∧ s.tx.east.transit = .forwarded (frame (msg 1 2 4)) :: [] ∧
    (frame (msg 1 2 4)).slot.kind ≠ 0 ∧ (frame emptySlot).spans.length = 31 ∧ idle.tab.validated = false ∧
    ((frame emptySlot).slot.kind = 0 ∧ queueHead (s.msg.out.get .east) = none ∧
      queueHead ((withQueue (sending (.forwarded (frame emptySlot)))).msg.out.get .east) = some queued) ∧
    s.tab.validated = true ∧ isAbsent s Side.east.other = false := by
  decide +kernel
theorem test_forwarded_result :
    after (exec (.departure .east) (withQueue (sending (.forwarded (frame emptySlot))))) (fun t =>
      t.msg.out.east.size == 0 && (match t.tx.east.line with
        | some l => octetAt l 1 == 0 && octetAt l 2 == 5 && octetAt l 50 == 129
        | none => false)) = true := by decide +kernel

/-! ### Local port -/

def localOctets (m : Message) : List Octet := (localFrameOctets m).tail
/-- The part with its local receiver in the middle of a message. -/
def receiving (held : List Octet) : State := { idle with loc := { LocalPort.reset with receiver := .receiving held } }
theorem test_localError_premises : idle.powered = true ∧ idle.loc.receiver = .hunting ∧
    (receiving [1]).loc.receiver = .receiving [1] ∧ (∀ o ∈ gap 5, o ≠ 0xA5) ∧
    (([0, 0xA5, 1] : List Octet) = [0] ++ 0xA5 :: [1] ∧ (∀ o ∈ ([0] : List Octet), o ≠ 0xA5)) ∧
    ([1] ++ gap 28 : List Octet).length < 30 ∧ ((gap 29).length < 30 ∧ (gap 29).length + [0].length = 30) ∧
    crc16 ((gap 29 ++ [0]).take 28) ≠ word16At (gap 29 ++ [0]) 28 := by decide +kernel
theorem test_localError_result :
    after (exec .localRxTimeout (receiving [1])) (fun t => t.msg.framingErrors == 1 && t.loc.receiver == .hunting) = true ∧
    after (exec .localStopBitError idle) (fun t => t.msg.framingErrors == 0) = true ∧
    after (exec (.localFrameReceived [0, 0xA5, 1] dflt) idle) (fun t => t.loc.receiver == .receiving [1]) = true ∧
    after (exec (.localFrameReceived [0] dflt) (receiving (gap 29))) (fun t => t.msg.framingErrors == 1) = true := by
  decide +kernel
def full : State :=
  { both .dark with msg := { MsgEngine.reset with out := ⟨⟨[], []⟩, ⟨[], List.replicate 8 queued⟩⟩ } }
theorem test_localMessage_premises :
    crc16 ((localOctets (msg 1 2 0)).take 28) = word16At (localOctets (msg 1 2 0)) 28 ∧
    (localOctets (msg 1 2 0)).length = 30 ∧
    messageOf (localOctets (msg 1 2 0)) = msg 1 2 0 ∧
    ((msg 0 2 0).kind = 0 ∧ isNoticeKind (msg 113 2 0).kind = true ∧ isResponseKind (msg 129 2 0).kind = true) ∧
    (isRequestKind (msg 1 32 0).kind = true ∧ 31 < (msg 1 32 0).dest.toNat) ∧
    (isRequestKind (msg 1 1 0).kind = true ∧ (msg 1 1 0).dest.toNat = pos (both .dark)) ∧
    (isRequestKind (msg 1 2 0).kind = true ∧ (msg 1 31 0).dest.toNat ≤ 31 ∧ (msg 1 2 0).dest.toNat ≠ pos (both .dark)) ∧
    (isAbsent routeEnd .west = true ∧ (msg 1 0 0).dest.toNat < pos routeEnd) ∧
    (isAbsent full .east = false ∧ 8 ≤ (full.msg.out.get .east).size) ∧
    (isAbsent (both .dark) .east = false ∧ ((both .dark).msg.out.get .east).size < 8) := by decide +kernel
theorem test_localMessage_result :
    after (exec (.localFrameReceived (localFrameOctets (msg 1 2 0)) dflt) (both .dark)) (fun t =>
      t.msg.out.east.messages == [⟨msg 1 2 1, false⟩] && t.loc.receiver == .hunting) = true := by decide +kernel
/-- R160: whole messages after noise in one portion, the second with a wrong check, and octets that go on; a message
held so far and completed. -/
def twoFrames : List Octet :=
  [0, 1] ++ 0xA5 :: localOctets (msg 1 2 0) ++ 0xA5 :: gap 29 ++ [1] ++ [7, 0xA5, 9]
theorem test_localFrames_result :
    after (exec (.localFrameReceived twoFrames dflt) (both .dark)) (fun t =>
      t.msg.out.east.messages == [⟨msg 1 2 1, false⟩] && t.msg.framingErrors == 1 &&
      t.loc.receiver == .receiving [9]) = true := by decide +kernel
theorem test_localFrames_premises :
    FrameCompleted ([0, 1] ++ 0xA5 :: localOctets (msg 1 2 0)) (localOctets (msg 1 2 0)) (both .dark)
      { both .dark with loc := { (both .dark).loc with rateApplied := (both .dark).loc.rateInForce } } ∧
    FrameCompleted ((localOctets (msg 1 2 0)).drop 4) (localOctets (msg 1 2 0))
      (receiving ((localOctets (msg 1 2 0)).take 4)) idle ∧
    FrameCompleted [0] (gap 29 ++ [0]) (receiving (gap 29)) idle ∧
    (gap 28).length < 29 ∧ (gap 29).length = 29 :=
  ⟨⟨by decide, Or.inr ⟨[0, 1], rfl, rfl, by decide, rfl⟩⟩, ⟨by decide +kernel, Or.inl ⟨_, rfl, by decide +kernel, by decide +kernel, rfl⟩⟩,
    ⟨by decide, Or.inl ⟨_, rfl, by decide, rfl, rfl⟩⟩, by decide, by decide⟩
def delivering : State := { idle with msg := { MsgEngine.reset with delivery := [queued] } }
theorem test_localTransmit_premises : delivering.powered = true ∧ delivering.msg.delivery = queued :: [] ∧
    delivering.loc.receiver = .hunting ∧
    after (exec .localTransmit delivering) (fun t => t.msg.delivery == [] &&
      (match t.loc.sent with | some x => x.octets.length == 31 | none => false)) = true := by decide +kernel
/-- R31, R160: a message begun while hunting takes the rate in force; one begun while receiving keeps the rate applied. -/
theorem test_localTransmit_rate :
    let rated := fun (r : Receiver) => { delivering with loc := { LocalPort.reset with rateInForce := .r115200, receiver := r } }
    after (exec .localTransmit (rated .hunting)) (fun t => t.loc.rateApplied == .r115200 &&
      t.loc.sent == some ⟨localFrameOctets queued.msg, .r115200⟩) = true ∧
    after (exec .localTransmit (rated (.receiving []))) (fun t => t.loc.rateApplied == .r9600 &&
      t.loc.sent == some ⟨localFrameOctets queued.msg, .r9600⟩) = true ∧
    after (exec (.localFrameReceived [0xA5] dflt) (rated .hunting)) (fun t => t.loc.rateApplied == .r115200) = true ∧
    idle.msg.delivery = [] := by decide +kernel
theorem test_localRate_result :
    after (exec .localRateChange { idle with loc := { LocalPort.reset with rateInForce := .r115200 } }) (fun t =>
      t.loc.rateApplied == .r115200) = true ∧
    after (exec .localRateChange { idle with loc := ⟨.r115200, .r9600, .receiving [], none⟩ }) (fun t =>
      t.loc.rateApplied == .r9600) = true := by decide +kernel
/-- A queue with a notice about the West side and seven messages, the last of them a reset's DONE. -/
def noticeWest : Message := makeMessage 112 255 1 0 [0]
def fullQueue : MsgEngine :=
  { MsgEngine.reset with
    out := ⟨⟨[], []⟩, ⟨[noticeWest], List.replicate 6 queued ++ [{ queued with resetDone := true }]⟩⟩ }
theorem test_queue_premises :
    MsgEngine.reset.delivery.length < 16 ∧
    16 ≤ ({ MsgEngine.reset with delivery := List.replicate 16 queued } : MsgEngine).delivery.length ∧
    (MsgEngine.reset.out.get .east).size < 8 ∧ 8 ≤ (full.msg.out.get .east).size ∧
    (QueueLaw (fullQueue.out.get .east) ∧ OwnNotice (makeMessage 112 255 1 1 [1])) ∧
    (8 ≤ ((fullQueue.out.get .east).notices.filter fun a => !sameSubject a (makeMessage 112 255 1 1 [1])).length +
        (fullQueue.out.get .east).messages.length ∧
      ((fullQueue.out.get .east).notices.filter fun a => !sameSubject a (makeMessage 114 255 1 1 [0])).length +
        (fullQueue.out.get .east).messages.length < 8 ∧
      (fullQueue.out.get .east).messages = List.replicate 6 queued ++ [{ queued with resetDone := true }]) := by
  unfold QueueLaw OwnNotice; decide +kernel
theorem test_queue_evicts :
    (joinNotice (makeMessage 112 255 1 1 [1]) .east fullQueue).resetPhase = .due ∧
    (joinNotice (makeMessage 112 255 1 1 [1]) .east fullQueue).discarded = 1 ∧
    (joinNotice (makeMessage 114 255 1 1 [0]) .east fullQueue).out.east.size = 8 := by decide +kernel

/-- A full record queue: a trip record, the lock record of the West side and two trip records. -/
def siteTrip : TripRecord :=
  { side := none, cause := .cut, left := none, far := 255, ownInput := minPower, ownOutput := minPower
    farInput := minPower, view := 0 }
def sideTrip : TripRecord := { siteTrip with side := some .west, left := some .run, far := 0, view := 2 }
def fullRecords : StoreCtl :=
  { idle.ctl with queue := [.trip siteTrip, .lock .west true .manual 1, .trip sideTrip, .trip sideTrip] }
theorem test_recordQueue_premises :
    RecordQueueLaw fullRecords ∧ RecordQueueLaw idle.ctl ∧ 4 ≤ fullRecords.queue.length ∧ idle.ctl.queue.length < 4 ∧
    StoreRecord.locksSide .west (.lock .west true .cut 2) = true ∧
    (∀ x ∈ fullRecords.queue, x.locksSide .east = false) ∧
    (∀ x ∈ ([.trip siteTrip] ++ [.trip sideTrip, .trip sideTrip] : List StoreRecord), x.locksSide .west = false) := by
  have hl : ∀ sd, (fullRecords.queue.filter (StoreRecord.locksSide sd)).length ≤ 1 := by
    intro sd; cases sd <;> decide +kernel
  exact ⟨⟨by decide +kernel, hl, by decide⟩, ⟨by decide, fun sd => by cases sd <;> decide, by decide⟩, by decide +kernel⟩
/-- R190: replaced in its place; joined at a full queue in the oldest trip record's stead; joined at the end. -/
theorem test_recordQueue_joins :
    joinRecord (.lock .west true .cut 2) fullRecords =
      { fullRecords with queue := [.trip siteTrip, .lock .west true .cut 2, .trip sideTrip, .trip sideTrip] } ∧
    joinRecord (.lock .east true .cut 2) fullRecords =
      { fullRecords with
        queue := [.lock .west true .manual 1, .trip sideTrip, .trip sideTrip, .lock .east true .cut 2], lost := 1 } ∧
    joinRecord (.trip siteTrip) { fullRecords with lost := 65535 } =
      { fullRecords with
        queue := [.lock .west true .manual 1, .trip sideTrip, .trip sideTrip, .trip siteTrip], lost := 65535 } ∧
    joinRecord (.trip siteTrip) idle.ctl = { idle.ctl with queue := [.trip siteTrip] } := by decide +kernel
/-- R143, R144: a notice at an ABSENT West side and a full local delivery queue. -/
theorem test_postNotice :
    let m : MsgEngine := { MsgEngine.reset with delivery := List.replicate 16 queued }
    postNotice true false noticeWest m =
      { m with out := ⟨⟨[], []⟩, ⟨[noticeWest], []⟩⟩, localDrops := 1, noticeNumber := 1 } ∧
    (postNotice false false noticeWest MsgEngine.reset).delivery = [⟨noticeWest, false⟩] := by decide +kernel

/-! ### Requests -/

theorem test_response_premises :
    let v := fun (d : Octet) => ({ msg := msg 129 d 0, resetDone := false } : Queued)
    31 < (v 32).msg.dest.toNat ∧ (v 1).msg.dest.toNat = pos (both .dark) ∧
    ((v 0).msg.dest.toNat < pos (both .dark) ∧ isAbsent (both .dark) .west = false) ∧
    (pos (both .dark) < (v 2).msg.dest.toNat ∧ (v 31).msg.dest.toNat ≤ 31 ∧ isAbsent (both .dark) .east = false) ∧
    ((v 0).msg.dest.toNat < pos routeEnd ∧ isAbsent routeEnd .west = true) ∧
    isAbsent (live (sideIn .dark) (sideIn .absent)) .east = true := by decide +kernel
def pendingReset : State := { both .dark with msg := { MsgEngine.reset with resetPhase := .pending } }
theorem test_judged_premises :
    idle.powered = true ∧ modifyingKind (.holdSet (lineReq 0 []) dflt) = some (7, lineReq 0 []) ∧
    ¬ Permitted idle (lineReq 0 []) ∧ pendingReset.powered = true ∧ pendingReset.msg.resetPhase ≠ .idle ∧
    modifyingKind (.holdSet (req 0 []) dflt) = some (7, req 0 []) ∧ Permitted pendingReset (req 0 []) ∧
    readingKind (.statusRead (req 1 [0])) = some (1, req 1 [0]) := by
  unfold Permitted; decide +kernel
theorem test_accepted_line : Accepted (both .dark) (lineReq 0 []) := by unfold Accepted Permitted; decide +kernel
/-- The body of the last response delivered at the local port. -/
def lastBody (t : State) : List Octet :=
  match t.msg.delivery.getLast? with
  | some v => v.msg.body.take v.msg.len.toNat
  | none => []
/-- Whether a command answers with a response of this body at the local port. -/
def answersWith (c : Instr) (s : State) (body : List Octet) : Bool := after (exec c s) fun t => lastBody t == body
theorem test_unknown_result : answersWith (.unknownRequest 50 (req 0 [])) idle [9] = true := by decide +kernel
theorem test_status_premises : (both .run).msg.resetPhase = .idle ∧ (req 0 []).len ≠ 1 ∧
    ((req 1 [4]).len = 1 ∧ 3 < (octetAt (req 1 [4]).body 0).toNat) ∧
    ((req 1 [3]).len = 1 ∧ (octetAt (req 1 [3]).body 0).toNat ≤ 3) := by decide
theorem test_status_page0 :
    answersWith (.statusRead (req 1 [0])) (both .run)
      [0, 0, 1, 1, 0, 0, 1, 3, 9, 9, 0, 0, 0, 0, 0, 0, 0, 0, 0, 0, 0, 0, 0] = true := by decide +kernel
/-- R165, R136, R166: the flag octets of STATUS-READ page 0 and of SIDE-READ page 0. -/
theorem test_flag_octets :
    let s := withLatch (live (sideIn .dark) { sideIn .run with
      proving := some 3, verified := true, starved := true, lock := ⟨true, .manual, 4, none⟩ })
    after (exec (.statusRead (req 1 [0])) { s with
        lines := { trip := ⟨false, true⟩, hold := true }, hold := { s.hold with own := true } })
      (fun t => (lastBody t).take 5 == [0, 0, 1, 43, 6]) = true ∧
    after (exec (.sideRead (req 2 [1, 0])) s) (fun t => (lastBody t).take 10 == [0, 1, 0, 9, 0, 16, 0, 0, 0, 38]) = true ∧
    ([false, true, false, true].length ≤ 8 ∧ flagOctet [false, true, false, true] = 10) := by decide +kernel
theorem test_status_page1 :
    after (exec (.statusRead (req 1 [1])) (scored .run 10 .degraded (some (3, 4)))) (fun t =>
      (lastBody t).take 7 == [0, 1, 10, 1, 0, 3, 4]) = true := by decide +kernel
theorem test_status_page2 :
    answersWith (.statusRead (req 1 [2])) full [0, 2, 0, 0, 0, 0, 0, 0, 0, 8, 0, 0, 0, 0, 0, 0] = true := by
  decide +kernel
theorem test_side_premises : (req 1 [0]).len ≠ 2 ∧
    ((req 2 [2, 0]).len = 2 ∧ 1 < (octetAt (req 2 [2, 0]).body 0).toNat ∧ 7 < (octetAt (req 2 [0, 8]).body 1).toNat) ∧
    ((req 2 [1, 7]).len = 2 ∧ octetAt (req 2 [1, 7]).body 0 = sideOctet .east ∧
      (octetAt (req 2 [1, 7]).body 1).toNat ≤ 7) ∧ octetAt (req 2 [1, 0]).body 1 = 0 ∧
    (3 ≤ (octetAt (req 2 [1, 3]).body 1).toNat ∧ (octetAt (req 2 [1, 6]).body 1).toNat ≤ 6) ∧
    octetAt (req 2 [1, 1]).body 1 = 1 ∧ octetAt (req 2 [1, 2]).body 1 = 2 := by decide
/-- R166, page 2: the far advertisement and the arming where they are present. -/
theorem test_side_page2 :
    after (exec (.sideRead (req 2 [1, 2])) (live (sideIn .dark) { sideIn .lockout with
      agree := settled, lock := ⟨true, .manual, 4, some ⟨4, 9, 0⟩⟩ })) (fun t =>
      (lastBody t).take 16 == [0, 1, 2, 1, 0xFC, 0x18, 3, 0xE8, 20, 0, 1, 1, 1, 9, 0, 4]) = true := by decide +kernel
theorem test_side_page7 :
    answersWith (.sideRead (req 2 [1, 7])) (withDrive (both .run) [1, 2, 3, 4, 5, 6, 7, 8])
      [0, 1, 7, 12, 0, 0, 0, 0, 0, 3, 0, 4, 0, 0, 0, 0, 0, 0, 0, 0] = true := by decide +kernel
theorem test_monitor_entry_premises : (req 0 []).len ≠ 1 ∧
    ((req 1 [8]).len = 1 ∧ 7 < (octetAt (req 1 [8]).body 0).toNat) ∧
    ((req 1 [7]).len = 1 ∧ (octetAt (req 1 [7]).body 0).toNat = 7) ∧ (req 1 []).len ≠ 2 ∧
    ((req 2 [2, 0]).len = 2 ∧ entryExists 2 0 = false) ∧ ((req 2 [2, 31]).len = 2 ∧ entryExists 2 31 = true) := by
  decide +kernel
theorem test_monitor_result :
    answersWith (.monitorRead (req 1 [2])) (both .run) [0, 2, 0xE8, 0x90, 1, 1, 1, 0, 0, 0, 0, 0] = true := by
  decide +kernel
theorem test_entryRead_result : answersWith (.entryRead (req 2 [4, 1])) (both .run) [0, 4, 1, 1, 2, 0, 0, 0] = true := by
  decide +kernel
def entryReq (len table index : Octet) (e : List Octet) : Request := req len ([table, index] ++ e)
theorem test_entryWrite_premises :
    (Accepted idle (entryReq 7 4 1 [1, 2, 0, 0, 0]) ∧ Accepted (both .run) (entryReq 7 4 1 [])) ∧
    (busy (.committing who 0 (write0 0 false))).ctl.op.locksTables = true ∧
    (both .run).ctl.op.locksTables = false ∧ eitherActive (both .run) = true ∧
    (idle.ctl.op.locksTables = false ∧ eitherActive idle = false ∧ entryExists 4 8 = false) ∧
    (entryExists 4 7 = true ∧ (entryReq 6 4 7 []).len.toNat ≠ 2 + entrySize 4) ∧
    ((entryReq 7 4 1 [2, 0, 0, 0, 0]).len.toNat = 2 + entrySize 4 ∧
      firstBadField 4 [2, 0, 0, 0, 0] = some 0 ∧ firstBadField 4 [1, 2, 0, 0, 0] = none) := by
  unfold Accepted Permitted; decide +kernel
theorem test_entryWrite_result :
    after (exec (.entryWrite (entryReq 7 4 1 [1, 2, 0, 0, 5]) dflt) (both .dark)) (fun t =>
      lastBody t == [0, 4, 1, 0] && !t.tab.validated && getEntry t.tab.tables 4 1 == [1, 2, 0, 0, 5] &&
      stateOf t .west == .dark) = true := by decide +kernel
/-- R29, R36, R113, R125, R139: the flag was set. The site obeys no hold while the flag stands, so the clear makes the
view of the West set; a header write of budget 3 trims. -/
def flagged (sets : PosSet) : State :=
  { live { sideIn .dark with failures := [1, 2, 3, 4], retry := some 5 } (sideIn .lockout) with
    tab := ⟨{ tables with site := [0, 0, 0, 0] ++ tables.site.drop 4 }, true, none⟩
    hold := { HoldUnit.reset with sets := ⟨sets, 0⟩ }
    pdu := { PumpUnit.reset with drive := [7, 0, 7, 0, 0, 0, 0, 0] }
    scan := { Scanner.reset with dark := Scanner.reset.dark.set 0 ⟨true, 0⟩ } }
theorem test_entryWrite_clears :
    let write := .entryWrite (entryReq 19 1 0 (header.set 9 3)) dflt
    (eitherActive (flagged 4) = false ∧ (flagged 4).tab.validated = true ∧ entryExists 1 0 = true ∧
      (entryReq 19 1 0 (header.set 9 3)).len.toNat = 2 + entrySize 1 ∧ firstBadField 1 (header.set 9 3) = none) ∧
    after (exec write (flagged 4)) (fun t => t.hold.view == 4 && stateOf t .west == .hold && t.side.west.reason == .hold &&
      t.side.west.retry == none && t.side.west.failures == [3, 4] && stateOf t .east == .lockout &&
      t.pdu.drive == List.replicate 8 0 && t.scan.dark == List.replicate 8 ⟨false, 0⟩ && !t.tab.validated) = true ∧
    after (exec write (flagged 0)) (fun t => t.hold.view == 0 &&
      t.side.west == { sideIn .dark with failures := [3, 4], retry := some 5 }) = true := by decide +kernel
/-- The live part with the flag clear and both sides UNCONFIGURED. -/
def unchecked (t : Tables) : State := { both .unconfigured with tab := ⟨t, false, none⟩ }
/-- Tables of position 0 of the same route: the East side's pumps and input alone. -/
def eastTables : Tables :=
  { tables with
    pumps := [gap 18, gap 18, pump 1 1 500 255 0 255, pump 1 2 0 2 0 255] ++ List.replicate 4 (gap 18)
    monitors := [gap 5, [1, 2, 0, 0, 0]] ++ List.replicate 6 (gap 5) }
/-- A terminal at position 0 under clear tables, its West side UNCONFIGURED or in LOCKOUT, its East side ABSENT. -/
def terminal (w : SideState) : State := { live (sideIn w) (sideIn .absent) with position := 0, tab := ⟨eastTables, false, none⟩ }
/-- R20, R32: both sides of an inner position have a span and an RX INPUT monitor; the West side of position 0 and the
East side of the east terminal have no span, and report free values while the flag stands. -/
theorem test_report_spans :
    absentUnder (pos (both .dark)) (hdrLength tables) .west = false ∧ rxInput (both .dark) .east = some 1 ∧
    rxInput (both .dark) .west = some 0 ∧ absentUnder 0 3 .west = true ∧ absentUnder 2 3 .east = true ∧
    reportAbout { terminal .unconfigured with tab := ⟨eastTables, true, none⟩ } .west =
      { sender := 0, state := SideState.unconfigured.code, flags := reportFlags { terminal .unconfigured with tab := ⟨eastTables, true, none⟩ } .west
        measured := Config.unmeasuredInput 0, probe := (Config.spanlessAdvert 0).1
        launch := (Config.spanlessAdvert 0).2.1, duration := (Config.spanlessAdvert 0).2.2.1, edition := 1 } ∧
    after (exec (.departure .east) (sending .originated)) (fun t => t.free == 1) = true := by
  refine ⟨by decide +kernel, by decide +kernel, by decide +kernel, by decide, by decide, ?_, by decide +kernel⟩
  rfl
theorem test_tablesCheck_premises :
    Accepted (unchecked tables) (req 0 []) ∧ State.reset.ctl.op.isLoading = true ∧
    (23 < (req 24 []).len.toNat ∧ (req 23 []).len.toNat ≤ 23) ∧
    (runChecks (pos (terminal .unconfigured)) (terminal .unconfigured).tab.tables = none ∧
      absentUnder (pos (terminal .unconfigured)) (hdrLength eastTables) .west = true ∧
      absentUnder (pos (terminal .unconfigured)) (hdrLength eastTables) .east = false ∧
      stateOf (terminal .unconfigured) .east ∈ [.unconfigured, .absent]) ∧
    stateOf (live (sideIn .unconfigured) (sideIn .lockout)) .east = .lockout ∧
    ((unchecked badTables).ctl.op.isLoading = false ∧
      runChecks (pos (unchecked badTables)) (unchecked badTables).tab.tables = some ⟨3, 3, 9⟩) ∧
    (runChecks (pos (both .run)) (both .run).tab.tables = none ∧ (both .run).tab.validated = true) ∧
    (runChecks (pos (unchecked tables)) (unchecked tables).tab.tables = none ∧
      (unchecked tables).tab.validated = false) := by
  unfold Accepted Permitted; decide +kernel
theorem test_tablesCheck_result :
    after (exec (.tablesCheck (req 0 []) dflt) (unchecked tables)) (fun t =>
      lastBody t == [0, 0, 1, 2] && t.tab.validated && stateOf t .west == .dark && stateOf t .east == .dark &&
      t.side.west.retry == some 5) = true ∧
    answersWith (.tablesCheck (req 24 []) dflt) (unchecked tables) [4] = true := by decide +kernel
/-- R43, R44: ABSENT in and out; a lock record says locked; the latch. -/
theorem test_tablesCheck_moves :
    after (exec (.tablesCheck (req 0 []) dflt) (terminal .lockout)) (fun t => stateOf t .west == .absent &&
      stateOf t .east == .dark && lastBody t == [0, 0, 1, 2]) = true ∧
    after (exec (.tablesCheck (req 0 []) dflt) { unchecked tables with
      side := ⟨{ sideIn .unconfigured with lock := ⟨true, .manual, 3, none⟩ }, sideIn .unconfigured⟩ }) (fun t =>
      stateOf t .west == .lockout && t.side.west.lock == ⟨true, .manual, 4, none⟩ && stateOf t .east == .dark) = true ∧
    after (exec (.tablesCheck (req 0 []) dflt) (withLatch (unchecked tables))) (fun t =>
      t.side.west.lock == ⟨true, .cut, 1, none⟩ && stateOf t .east == .lockout) = true := by decide +kernel
/-- Sides in DARK or HOLD at a validation: the West side with a far hold set, the own position obeyed alone or all. -/
def rechecked (obey : Octet) (view sets : PosSet) (w e : SideRecord) : State :=
  { unchecked { tables with site := [obey, obey, obey, obey] ++ tables.site.drop 4 } with
    side := ⟨w, e⟩, hold := { HoldUnit.reset with view := view, sets := ⟨sets, 0⟩ } }
theorem test_tablesCheck_holds :
    siteObey (rechecked 0 0 0 (sideIn .dark) (sideIn .dark)).tab.tables = 0 ∧
    after (exec (.tablesCheck (req 0 []) dflt) (rechecked 255 0 4 (sideIn .dark) { sideIn .dark with retry := some 5 })) (fun t =>
      t.hold.view == 4 && stateOf t .west == .hold && stateOf t .east == .hold && t.side.east.retry == none) = true ∧
    after (exec (.tablesCheck (req 0 []) dflt) (rechecked 0 4 4 (sideIn .hold) (sideIn .lockout))) (fun t =>
      t.hold.view == 0 && stateOf t .west == .dark && t.side.west.retry == some 5 && stateOf t .east == .lockout) = true ∧
    after (exec (.tablesCheck (req 0 []) dflt) (rechecked 255 4 4 (sideIn .hold) (sideIn .hold))) (fun t =>
      t.side == ⟨sideIn .hold, sideIn .hold⟩) = true ∧
    after (exec (.tablesCheck (req 0 []) dflt) (rechecked 0 0 4 (sideIn .dark) { sideIn .dark with retry := some 5 })) (fun t =>
      stateOf t .west == .listen && t.side.west.settle == some 5 &&
      t.side.east == { sideIn .dark with retry := some 5 }) = true := by decide +kernel
theorem test_tablesCheck_law : FlagLaw (rechecked 255 0 4 (sideIn .dark) (sideIn .hold)) ∧ FlagLaw (terminal .unconfigured) := by
  refine ⟨fun _ sd => ?_, fun _ sd => ?_⟩ <;> cases sd <;> rfl
/-- An inner position: no side becomes or leaves ABSENT. -/
theorem test_tablesCheck_leaves : absentUnder 1 2 .east = true ∧ absentUnder 1 3 .east = false ∧
    hdrLength tables = 3 ∧ isAbsent (unchecked tables) .west = absentUnder 1 3 .west := by decide
theorem test_hold_premises :
    Accepted (both .run) (req 0 []) ∧ (req 1 []).len ≠ 0 ∧ (req 0 []).len = 0 ∧
    (false || (both .run).lines.hold) = (both .run).hold.own ∧ (true || (both .run).lines.hold) ≠ (both .run).hold.own := by
  unfold Accepted Permitted; decide +kernel
theorem test_holdSet_result :
    after (exec (.holdSet (req 0 []) dflt) (both .run)) (fun t => lastBody t == [0, 5, 0, 0, 0, 2] &&
      stateOf t .west == .hold && stateOf t .east == .hold && t.msg.noticeNumber == 2) = true := by decide +kernel
theorem test_holdClear_result :
    after (exec (.holdClear (req 0 []) dflt) (both .run)) (fun t => lastBody t == [0, 0, 0, 0, 0, 0]) = true := by
  decide +kernel
theorem test_sideRequests_premises :
    Accepted (both .run) (req 1 [1]) ∧ (req 1 [1]).len = 1 ∧ octetAt (req 1 [1]).body 0 = sideOctet .east ∧
    isAbsent (both .run) .east = false ∧ stateOf (both .lockout) .east = .lockout ∧
    stateOf (both .stepdown) .east = .stepdown ∧
    (stateOf (both .run) .east = .run ∧ pumpsDown (both .run).tab .east = 3 :: [2]) ∧
    (stateOf (both .ramp) .east ≠ .lockout ∧ stateOf (both .ramp) .east ≠ .stepdown ∧ stateOf (both .ramp) .east ≠ .run) := by
  unfold Accepted Permitted; decide +kernel
/-- A part whose plan holds no pump. -/
def noPumps : State := { both .run with tab := ⟨{ tables with pumps := List.replicate 8 (gap 18) }, true, none⟩ }
theorem test_sideRefusals_premises :
    (req 0 []).len ≠ 1 ∧ (req 2 []).len ≠ 3 ∧ 1 < (octetAt (req 1 [2]).body 0).toNat ∧
    (octetAt (req 1 [0]).body 0 = sideOctet .west ∧ isAbsent routeEnd .west = true) ∧ Accepted routeEnd (req 1 [0]) ∧
    (stateOf noPumps .east = .run ∧ pumpsDown noPumps.tab .east = []) := by
  unfold Accepted Permitted; decide +kernel
theorem test_sideRefusals_result :
    answersWith (.sideLock (req 0 []) dflt) routeEnd [4] = true ∧
    answersWith (.sideShut (req 1 [2]) dflt) routeEnd [3, 2, 0] = true ∧
    answersWith (.unlockArm (req 1 [0])) routeEnd [3, 0, 1] = true ∧
    answersWith (.unlockConfirm (req 3 [0, 0, 0]) dflt) (withLatch routeEnd) [3, 0, 1] = true ∧
    after (exec (.sideShut (req 1 [1]) dflt) noPumps) (fun t => lastBody t == [0, 1, 10, 0, 0] &&
      stateOf t .east == .lockout && t.side.east.lock == ⟨true, .ordered, 1, none⟩) = true := by decide +kernel
theorem test_sideLock_result :
    after (exec (.sideLock (req 1 [1]) dflt) (withDrive (both .run) [1, 1, 1, 1])) (fun t =>
      lastBody t == [0, 1, 3, 0, 1] && stateOf t .east == .lockout && t.pdu.drive == [1, 1, 0, 0] &&
      stateOf t .west == .run) = true := by decide +kernel
theorem test_sideShut_result :
    after (exec (.sideShut (req 1 [0]) dflt) (withDrive (both .run) [1, 1, 1, 1])) (fun t =>
      lastBody t == [0, 0, 10, 0, 0] && stateOf t .west == .stepdown && t.pdu.drive == [1, 0, 1, 1] &&
      t.pdu.stepdown.west == some ⟨1, .timer 500⟩) = true := by decide +kernel
/-- R176: what a shut from RUN clears. -/
theorem test_sideShut_clears :
    after (exec (.sideShut (req 1 [0]) dflt) (live { starvedRun true with
      ready := true, verified := true, mismatchRun := 2, proving := some 60 } (sideIn .dark))) (fun t =>
      t.side.west == { sideIn .stepdown with step := some 2, agree := { settled with state := .none, count := 0 } }) = true := by
  decide +kernel
def armedSide (reason : Cause) (a : Option Arming) : SideRecord :=
  { sideIn .lockout with reason := reason, lock := ⟨true, reason, 4, a⟩ }
def arming : Arming := { number := 4, source := 1, since := 0 }
def locked : State := live (armedSide .cut (some arming)) (armedSide .manual (some arming))
theorem test_unlockArm_premises :
    Accepted locked (req 1 [1]) ∧ (req 1 [1]).len = 1 ∧ octetAt (req 1 [0]).body 0 = sideOctet .west ∧
    isAbsent locked .east = false ∧ stateOf (both .dark) .east ≠ .lockout ∧
    (stateOf locked .west = .lockout ∧ (locked.side.get .west).lock.reason = .cut) ∧
    (stateOf locked .east = .lockout ∧ (locked.side.get .east).lock.reason ≠ .cut) := by
  unfold Accepted Permitted; decide +kernel
theorem test_unlockArm_result :
    after (exec (.unlockArm (req 1 [1])) locked) (fun t => lastBody t == [0, 1, 0, 4, 10] &&
      t.side.east.lock.arming == some ⟨4, 1, 0⟩) = true := by decide +kernel
theorem test_unlockConfirm_premises :
    Accepted locked (req 3 [1, 0, 4]) ∧ (req 3 [1, 0, 4]).len = 3 ∧
    octetAt (req 3 [1, 0, 4]).body 0 = sideOctet .east ∧ isAbsent locked .east = false ∧
    (withLatch locked).pdu.latch = true ∧ locked.pdu.latch = false ∧ stateOf (both .dark) .east ≠ .lockout ∧
    (live (sideIn .dark) (armedSide .manual none)).side.east.lock.arming = none ∧
    word16At (req 3 [1, 0, 5]).body 1 ≠ arming.number ∧
    ((locked.side.get .east).lock.arming = some arming ∧ stateOf locked .east = .lockout ∧
      (taken locked (req 3 [1, 0, 4])).source = arming.source ∧ word16At (req 3 [1, 0, 4]).body 1 = arming.number) := by
  unfold Accepted Permitted; decide +kernel
theorem test_unlockConfirm_result :
    after (exec (.unlockConfirm (req 3 [1, 0, 4]) dflt) locked) (fun t => lastBody t == [0, 1, 5, 0, 4] &&
      stateOf t .east == .dark && !t.side.east.lock.locked && t.side.east.reason == .manual) = true := by
  decide +kernel
theorem test_storeRefusals_premises :
    idle.powered = true ∧ idle.msg.resetPhase = .idle ∧ Permitted idle (req 0 []) ∧ (req 1 []).len ≠ 0 ∧
    (idle.ctl.op.isReloading = false ∧ idle.tab.validated = false) ∧ (both .run).tab.validated = true ∧
    (busy (.loading (.reload who) .header .noneYet)).ctl.op.isReloading = true ∧
    (busy (.recording none)).ctl.op ≠ .idle ∧ (idle.ctl.op = .idle ∧ eitherActive (both .run) = true) ∧
    (req 1 []).len ≠ 2 ∧ (63 < (octetAt (req 2 [64, 0]).body 0).toNat ∧ 1 < (octetAt (req 2 [0, 2]).body 1).toNat) ∧
    ((req 2 [63, 1]).len = 2 ∧ (octetAt (req 2 [63, 1]).body 0).toNat ≤ 63 ∧ (octetAt (req 2 [63, 1]).body 1).toNat ≤ 1) := by
  unfold Permitted; decide +kernel
theorem test_storeBegin_premises :
    (both .dark).ctl.op = .idle ∧ dflt.acks.headD true = true ∧ (both .dark).tab.validated = true ∧
    eitherActive (both .dark) = false ∧ (both .dark).msg.resetPhase = .idle := by decide +kernel
theorem test_storeCommit_result :
    after (exec (.storeCommit (req 0 []) dflt) (both .run)) (fun t =>
      t.ctl.op == .committing who 0 (newWrite 0 [0, 0])) = true := by decide +kernel
theorem test_storeReload_result :
    after (exec (.storeReload (req 0 []) dflt) (both .dark)) (fun t =>
      t.ctl.op == .loading (.reload who) .header .noneYet && !t.tab.validated && stateOf t .west == .dark) = true := by
  decide +kernel
theorem test_logRead_result :
    after (exec (.logRead (req 2 [3, 1]) dflt) (both .run)) (fun t => t.ctl.op == .reading who 3 1) = true := by
  decide +kernel
theorem test_partReset_premises : Accepted idle (req 0 []) ∧ (req 1 []).len ≠ 0 ∧ (req 0 []).len = 0 ∧
    State.reset.ctl.op.locksTables = true ∧ idle.ctl.op.locksTables = false ∧
    after (exec (.partReset (req 0 [])) idle) (fun t => t.msg.resetPhase == .pending && lastBody t == [0]) = true := by
  unfold Accepted Permitted; decide +kernel

/-! ### Lines and side timers -/

def tripped (st : SideState) : State := { both st with lines := ⟨⟨true, false⟩, false⟩ }
theorem test_tripLine_premises :
    (tripped .dark).powered = true ∧ (tripped .dark).lines.trip.get .west = true ∧
    stateOf (tripped .run) .west ≠ .dark ∧
    (stateOf (tripped .dark) .west = .dark ∧ (tripped .dark).ports.west.loss = false ∧
      (tripped .dark).ports.west.condition ≠ .withdrawn ∧ (tripped .dark).ports.west.neighbour = false ∧
      (tripped .dark).side.west.retry = none ∧ (tripped .dark).tab.validated = true ∧ (tripped .dark).hold.view = 0) ∧
    (both .run).lines.trip.get .west = false ∧ stateOf (both .stepdown) .west ∉ [.listen, .probe, .ramp, .run] ∧
    stateOf (both .run) .west ∈ [.listen, .probe, .ramp, .run] ∧ stateOf (both .listen) .west = .listen := by
  decide +kernel
theorem test_tripLine_result :
    after (exec (.tripLineAssert .west dflt) (withDrive (both .run) [9, 9, 9, 9])) (fun t => stateOf t .west == .dark &&
      t.side.west.reason == .tripLine && t.side.west.retry == some 5 && stateOf t .east == .run &&
      t.pdu.drive == [0, 0, 9, 9] && t.msg.noticeNumber == 1) = true ∧
    after (exec (.tripLineAssert .west dflt) (both .probe)) (fun t => t.side.west.failures == [0] &&
      t.side.west.retry == some 60) = true ∧
    after (exec (.tripLineAssert .east dflt) (both .listen)) (fun t => t.side.east.reason == .tripLine &&
      t.msg.noticeNumber == 0) = true ∧
    after (exec (.tripLineRelease .west) (tripped .dark)) (fun t => stateOf t .west == .listen) = true ∧
    after (exec (.tripLineRelease .west) (withView (tripped .dark) 1)) (fun t => stateOf t .west == .dark &&
      t.lines.trip == ⟨false, false⟩) = true := by
  decide +kernel
/-- R75, R76, R143: what a trip hands on, to an idle and to a busy Store Controller. -/
theorem test_trip_handsOn :
    after (exec (.tripLineAssert .west dflt) (both .run)) (fun t =>
      t.ctl == { (both .run).ctl with op := .recording (some ⟨tripRecordAt .west .tripLine .run t,
        recordWrite (both .run) (tripRecordAt .west .tripLine .run t)⟩) } &&
      t.msg == postNotice false false (makeMessage 112 255 1 0 [0, 1, causeCode .tripLine, SideState.dark.code])
        (both .run).msg) = true ∧
    after (exec (.tripLineAssert .west dflt) (withOp (both .run) (.reading who 0 1))) (fun t =>
      t.ctl == { (both .run).ctl with op := .reading who 0 1, queue := [tripRecordAt .west .tripLine .run t] }) = true ∧
    ((both .run).ctl.op = .idle ∧ (both .run).ctl.queue = [] ∧ dflt.acks = [] ∧ dflt.lateStart = false) := by
  decide +kernel
/-- R72, R77: the counted failure that reaches the budget hands on the trip record with its own cause, then the lock
record and the SIDE-LOCK notice with BUDGET. -/
theorem test_budget_handsOn :
    after (exec (.tripLineAssert .east dflt)
      (withOp (live (sideIn .dark) { sideIn .probe with failures := [0] }) (.reading who 0 1))) (fun t =>
      t.ctl.queue == [tripRecordAt .east .tripLine .probe t, .lock .east true .budget 1] &&
      t.msg == postNotice false false (makeMessage 114 255 1 0 [1, 2, causeCode .budget, SideState.lockout.code])
        MsgEngine.reset) = true := by decide +kernel
def onlyView : State := withView (both .hold) 2
def heldOwn : State := { onlyView with hold := { onlyView.hold with own := true }, lines := ⟨⟨false, false⟩, true⟩ }
theorem test_holdLine_premises :
    (both .run).powered = true ∧ ((both .run).hold.request || false) = (both .run).hold.own ∧
    ((both .run).hold.request || true) ≠ (both .run).hold.own ∧ (both .run).hold.view = 0 ∧
    stateOf (both .run) .west ∈ [.dark, .listen, .probe, .ramp, .run] ∧ stateOf (both .stepdown) .east = .stepdown ∧
    (heldOwn.hold.view ≠ 0 ∧ (heldOwn.hold.request || false) ≠ heldOwn.hold.own ∧ stateOf heldOwn .west = .hold) := by
  decide +kernel
theorem test_holdLine_result :
    after (exec (.holdLineAssert dflt) (both .run)) (fun t => t.hold.view == 2 && stateOf t .west == .hold) = true ∧
    after (exec (.holdLineRelease dflt) heldOwn) (fun t => t.hold.view == 0 && stateOf t .west == .dark &&
      t.side.east.retry == some 5) = true := by decide +kernel
/-- What a hold hands on, the East side first, and where no judgment of the lead comes between. -/
theorem test_holdLine_handsOn :
    after (exec (.holdLineAssert { dflt with eastFirst := true })
      (withOp (live (sideIn .run) (sideIn .stepdown)) (.reading who 0 1))) (fun t =>
      t.ctl.queue == [tripRecordAt .east .ordered .stepdown t, .lock .east true .ordered 1,
        tripRecordAt .west .hold .run t] && t.msg.noticeNumber == 2) = true ∧
    (dflt.eastFirst = false ∧ stateOf (both .run) .east ∉ [.listen, .probe]) := by decide +kernel
/-- What HOLD-SET and HOLD-CLEAR hand on, and where they take the sides. -/
theorem test_holdRequests_handsOn :
    after (exec (.holdSet (req 0 []) dflt)
      (withOp (live (sideIn .run) (sideIn .stepdown)) (.reading who 0 1))) (fun t =>
      t.ctl.queue == [tripRecordAt .west .hold .run t, tripRecordAt .east .ordered .stepdown t,
        .lock .east true .ordered 1] && t.msg.noticeNumber == 2) = true ∧
    after (exec (.holdClear (req 0 []) dflt) { heldOwn with lines := ⟨⟨false, false⟩, false⟩ }) (fun t =>
      t.hold.view == 0 && stateOf t .west == .dark && stateOf t .east == .dark && t.side.west.retry == some 5) = true ∧
    ((true || (both .run).lines.hold) ≠ (both .run).hold.own ∧ (both .run).hold.view = 0 ∧
      heldView { both .run with hold := { (both .run).hold with own := true } } = 2 ∧
      heldView { heldOwn with hold := { heldOwn.hold with own := false } } = 0) := by decide +kernel
def retrying (st : SideState) : State :=
  live { sideIn st with retry := some 5 } { sideIn st with retry := some 5 }
theorem test_retry_premises :
    (retrying .dark).powered = true ∧ (both .dark).side.west.retry = none ∧ (retrying .dark).side.west.retry ≠ none ∧
    (stateOf (retrying .dark) .west = .dark ∧ (retrying .dark).ports.west.loss = false ∧
      (retrying .dark).ports.west.condition ≠ .withdrawn ∧ (retrying .dark).ports.west.neighbour = false ∧
      (retrying .dark).tab.validated = true ∧ (retrying .dark).hold.view = 0 ∧
      (retrying .dark).lines.trip.get .west = false) ∧ stateOf (retrying .hold) .west ≠ .dark := by decide +kernel
theorem test_retry_result :
    after (exec (.retryTimerExpiry .west) (retrying .dark)) (fun t => stateOf t .west == .listen &&
      t.side.west.settle == some 5 && t.side.west.agree.state == .settling) = true := by decide +kernel
def settling : SideRecord :=
  { sideIn .listen with settle := some 5, agree := { Agreement.reset with state := .settled, duration := 20 } }
def settlingFar (f : Option Report) : State :=
  let s := live settling settling
  { s with ports := ⟨{ s.ports.west with report := f }, { s.ports.east with report := f }⟩ }
theorem test_settle_timer_premises :
    (settlingFar none).powered = true ∧ (both .listen).side.west.settle = none ∧
    (settlingFar none).side.west.settle ≠ none ∧
    (stateOf (settlingFar none) .west = .listen ∧ (settlingFar none).side.west.agree.state = .settled ∧
      (settlingFar none).ports.west.condition = .clear ∧ (settlingFar none).lines.trip.get .west = false) ∧
    (settlingFar none).ports.west.report = none ∧
    ((settlingFar (some (report .listen 1))).ports.east.report = some (report .listen 1) ∧
      (report .listen 1).shows .listen = true ∧ (report .listen 1).ready = true ∧
      pacingCount (settlingFar (some (report .listen 1))) < hdrLimit tables) ∧
    (report .probe 0).shows .probe = true ∧
    stateOf (live { settling with state := .dark } settling) .west ≠ .listen := by decide +kernel
theorem test_settle_timer_result :
    after (exec (.settleTimerExpiry .east) (settlingFar (some (report .listen 1)))) (fun t =>
      stateOf t .east == .probe && t.side.east.probe == some 20 && t.pdu.drive == [0, 0, 500, 0, 0, 0, 0, 0]) = true ∧
    after (exec (.settleTimerExpiry .west) (settlingFar (some (report .probe 0)))) (fun t =>
      stateOf t .west == .probe && !t.side.west.lit) = true := by decide +kernel
def probing (l : List Word32) : State :=
  let r := { sideIn .probe with probe := some 20, failures := l }
  withDrive (live r r) [500, 0, 500, 0, 0, 0, 0, 0]
def ramping : State :=
  let r := { sideIn .ramp with stepWindow := some 500, step := some 1 }
  withDrive (live r r) [500, 0, 500, 0, 0, 0, 0, 0]
theorem test_timeout_premises :
    (probing []).powered = true ∧ (both .probe).side.west.probe = none ∧
    ((probing []).side.west.probe ≠ none ∧ stateOf (probing []) .west = .probe) ∧
    (ramping.side.west.stepWindow ≠ none ∧ stateOf ramping .west = .ramp) ∧
    ((probing []).side.west.failures ++ [(probing []).time.uptime]).length < hdrBudget (probing []).tab.tables ∧
    hdrBudget (probing [0]).tab.tables ≤ ((probing [0]).side.west.failures ++ [(probing [0]).time.uptime]).length := by
  decide +kernel
theorem test_timeout_result :
    after (exec (.probeTimerExpiry .west dflt) (probing [])) (fun t => stateOf t .west == .dark &&
      t.side.west.retry == some 60 && t.side.west.failures == [0] && t.pdu.drive == [0, 0, 500, 0, 0, 0, 0, 0]) = true ∧
    after (exec (.stepWindowExpiry .east dflt) { ramping with side := ⟨ramping.side.west, { ramping.side.east with
      failures := [0] }⟩ }) (fun t => stateOf t .east == .lockout && t.side.east.reason == .budget &&
      t.ctl.queue.length == 1) = true := by decide +kernel
theorem test_proving_result :
    after (exec (.provingTimerExpiry .west) (live { sideIn .run with proving := some 60 } (sideIn .run))) (fun t =>
      t.side.west.proving == none) = true ∧
    after (exec (.armingExpiry .east) locked) (fun t => t.side.east.lock.arming == none) = true := by decide +kernel
def ageing (r : SideRecord) : State := { live r r with time := ⟨3700, ⟨true, false⟩⟩ }
theorem test_ageing_premises :
    (ageing (sideIn .dark)).powered = true ∧ (ageing (sideIn .dark)).time.second.get .east = false ∧
    (ageing (sideIn .dark)).time.second.get .west = true ∧
    (stateOf (ageing (armedSide .budget none)) .west = .lockout ∧ (ageing (armedSide .budget none)).side.west.reason = .budget) ∧
    ¬ (stateOf (ageing (sideIn .dark)) .west = .lockout ∧ (ageing (sideIn .dark)).side.west.reason = .budget) := by
  decide +kernel
/-- Entries 3601 s and 3600 s old under a window of 3600 s: the first leaves, the second stays. -/
theorem test_ageing_result :
    after (exec (.failureListAgeing .west) (ageing { sideIn .dark with failures := [99, 100, 3000] })) (fun t =>
      t.side.west.failures == [100, 3000]) = true := by decide +kernel

/-! ### Pumps and monitors -/

theorem test_cut_premises :
    0 ∈ pumpsUp (withDrive (both .run) [1, 1]).tab .west ∧ driveOf (withDrive (both .run) [1, 1]).pdu 0 ≠ 0 ∧
    (withDrive (both .run) [1, 1]).pdu.latch = false ∧ (withDrive (both .run) [1, 1]).pdu.checks.length = 8 ∧
    (planOf (both .run).tab 0).monitor = some 2 ∧
    checkOf (immediateCut .west (withDrive (both .run) [1, 1])).pdu 0 = some ⟨2, 0, BitVec.ofInt 16 (-2000), 10, none⟩ := by
  decide +kernel
def scanAt (n : Fin 8) (d : Dark) : State :=
  { both .run with scan := { Scanner.reset with next := n, dark := Scanner.reset.dark.set n.val d } }
theorem test_scan_premises :
    (both .run).powered = true ∧ (mapped (both .run).tab 7 = false ∧ (scanAt 7 ⟨false, 0⟩).pdu.stepdown = ⟨none, none⟩) ∧
    (mapped (both .run).tab 2 = true ∧ (mapOf (both .run).tab 2).output = true) ∧
    (mapped (both .run).tab 0 = true ∧ (mapOf (both .run).tab 0).output = false) ∧
    (((scanAt 0 ⟨true, 0⟩).scan.dark.getD 0 ⟨false, 0⟩).holding = true ∧
      (BitVec.ofInt 16 (-3501) : Word16).toInt < (spanOf (both .run) .west).light.toInt ∧
      (spanOf (both .run) .west).light.toInt ≤ (BitVec.ofInt 16 (-3500) : Word16).toInt) ∧
    (((scanAt 0 ⟨false, 1⟩).scan.dark.getD 0 ⟨false, 0⟩).holding = false ∧
      (spanOf (both .run) .west).dark.toInt ≤ (BitVec.ofInt 16 (-4000) : Word16).toInt ∧
      (BitVec.ofInt 16 (-4001) : Word16).toInt < (spanOf (both .run) .west).dark.toInt ∧
      (1 : Nat) + 1 < hdrHoldOff tables ∧ hdrHoldOff tables ≤ 2 + 1) := by decide +kernel
/-- The third dark result in a row begins the detection, and the side trips with DARK-INPUT. -/
theorem test_scan_result :
    after (exec (.monitorScanResult (BitVec.ofInt 16 (-4001)) dflt) (scanAt 0 ⟨false, 2⟩)) (fun t =>
      t.scan.dark.getD 0 ⟨false, 0⟩ == ⟨true, 0⟩ && stateOf t .west == .dark && t.side.west.reason == .darkInput &&
      t.scan.next == 1) = true ∧
    after (exec (.monitorScanResult (BitVec.ofInt 16 51) dflt) (scanAt 2 ⟨false, 0⟩)) (fun t =>
      stateOf t .west == .dark && t.side.west.reason == .overLevel) = true := by decide +kernel
/-- The West side in a record, with input 2 (its OUTPUT monitor) or input 0 (its RX INPUT monitor) next. -/
def scanSide (r : SideRecord) (n : Fin 8) (d : Dark) : State :=
  { live r (sideIn .dark) with scan := { Scanner.reset with next := n, dark := Scanner.reset.dark.set n.val d } }
def ownStep : SideRecord := { rampAt 1 false 0 with agree := settled }
/-- The same part with an OWN-OUTPUT step. -/
def ownOutput : State :=
  { scanSide ownStep 2 ⟨false, 0⟩ with tab := ⟨{ tables with pumps := tables.pumps.set 0 (pump 0 1 500 255 1 2) }, true, none⟩ }
theorem test_scan_output_premises :
    (∀ sd, (scanSide ownStep 2 ⟨false, 0⟩).pdu.stepdown.get sd = none) ∧
    (stateOf (scanSide ownStep 2 ⟨false, 0⟩) .west = .ramp ∧ ownStep.stepWindow ≠ none ∧
      stepPump (scanSide ownStep 2 ⟨false, 0⟩) .west = some 0 ∧
      (planOf (scanSide ownStep 2 ⟨false, 0⟩).tab 0).monitor = some 2 ∧
      (planOf (scanSide ownStep 2 ⟨false, 0⟩).tab 0).expected.toInt = 1000 ∧
      (1000 : Int) ≤ ownStep.agree.launch.toInt + 50) ∧
    (agreed .probe).agree.probe.toInt + 50 < 51 := by
  refine ⟨?_, by decide +kernel, by decide⟩
  intro sd; cases sd <;> rfl
theorem test_scan_output_result :
    after (exec (.monitorScanResult 1051 dflt) (scanSide ownStep 2 ⟨false, 0⟩)) (fun t => t.side.west.reason == .overLevel) =
      true ∧
    after (exec (.monitorScanResult 51 dflt) (scanSide (agreed .probe) 2 ⟨false, 0⟩)) (fun t =>
      t.side.west.reason == .overLevel && t.side.west.failures == [0]) = true ∧
    after (exec (.monitorScanResult 50 dflt) (scanSide (agreed .probe) 2 ⟨false, 0⟩)) (fun t => stateOf t .west == .probe) =
      true ∧
    after (exec (.monitorScanResult 900 dflt) (withDrive ownOutput [2000, 0, 0, 0, 0, 0, 0, 0])) (fun t =>
      stateOf t .west == .ramp && t.side.west.step == some 2 && t.pdu.drive.take 4 == [2000, 2000, 0, 0]) = true ∧
    after (exec (.monitorScanResult 899 dflt) ownOutput) (fun t => t.side.west.step == some 1 && t.side.west.armed) = true ∧
    after (exec (.monitorScanResult 900 dflt) (scanSide ownStep 2 ⟨false, 0⟩)) (fun t =>
      t.side.west.step == some 1 && t.side.west.armed) = true := by decide +kernel
theorem test_scan_input_result :
    after (exec (.monitorScanResult (BitVec.ofInt 16 (-3500)) dflt) (scanSide (starvedRun true) 0 ⟨true, 0⟩)) (fun t =>
      stateOf t .west == .run && !t.side.west.starved && t.side.west.rearm == 0) = true ∧
    after (exec (.monitorScanResult (BitVec.ofInt 16 (-3501)) dflt) (scanSide (starvedRun true) 0 ⟨true, 0⟩)) (fun t =>
      t.side.west.starved) = true ∧
    after (exec (.monitorScanResult (BitVec.ofInt 16 (-4001)) dflt) (scanSide (starvedRun false) 0 ⟨true, 0⟩)) (fun t =>
      stateOf t .west == .run && t.side.west.rearm == 2) = true ∧
    after (exec (.monitorScanResult (BitVec.ofInt 16 (-4001)) dflt)
      (scanSide { starvedRun false with rearm := 2 } 0 ⟨true, 0⟩)) (fun t => t.side.west.reason == .darkInput) = true ∧
    after (exec (.monitorScanResult (BitVec.ofInt 16 (-4000)) dflt) (scanSide (starvedRun false) 0 ⟨true, 0⟩)) (fun t =>
      stateOf t .west == .run && t.side.west.rearm == 0) = true ∧
    rxInput (scanSide (starvedRun false) 0 ⟨true, 0⟩) .west = some 0 := by decide +kernel
/-- A stepdown step of pump 0 that waits for its check at input 2. -/
def waiting : State :=
  let c : Check := { monitor := 2, offset := 0, level := BitVec.ofInt 16 (-2000), limit := 10, last := none }
  { scanSide (sideIn .stepdown) 2 ⟨false, 0⟩ with
    pdu := { PumpUnit.reset with checks := PumpUnit.reset.checks.set 0 (some c), stepdown := ⟨some ⟨0, .checks [0]⟩, none⟩ } }
theorem test_waiting_premises :
    waiting.pdu.stepdown.get .west = some ⟨0, .checks [0]⟩ ∧ waiting.pdu.stepdown.get .east = none ∧
    stateOf waiting .west = .stepdown ∧ checkOf waiting.pdu 0 ≠ none ∧
    judgeCheck 2 (BitVec.ofInt 16 (-2001)) (checkOf waiting.pdu 0) = none ∧
    judgeCheck 2 (BitVec.ofInt 16 (-2000)) (checkOf waiting.pdu 0) ≠ none := by decide +kernel
theorem test_waiting_result :
    after (exec (.monitorScanResult (BitVec.ofInt 16 (-2001)) dflt) waiting) (fun t => stateOf t .west == .lockout &&
      t.side.west.reason == .ordered && t.pdu.stepdown == ⟨none, none⟩) = true ∧
    after (exec (.monitorScanResult (BitVec.ofInt 16 (-2000)) dflt) waiting) (fun t => stateOf t .west == .stepdown &&
      t.pdu.stepdown == waiting.pdu.stepdown) = true := by decide +kernel
def stepOn (order : Nat) : State :=
  let r := { sideIn .ramp with stepWindow := some 500, step := some order }
  { withDrive (live r r) [500, 0, 500, 0, 0, 0, 0, 0] with scan := { Scanner.reset with done := true } }
theorem test_fullScan_premises :
    (stepOn 1).powered = true ∧ (both .run).scan.done = false ∧ (stepOn 1).scan.done = true ∧
    (∀ sd, stateOf (both .run) sd ≠ .ramp) ∧
    (stateOf (stepOn 1) .east = .ramp ∧ (stepOn 1).side.east.stepWindow ≠ none ∧ stepPump (stepOn 1) .east = some 2 ∧
      (planOf (stepOn 1).tab 2).monitor = none ∧ (planOf (stepOn 1).tab 2).check = .free) ∧
    (pumpsUp (stepOn 1).tab .east).find? (fun k =>
      decide ((planOf (stepOn 1).tab 2).order < (planOf (stepOn 1).tab k).order)) = some 3 ∧
    (stepPump (stepOn 2) .east = some 3 ∧ (∀ k ∈ pumpsUp (stepOn 2).tab .east,
      (planOf (stepOn 2).tab k).order ≤ (planOf (stepOn 2).tab 3).order) ∧ darkHolds (stepOn 2) .east = false) := by
  refine ⟨by decide, by decide, by decide, ?_, by decide +kernel, by decide +kernel, by decide +kernel⟩
  intro sd; cases sd <;> decide
/-- A step begun after the scan had ended: its first completion passes nothing. -/
def lateStep : State :=
  let r := { sideIn .ramp with stepWindow := some 500, step := some 1, late := true }
  { stepOn 1 with side := ⟨r, r⟩ }
theorem test_fullScan_late :
    stateOf lateStep .east = .ramp ∧ lateStep.side.east.late = true ∧ (stepOn 1).side.east.late = false ∧
    after (exec (.scanComplete dflt) lateStep) (fun t => t.side.east.step == some 1 && !t.side.east.late) = true ∧
    after (exec (.monitorScanResult 0 dflt) { lateStep with scan := { lateStep.scan with next := 7 } }) (fun t =>
      !t.side.east.late && t.scan.done) = true := by decide +kernel
/-- Nothing stands against the full drive of the next step's pump. -/
theorem test_fullScan_raise : (stepOn 1).pdu.latch = false ∧ (stepOn 1).pdu.drive.length = 8 ∧
    (planOf (stepOn 1).tab 3).full = 2000 ∧ (planOf (stepOn 1).tab 3).prereq = some 2 ∧ driveOf (stepOn 1).pdu 2 = 500 := by
  decide +kernel
theorem test_fullScan_result :
    after (exec (.scanComplete dflt) (stepOn 1)) (fun t => t.side.east.step == some 2 && t.pdu.drive.take 4 == [500, 0, 500, 2000] &&
      t.side.west.step == some 1) = true ∧
    after (exec (.scanComplete dflt) (stepOn 2)) (fun t => stateOf t .east == .run && t.side.east.proving == some 60) = true := by
  decide +kernel
def checking : State :=
  let c : Check := { monitor := 2, offset := 0, level := 0, limit := 10, last := some 77 }
  { both .run with pdu := { PumpUnit.reset with startCut := false, checks := PumpUnit.reset.checks.set 0 (some c), drive := List.replicate 8 5 } }
theorem test_extinction_premises :
    checking.powered = true ∧ checkOf checking.pdu (1 : Fin 8).val = none ∧ checkOf checking.pdu (0 : Fin 8).val ≠ none ∧
    isAbsent routeEnd .west = true ∧ isAbsent checking .west = false := by decide +kernel
theorem test_extinction_result :
    after (exec (.extinctionFault 0 dflt) checking) (fun t => t.pdu.latch && t.pdu.drive == List.replicate 8 0 &&
      stateOf t .west == .lockout && stateOf t .east == .lockout && t.side.west.lock == ⟨true, .cut, 1, none⟩ &&
      t.msg.noticeNumber == 3) = true := by decide +kernel
/-- R78: the site's record and notice, then the sides' in the order of the command. The site's record, the
oldest of five, is lost; its own output is the check's last judged reading. -/
theorem test_extinction_handsOn :
    after (exec (.extinctionFault 0 dflt) (withOp checking (.reading who 0 1))) (fun t =>
      t.ctl.queue == [tripRecordAt .west .cut .run t, .lock .west true .cut 1, tripRecordAt .east .cut .run t,
        .lock .east true .cut 1] && t.ctl.lost == 1) = true ∧
    after (exec (.extinctionFault 0 dflt) (withOp { checking with side := ⟨sideIn .dark, sideIn .absent⟩ } (.reading who 0 1)))
      (fun t => t.ctl.queue == [.trip { siteTrip with ownOutput := 77 }, .lock .west true .cut 1] &&
        t.msg.noticeNumber == 2) = true := by decide +kernel
def stepping (n : Nat) : State :=
  { withDrive (both .stepdown) [9, 9, 9, 9, 0, 0, 0, 0] with
    pdu := { PumpUnit.reset with drive := [9, 9, 9, 9, 0, 0, 0, 0], stepdown := ⟨some ⟨n, .timer 500⟩, none⟩ } }
theorem test_stepdown_premises :
    (stepping 1).powered = true ∧ (stepping 1).pdu.stepdown.get .west = some ⟨1, .timer 500⟩ ∧
    stateOf (stepping 1) .west = .stepdown ∧ (stepping 1).pdu.stepdown.get .east = none ∧
    (pumpsDown (stepping 1).tab .west).find? (fun k =>
      decide ((planOf (stepping 1).tab k).order < (planOf (stepping 1).tab 1).order)) = some 0 ∧
    (planOf (stepping 1).tab 0).monitor ≠ none ∧ (planOf (stepping 1).tab 2).monitor = none ∧
    (∀ k ∈ pumpsDown (stepping 0).tab .west, (planOf (stepping 0).tab 0).order ≤ (planOf (stepping 0).tab k).order) := by
  decide +kernel
theorem test_stepdown_result :
    after (exec (.stepdownWaitExpiry .west dflt) (stepping 1)) (fun t => t.pdu.stepdown.west == some ⟨0, .checks [0]⟩ &&
      t.side.west.step == some 1 && t.pdu.drive.take 4 == [0, 0, 9, 9]) = true ∧
    after (exec (.stepdownWaitExpiry .west dflt) (stepping 0)) (fun t => stateOf t .west == .lockout &&
      t.side.west.reason == .ordered && t.pdu.drive.take 4 == [0, 0, 9, 9]) = true := by decide +kernel

/-! ### Store Controller -/

def refuseOne : Choices := { dflt with acks := [false] }
def writing (elapsed : Nat) : State := busy (.committing who 1 (write0 elapsed false))
def record : StoreRecord := .lock .west true .manual 1
def recordOp (elapsed : Nat) (done : Bool) : StoreOp := .recording (some ⟨record, write0 elapsed done⟩)
theorem test_page_premises :
    (writing 0).powered = true ∧ StoreCanonical (writing 0) ∧ currentWrite (writing 0).ctl.op = some (write0 0 false) ∧
    (write0 0 false).done = false ∧ (write0 0 false).elapsed = 0 ∧
    (currentWrite (writing 5).ctl.op = some (write0 5 false) ∧ 5 ≤ (write0 5 false).elapsed ∧ (write0 18 false).elapsed < 19) ∧
    (19 ≤ (write0 19 false).elapsed ∧ (writing 19).ctl.op = .committing who 1 (write0 19 false)) ∧
    ((busy (recordOp 19 false)).ctl.op = .recording (some ⟨record, write0 19 false⟩) ∧
      (busy (recordOp 19 false)).ctl.queue = [] ∧ (busy (recordOp 19 false)).ctl.draining = false) := by
  refine ⟨rfl, rfl, rfl, rfl, rfl, ⟨rfl, by decide, by decide⟩, ⟨by decide, rfl⟩, rfl, rfl, rfl⟩
/-- The last write of a commit and the write of a lock record at their last repeat. -/
def lastPage : State := { busy (.committing who 11 { commitPage tables 11 with elapsed := 19 }) with store := [(0, 0), (1, 0)] }
def lockWrite : PageWrite := { newWrite (lockCopyAddr .west false) (lockCopyOctets 0 .west true .manual 1) with elapsed := 19 }
def lockFault : State := busy (.recording (some ⟨record, lockWrite⟩))
theorem test_page_fault_premises :
    lastPage.ctl.op = .committing who 11 { commitPage tables 11 with elapsed := 19 } ∧
    ({ commitPage tables 11 with elapsed := 19 } : PageWrite).addr = 0 ∧
    2 ≤ ({ commitPage tables 11 with elapsed := 19 } : PageWrite).data.length ∧
    lockFault.ctl.op = .recording (some ⟨record, lockWrite⟩) ∧ newestCopy lockFault.store .west = none := by decide +kernel
theorem test_page_fault_result :
    after (exec (.addressRepeat false [] dflt) lastPage) (fun t => Memory.read t.store 0 == 0 && Memory.read t.store 1 == 0 &&
      Memory.read t.store 4 == 2) = true ∧
    after (exec (.addressRepeat false [] dflt) lockFault) (fun t => newestCopy t.store .west == none && t.ctl.lost == 1) =
      true := by decide +kernel
theorem test_page_result :
    after (exec (.pageTimerExpiry true) (writing 0)) (fun t => t.store == [(64, 1), (65, 2)]) = true ∧
    after (exec (.addressRepeat false [some 0xFF] dflt) (writing 19)) (fun t => t.store == [(65, 2)] &&
      t.ctl.op == .idle && t.ctl.lastFault && lastBody t == []) = true := by decide +kernel
/-- Records at their last repeat: in RECORDING, while a route reset drains, and in a SUSPENDED commit. -/
def faulting (op : Option RecordWrite → StoreOp) (q : List StoreRecord) : State :=
  { both .run with ctl := { StoreCtl.reset with op := op (some ⟨record, write0 19 false⟩), queue := q } }
def lockEast : StoreRecord := .lock .east true .manual 2
theorem test_record_fault_premises :
    let s := faulting (.suspended who 2) [lockEast]
    s.powered = true ∧ StoreCanonical s ∧ currentWrite s.ctl.op = some (write0 19 false) ∧
    s.ctl.op = .suspended who 2 (some ⟨record, write0 19 false⟩) ∧ s.ctl.queue = lockEast :: [] ∧
    (faulting (.suspended who 2) []).ctl.queue = [] ∧ refuseOne.acks.headD true = false := ⟨rfl, rfl, rfl, rfl, rfl, rfl, rfl⟩
/-- R189, R191, R193: a fault ends the record in RECORDING, or while draining, or the suspended commit resumes, or
ends by the fault its next access meets; a waiting record follows. -/
theorem test_record_fault_result :
    let ends := fun (ch : Choices) (s : State) (op : StoreOp) (lost : Nat) =>
      after (exec (.addressRepeat false [] ch) s) fun t => t.ctl.op == op && t.ctl.lost == lost && t.ctl.lastFault
    let drains := faulting .recording []
    let next := fun (s : State) => some ⟨lockEast, recordWrite s lockEast⟩
    ends dflt (faulting .recording []) .idle 1 = true ∧
    ends dflt { drains with ctl := { drains.ctl with draining := true } } (.recording none) 1 = true ∧
    ends dflt (faulting .recording [lockEast]) (.recording (next (faulting .recording []))) 1 = true ∧
    ends refuseOne (faulting .recording [lockEast]) .idle 2 = true ∧
    ends dflt (faulting (.suspended who 2) []) (.committing who 2 (commitPage tables 2)) 1 = true ∧
    ends dflt (faulting (.suspended who 2) [lockEast]) (.suspended who 2 (next (faulting .recording []))) 1 = true ∧
    after (exec (.addressRepeat false [] refuseOne) (faulting (.suspended who 2) [])) (fun t => lastBody t == [10, 2] &&
      t.ctl.op == .idle) = true := by decide +kernel
def holding (m : Memory) (st : LoaderStep) (v : LoaderResult) : State :=
  { busy (.loading .powerUp st v) with store := m, position := 1 }
def imageStore : Memory := Memory.writeOctets (Memory.writeOctets [] 0 ((imageOctets tables).take 8)) 8 (tablesOctets tables)
def headerStore (l : List Octet) : Memory := Memory.writeOctets [] 0 l
theorem test_loader_premises :
    let h := fun (m : Memory) => Memory.readOctets m 0 8
    (holding imageStore .header .noneYet).powered = true ∧ dflt.acks.headD true = true ∧
    (holding imageStore .header .noneYet).ctl.op = .loading .powerUp .header .noneYet ∧
    word16At (h (headerStore [0, 0])) 0 = 0 ∧
    (word16At (h []) 0 ≠ 0 ∧ word16At (h []) 0 ≠ 0x5C3A) ∧
    (word16At (h (headerStore [0x5C, 0x3A, 0, 1, 2, 0xB5])) 0 = 0x5C3A ∧
      692 < (word16At (h (headerStore [0x5C, 0x3A, 0, 1, 2, 0xB5])) 4).toNat) ∧
    (word16At (h (headerStore [0x5C, 0x3A, 0, 1, 2, 0xB3])) 4).toNat < 692 ∧
    (word16At (h imageStore) 0 = 0x5C3A ∧ (word16At (h imageStore) 4).toNat = 692) := by decide +kernel
theorem test_loader_header :
    after (exec (.loaderReadComplete dflt) (holding [] .header .noneYet)) (fun t =>
      t.ctl.op == .loading .powerUp .lockArea .blank) = true := by decide +kernel
theorem test_loaderEnd_premises :
    (holding imageStore .log .loaded).powered = true ∧
    (holding imageStore .log .loaded).ctl.op = .loading .powerUp .log .loaded ∧
    (LoaderResult.blank ≠ .loaded ∧ (holding [] .log .blank).ctl.op = .loading .powerUp .log .blank) ∧
    (holding imageStore .log .loaded).tab.validated = false ∧ dflt.acks = [] ∧
    highestNumber ([] : Memory) = 0 := by decide +kernel
theorem test_stored_octets : Memory.readOctets imageStore 8 684 = tablesOctets tables := by
  have h : (tablesOctets tables).length = 684 := by decide +kernel
  have := Memory.readOctets_writeOctets (l := tablesOctets tables) (a := 8)
    (Memory.writeOctets_wf (l := (imageOctets tables).take 8) (a := 0) (m := []) rfl)
  rwa [h] at this
theorem test_stored_tables : storedTables imageStore = tables := by
  unfold storedTables; rw [test_stored_octets]; exact test_image_round
theorem test_stored_pass : runChecks (pos (holding imageStore .log .loaded)) (storedTables imageStore) = none := by
  rw [test_stored_tables]; exact test_check_pass
/-- A store with a stored MANUAL lock of the West side and a CUT lock of the East side. -/
def lockStore : Memory :=
  Memory.writeOctets (Memory.writeOctets [] (lockCopyAddr .west true) (lockCopyOctets 4 .west true .manual 6))
    (lockCopyAddr .east false) (lockCopyOctets 2 .east true .cut 3)
theorem test_loaderEnd_locks :
    newestCopy lockStore .west = some (true, lockCopyOctets 4 .west true .manual 6) ∧
    after (exec (.loaderReadComplete dflt) (holding lockStore .log .blank)) (fun t =>
      t.side.west.lock == ⟨true, .manual, 6, none⟩ && t.side.east.lock == ⟨false, .cut, 3, none⟩ &&
      t.ctl.notes == ⟨some ⟨true, 4⟩, some ⟨false, 2⟩⟩ && stateOf t .west == .unconfigured) = true := by decide +kernel
/-- R182, R186, R184: the CUT lock that the power-on releases is queued as not locked, and its write begins as the run
ends. -/
theorem test_loaderEnd_released :
    runEndRecords dflt .powerUp (newestCopy lockStore) (fun _ => LockRecord.reset) none (holding lockStore .log .blank) =
      [.lock .east false .cut 3] ∧
    after (exec (.loaderReadComplete dflt) (holding lockStore .log .blank)) (fun t =>
      t.ctl.op == .recording (some ⟨.lock .east false .cut 3, recordWrite t (.lock .east false .cut 3)⟩) &&
      t.ctl.queue == []) = true := by decide +kernel
/-- Sides of a STORE-RELOAD's run, its flag clear: one in DARK, one in LOCKOUT; under the latch; ABSENT. -/
def reloaded (w e : SideState) : State := { live (sideIn w) (sideIn e) with
  tab := ⟨tables, false, none⟩
  ctl := { StoreCtl.reset with op := .loading (.reload who) .log .blank } }
theorem test_loaderEnd_sides :
    after (exec (.loaderReadComplete dflt) (reloaded .dark .lockout)) (fun t => stateOf t .west == .unconfigured &&
      stateOf t .east == .lockout && lastBody t == [0, 3, 0, 0, 0]) = true ∧
    after (exec (.loaderReadComplete dflt) (withLatch (reloaded .dark .absent))) (fun t => stateOf t .west == .lockout &&
      t.side.west.reason == .cut && stateOf t .east == .lockout && t.side.east.lock == ⟨true, .cut, 1, none⟩ &&
      t.ctl.queue == [.lock .east true .cut 1]) = true := by
  decide +kernel
/-- The laws that the statement of the run's end assumes, and the sides that the latch forces. -/
theorem test_loaderEnd_laws :
    (TablesLaw (withLatch (reloaded .dark .absent)) ∧ FlagLaw (withLatch (reloaded .dark .absent))) ∧
    ((withLatch (reloaded .dark .absent)).pdu.latch = true ∧
      stateOf (withLatch (reloaded .dark .absent)) .west ∉ [.lockout, .unconfigured]) := by
  refine ⟨⟨⟨nofun, fun _ => rfl⟩, fun _ sd => ?_⟩, by decide, by decide⟩
  cases sd <;> rfl
/-- R51, R186: the run ends without a validation, and the ABSENT side is UNCONFIGURED, its port at the reset values
and its transmitter originating; a locked record stays. -/
theorem test_loaderEnd_absent :
    let s := { reloaded .hold .absent with
      ports := ⟨(live (sideIn .dark) (sideIn .dark)).ports.west, { PortRecord.reset with score := 9, holdSet := 1 }⟩
      side := ⟨sideIn .hold, { sideIn .absent with lock := ⟨true, .manual, 4, none⟩ }⟩, tab := ⟨Tables.emptied, false, none⟩ }
    after (exec (.loaderReadComplete dflt) s) (fun t => t.side.east.state == .unconfigured && t.side.west.state == .unconfigured &&
      t.side.east.lock == ⟨true, .manual, 4, none⟩ && t.ports.east == PortRecord.reset && t.hold.sets.east == 0 &&
      t.tx.west.frameTimer && lastBody t == [0, 3, 0, 0, 0]) = true ∧
    after (exec (.loaderReadComplete dflt) { s with ports := s.ports.set .west PortRecord.reset }) (fun t =>
      t.tx.east.frameTimer) = true ∧
    (s.powered = true ∧ isAbsent s .east = true ∧ s.ctl.op.isLoading = true ∧ s.tab.validated = false) ∧
    ((s.side.get .west).state.active = false ∧ (s.side.get .east).state.active = false) := by decide +kernel
/-- A valid trip record with running number 5 in slot 2, its other octets erased, and nothing else. -/
def logStore : Memory := Memory.writeOctets (Memory.writeOctets [] (slotAddr 2) [0, 0, 0, 5]) (slotAddr 2 + 31) [21]
theorem test_log_number : slotNumber logStore 2 = 5 := by decide +kernel
theorem test_log_slots : highestNumber logStore ≠ 0 ∧ highestSlots logStore = [2] := by decide +kernel
theorem test_loaderEnd_result :
    after (exec (.loaderReadComplete dflt) (holding [] .log .blank)) (fun t => t.tab == ⟨Tables.emptied, false, none⟩ &&
      !t.pdu.startCut && stateOf t .west == .unconfigured && t.ctl.result == .blank) = true := by
  decide +kernel

def committing (k : Nat) (q : List StoreRecord) : State :=
  { both .run with ctl := { StoreCtl.reset with op := .committing who k (write0 0 true), queue := q } }
def recorded (q : List StoreRecord) : State :=
  { both .run with ctl := { StoreCtl.reset with op := recordOp 0 true, queue := q } }
def suspendedOp : StoreOp := .suspended who 2 (some ⟨record, write0 0 true⟩)
theorem test_complete_premises :
    (committing 1 []).powered = true ∧ (committing 1 []).ctl.op = .committing who 1 (write0 0 true) ∧
    (write0 0 true).done = true ∧ (10 : Nat) < 11 ∧ (committing 1 []).ctl.queue = [] ∧
    refuseOne.acks.headD true = false ∧
    (hdrSuspend (committing 1 [record]).tab.tables = true ∧ (committing 1 [record]).ctl.queue = record :: []) ∧
    ((recorded []).ctl.op = .recording (some ⟨record, write0 0 true⟩) ∧ (recorded []).ctl.queue = [] ∧
      (recorded [record]).ctl.queue = record :: []) ∧
    (withOp (both .run) suspendedOp).ctl.op = .suspended who 2 (some ⟨record, write0 0 true⟩) ∧
    (withOp (both .run) suspendedOp).ctl.queue = [] ∧
    (withOp (both .run) (.reading who 0 1)).ctl.op = .reading who 0 1 ∧
    (withOp drained (.reading who 0 1)).ctl.draining = true := by decide +kernel
theorem test_commit_result :
    after (exec (.commitPageComplete dflt) (committing 11 [])) (fun t => lastBody t == [0, 0, 1] && t.ctl.op == .idle) = true ∧
    after (exec (.commitPageComplete dflt) (committing 0 [])) (fun t =>
      t.ctl.op == .committing who 1 (commitPage tables 1)) = true := by decide +kernel
/-- Section 9.1: the fields of a commit's last page, and where its pages stand. -/
theorem test_commit_pages :
    (commitPage tables 11).data.take 6 = [0x5C, 0x3A, 0, 1, 2, 0xB4] ∧ ((commitPage tables 11).data.drop 8).take 17 = header ∧
    commitPage tables 0 = newWrite 0 [0, 0] ∧ (commitPage tables 10).addr = 640 ∧
    (commitPage tables 10).data.drop 43 = List.replicate 8 255 ++ [1] ++ gap 12 := by decide +kernel
theorem test_tables_shaped : TablesShaped tables := by unfold TablesShaped; decide +kernel
/-- R188, R185: a loader run over the image of the tables. -/
theorem test_commit_image :
    judgeImage (commitStored tables [] 12) = .loaded ∧ storedTables (commitStored tables [] 12) = tables :=
  ⟨judgeImage_commitStored test_tables_shaped rfl, storedTables_commitStored test_tables_shaped rfl⟩
theorem test_commit_image_premises (m : Memory) :
    Memory.wf ([] : Memory) = true ∧ (holding m .header .noneYet).powered = true ∧ dflt.acks.headD true = true ∧
    (holding m .header .noneYet).store = m ∧ (holding m .header .noneYet).ctl.op = .loading .powerUp .header .noneYet ∧
    (holding m .image .noneYet).ctl.op = .loading .powerUp .image .noneYet := ⟨rfl, rfl, rfl, rfl, rfl, rfl⟩
/-- R189: queued records before the next page, one of them lost to a refused access; the next record of a suspended
commit, and its next page. -/
theorem test_suspended_result :
    let suspended := fun (q : List StoreRecord) =>
      { both .run with ctl := { StoreCtl.reset with op := suspendedOp, queue := q } }
    let begins := fun (r : StoreRecord) (t : State) =>
      t.ctl.op == .suspended who 2 (some ⟨r, recordWrite t r⟩) && t.ctl.queue == []
    after (exec (.commitPageComplete dflt) (committing 1 [record])) (begins record) = true ∧
    after (exec (.commitPageComplete refuseOne) (committing 1 [record, lockEast])) (fun t => begins lockEast t &&
      t.ctl.lost == 1) = true ∧
    after (exec (.recordWriteComplete dflt) (suspended [lockEast])) (begins lockEast) = true ∧
    after (exec (.recordWriteComplete dflt) (suspended [])) (fun t =>
      t.ctl.op == .committing who 2 (commitPage tables 2)) = true := by decide +kernel
/-- R184, R191: an IDLE controller with a record waiting, whose access the store refuses. -/
theorem test_settle_refused :
    let s := { idle with ctl := { idle.ctl with queue := [record] }, choices := refuseOne }
    (s.ctl.op = .idle ∧ s.ctl.queue ≠ []) ∧ (settle s).ctl.op = .idle ∧ (settle s).ctl.lost = 1 := by decide +kernel
theorem test_record_result :
    after (exec (.recordWriteComplete dflt) (recorded [])) (fun t => t.ctl.op == .idle &&
      t.ctl.notes.west == some ⟨false, 0⟩) = true := by decide +kernel
theorem test_logRead_complete :
    after (exec (.logReadComplete dflt) { withOp (both .run) (.reading who 0 0) with
      store := logStore, ctl := { StoreCtl.reset with op := .reading who 0 0, nextSlot := 3 } }) (fun t =>
      (lastBody t).take 7 == [0, 0, 0, 0, 0, 0, 5]) = true := by decide +kernel
theorem test_logRead_abandoned :
    after (exec (.logReadComplete dflt) (withOp drained (.reading who 0 1))) (fun t => t.ctl.op == .recording none &&
      t.msg.delivery == []) = true := by decide +kernel
theorem test_start_after_drain :
    after (exec (.loaderStartAfterDrain dflt) drained) (fun t => t.ctl.op == .loading .routeReset .header .noneYet) = true := by
  decide +kernel

/-- R185, R187: a read of a STORE-RELOAD's run that cannot begin, over one side in DARK and one in
LOCKOUT, ends the run ABSENT: the failure lists are empty, and the response is STORE-FAULT. -/
def faulted : State :=
  { withOp (live { sideIn .dark with failures := [1] } { sideIn .lockout with failures := [2] })
      (.loading (.reload who) .header .noneYet) with store := lockStore, tab := ⟨tables, false, none⟩ }
theorem test_loader_storeFault_laws : TablesLaw faulted ∧ FlagLaw faulted := by
  refine ⟨⟨nofun, fun _ => rfl⟩, fun _ sd => ?_⟩
  cases sd <;> rfl
theorem test_loader_storeFault :
    let s := faulted
    after (exec (.loaderReadComplete refuseOne) s) (fun t => lastBody t == [10, loaderOctet .absent, 0, 0, 0] &&
      t.ctl.result == .absent && t.ctl.op == .idle && t.ctl.lastFault && t.ctl.notes == ⟨none, none⟩ &&
      t.side.west.failures == [] && t.side.east.failures == [] && stateOf t .west == .unconfigured &&
      stateOf t .east == .lockout) = true ∧
    s.ctl.op = .loading (.reload who) .header .noneYet ∧ LoaderStep.header ≠ .log ∧ refuseOne.acks = [false] := by
  decide +kernel
/-- R72: under a LOADED image of budget 2 a list keeps its newest entry, but for a BUDGET lockout's. -/
theorem test_loader_trims : hdrBudget tables = 2 ∧ trimFailures 2 [1, 2, 3] = [3] ∧
    (trimSides 2 (live { sideIn .dark with failures := [1, 2] } { armedSide .budget none with failures := [1, 2] })).side =
      ⟨{ sideIn .dark with failures := [2] }, { armedSide .budget none with failures := [1, 2] }⟩ := by decide +kernel
/-- R183, R191: the completed form of a trip record and of a lock record, and what their completion leaves. -/
theorem test_record_form :
    let s := { both .run with
      ctl := { StoreCtl.reset with op := .idle, nextSlot := 63, nextNumber := 4294967295, notes := ⟨some ⟨false, 255⟩, none⟩ } }
    (recordWrite s (.trip sideTrip)).addr = 0xAE0 ∧
    (recordWrite s (.trip sideTrip)).data.take 13 = [255, 255, 255, 255, 0, 0, 0, 0, 0, 1, causeCode .cut, 9, 0] ∧
    octetSum (recordWrite s (.trip sideTrip)).data = 255 ∧
    ((completeRecord (.trip sideTrip) s.ctl).nextSlot = 0 ∧ (completeRecord (.trip sideTrip) s.ctl).nextNumber = 1) ∧
    (recordWrite s record).addr = 0x2C8 ∧
    (recordWrite s record).data.take 7 = [0, 0, 1, causeCode .manual, 0, 1, 0] ∧
    (completeRecord record s.ctl).notes = ⟨some ⟨true, 0⟩, none⟩ ∧
    (recordWrite s (.lock .east false .manual 1)).addr = 0x2D0 := by decide +kernel

/-! ### The laws' premises -/

/-- A lit part: the probe-lit pump of a West side in PROBE, both pumps of an East side in RUN. -/
def glowing : State := withDrive (live (sideIn .probe) (sideIn .run)) [5, 0, 5, 5, 0, 0, 0, 0]
theorem test_pumpLaw_glowing : PumpLaw glowing := by
  intro n h
  have hn : n < 8 := by
    rcases Nat.lt_or_ge n 8 with hn | hn
    · exact hn
    · exact absurd (show driveOf glowing.pdu n = 0 by
        unfold driveOf; rw [List.getD_eq_default]; exact hn) h
  match n, hn, h with
  | 0, _, _ => exact ⟨.west, Or.inr (by decide +kernel)⟩
  | 1, _, h => exact absurd (by decide +kernel) h
  | 2, _, _ => exact ⟨.east, Or.inl (by decide +kernel)⟩
  | 3, _, _ => exact ⟨.east, Or.inl (by decide +kernel)⟩
  | 4, _, h => exact absurd (by decide +kernel) h
  | 5, _, h => exact absurd (by decide +kernel) h
  | 6, _, h => exact absurd (by decide +kernel) h
  | 7, _, h => exact absurd (by decide +kernel) h
theorem test_flagLaw : FlagLaw (both .run) ∧ FlagLaw (unchecked tables) ∧ (both .run).ctl.draining = false := by
  refine ⟨fun h => absurd h (by decide), fun _ sd => ?_, rfl⟩
  cases sd <;> rfl
/-- A part in RUN whose lists hold one failure of a budget of two: the premises of the step lemmas. -/
def guarded : State := withDrive (live { sideIn .run with failures := [1] } (sideIn .probe)) [5, 5, 5, 0, 0, 0, 0, 0]
theorem test_guarded_laws :
    TablesLaw guarded ∧ FlagLaw guarded ∧ FailureLaw guarded ∧ (both .run).ctl.draining = false := by
  refine ⟨⟨fun _ => test_check_pass, fun h => absurd h (by decide)⟩, fun h => absurd h (by decide), fun sd => ?_, rfl⟩
  cases sd <;> exact ⟨by decide, fun _ _ => by decide +kernel⟩
theorem test_guarded_pumps : PumpLaw guarded ∧ PrereqLaw guarded ∧ LevelLaw guarded := by
  have lit : ∀ n, driveOf guarded.pdu n ≠ 0 → n < 3 := by
    intro n h
    match n, h with
    | 0, _ => decide
    | 1, _ => decide
    | 2, _ => decide
    | 3, h => exact absurd (by decide) h
    | 4, h => exact absurd (by decide) h
    | 5, h => exact absurd (by decide) h
    | 6, h => exact absurd (by decide) h
    | 7, h => exact absurd (by decide) h
    | n + 8, h => exact absurd (by unfold driveOf; rw [List.getD_eq_default]; exact Nat.le_add_left 8 n) h
  refine ⟨fun n h => ?_, fun n q h hq => ?_, fun sd => ?_⟩
  · match n, lit n h with
    | 0, _ => exact ⟨.west, Or.inl (by decide +kernel)⟩
    | 1, _ => exact ⟨.west, Or.inl (by decide +kernel)⟩
    | 2, _ => exact ⟨.east, Or.inr (by decide +kernel)⟩
  · match n, lit n h with
    | 0, _ => exact absurd hq (by rw [show (planOf guarded.tab 0).prereq = none by decide +kernel]; simp)
    | 1, _ =>
      have : q = 0 := by
        have e : (planOf guarded.tab 1).prereq = some 0 := by decide +kernel
        rw [e] at hq; exact (Option.some.inj hq).symm
      subst this; decide
    | 2, _ => exact absurd hq (by rw [show (planOf guarded.tab 2).prereq = none by decide +kernel]; simp)
  · cases sd <;> decide +kernel
/-- Section 2.1: tables in their shape before a command that writes one. -/
theorem test_tables_premises :
    let s := { both .dark with pending := [.entryWrite (req 19 [1, 0]) dflt] }
    TablesShaped s.tab.tables ∧ ∀ c rest, s.pending = c :: rest → c.wf = true :=
  ⟨test_tables_shaped, fun c rest h => by cases h; decide⟩
theorem test_laws_premises :
    StoreCanonical idle ∧ LatchLaw (withLatch (both .lockout)) ∧ (withLatch (both .lockout)).pdu.latch = true ∧
    ScoreLaw idle ∧ step idle = .next idle ∧ (HoldLaw onlyView ∧ onlyView.hold.view ≠ 0) := by
  refine ⟨rfl, ?_, rfl, ?_, rfl, ?_, by decide⟩
  · intro _ sd; left; cases sd <;> rfl
  · intro sd; cases sd <;> (constructor <;> decide)
  · intro _ sd; cases sd <;> rfl

end Sys2Proof.Tests
end

section
/-! Uptime (R1) at power-on, at pin reset, at the end of a second and at a route reset. -/

namespace Sys2Proof.Machine

/-! ### The Timer Base through the operations all commands share -/

/-- Whatever keeps the part that no side event changes keeps the Timer Base. -/
theorem time_of_still {s t : State} (h : still t = still s) : t.time = s.time := congrArg Still.time h

/-- What every command ends with keeps the Timer Base. -/
@[simp] theorem settle_time (s : State) : (settle s).time = s.time :=
  time_of_still (t := startIfWaiting s) (startIfWaiting_still s)

/-! ### Power-on and pin reset -/

/-- A page write that is cut off touches the store alone. -/
@[simp] theorem cutOff_choices (left : Residue) (s : State) : (cutOff left s).choices = s.choices := by
  unfold cutOff; split
  · rfl
  · split <;> rfl

@[simp] theorem resetState_choices (pins : PinLevels) (s : State) : (resetState pins s).choices = s.choices := rfl

/-- Where the tables are not validated, the clearing of the flag has nothing to do. -/
theorem clearFlag_of_not_validated {s : State} (h : s.tab.validated = false) : clearFlag s = s := by
  simp [clearFlag, h]

/-- Power-on or pin reset, its first loader read acknowledged: the reset state with that read under way, for
at a reset no validated tables are left whose flag the loader would clear. -/
theorem startUp_acknowledged (pins : PinLevels) (left : Residue) {s : State} (h : s.choices.acks.headD true = true) :
    startUp pins left s = setOp (.loading .powerUp .header .noneYet) (popAck (resetState pins (cutOff left s))) := by
  have hack : ackOf (setOp (.loading .powerUp .header .noneYet) (resetState pins (cutOff left s))) = true := by
    simpa [ackOf] using h
  unfold startUp loaderStart
  rw [clearFlag_of_not_validated rfl, beginRead, if_pos hack]
  rfl

/-- R25: the reset gives uptime 0. -/
theorem startUp_uptime (pins : PinLevels) (left : Residue) {s : State} (h : s.choices.acks.headD true = true) :
    (startUp pins left s).time.uptime = 0 := by
  rw [startUp_acknowledged pins left h]; rfl

/-- POWER_ON runs on the part with power, whether it had any before. -/
theorem exec_powerOn (pins : PinLevels) (left : Residue) (ch : Choices) (s : State) :
    exec (.powerOn pins left ch) s = .next (settle (startUp pins left (withChoices ch { s with powered := true }))) :=
  runWith_begins (s := { s with powered := true }) rfl ch (startUp pins left)

theorem exec_pinReset (pins : PinLevels) (left : Residue) (ch : Choices) {s : State} (h : s.powered = true) :
    exec (.pinReset pins left ch) s = .next (settle (startUp pins left (withChoices ch s))) :=
  runWith_begins h ch (startUp pins left)

/-! ### The end of a second -/

/-- Below the largest uptime a second adds 1, and every side has an uptime second to take. -/
theorem tickSecond_below {s : State} (h : s.time.uptime ≠ BitVec.allOnes 32) :
    tickSecond s =
      { s with time := { uptime := s.time.uptime + 1, second := ⟨true, true⟩ }, free := s.free + 1 } := by
  rw [tickSecond, if_neg h]

/-- Whatever the uptime, both sides are handed their uptime second (log 21). -/
@[simp] theorem tickSecond_second (s : State) : (tickSecond s).time.second = ⟨true, true⟩ := rfl

theorem exec_uptimeSecond {s : State} (h : s.powered = true) :
    exec .uptimeSecond s = .next (settle (tickSecond (begun s))) :=
  runWith_begins h Choices.default tickSecond

/-! ### Route reset -/

@[simp] theorem resetCut_still (sd : Side) (s : State) : still (resetCut sd s) = still s := by
  unfold resetCut; split <;> simp

@[simp] theorem resetSide_still (sd : Side) (s : State) : still (resetSide sd s) = still s := by
  unfold resetSide; dsimp only; split <;> simp

@[simp] theorem resetBlocks_time (s : State) : (resetBlocks s).time = s.time := rfl

/-- The route reset goes through the sides and the blocks without the Timer Base (R1), whether it is due or not. -/
@[simp] theorem routeResetNow_time (s : State) : (routeResetNow s).time = s.time := by
  unfold routeResetNow; split
  · have hcuts := fun u => time_of_still (bothSides_still resetCut resetCut_still u)
    have hsides := fun u => time_of_still (bothSides_still resetSide resetSide_still u)
    simp [hcuts, hsides]
  · rfl

theorem exec_routeReset (ch : Choices) {s : State} (h : s.powered = true) :
    exec (.routeReset ch) s = .next (settle (routeResetNow (withChoices ch s))) :=
  runWith_begins h ch routeResetNow

/-! ### The obligation -/

/-- Settles O8: each command by its equation above, read at the Timer Base, which the end of a command keeps. -/
theorem uptimeCountsSeconds : Obligations.UptimeCountsSeconds := by
  unfold Obligations.UptimeCountsSeconds
  refine ⟨fun pins left ch s hack => ?powerOn, fun pins left ch s hp hack => ?pinReset, fun s hp hmax => ?below,
    fun s hp => ?second, fun ch s hp => ?routeReset⟩
  case powerOn =>
    refine ⟨_, exec_powerOn pins left ch s, ?_⟩
    rw [settle_time]
    exact startUp_uptime pins left hack
  case pinReset =>
    refine ⟨_, exec_pinReset pins left ch hp, ?_⟩
    rw [settle_time]
    exact startUp_uptime pins left hack
  case below =>
    rw [exec_uptimeSecond hp, tickSecond_below (s := begun s) hmax]
    rfl
  case second => exact ⟨_, exec_uptimeSecond hp, by rw [settle_time, tickSecond_second]⟩
  case routeReset =>
    exact ⟨_, exec_routeReset ch hp, by rw [settle_time, routeResetNow_time, withChoices_time]⟩

end Sys2Proof.Machine
end

section
/-! The checks of an arrival (R2, R3, R5) and the discard of a route-end port (R23). -/

namespace Sys2Proof.Machine

/-! ### The expected neighbour (R5) -/

/-- The position straps give a position in 0..31. -/
theorem pos_lt (s : State) : pos s < 32 := s.position.isLt

/-- Which sender a port expects, without the subtraction: at position 0 the West port and at position 31 the
East port expect none. -/
theorem neighbourOf_eq_some {p : Nat} (hp : p < 32) (port : Side) (sender : Nat) :
    neighbourOf p port = some sender ↔
      (port = .west ∧ sender + 1 = p) ∨ (port = .east ∧ sender = p + 1 ∧ p < 31) := by
  cases port with
  | west =>
    have hwest : neighbourOf p .west = some sender ↔ ¬ p = 0 ∧ p - 1 = sender := by simp [neighbourOf]
    rw [hwest]
    simp only [true_and, reduceCtorEq, false_and, or_false]
    omega
  | east =>
    have heast : neighbourOf p .east = some sender ↔ ¬ p = 31 ∧ p + 1 = sender := by simp [neighbourOf]
    rw [heast]
    simp only [true_and, reduceCtorEq, false_and, false_or]
    omega

/-! ### The checks in their order -/

section
variable {p : Nat} {port : Side} {l : List Octet}

/-- R2: an arrival of another length fails before any octet of it is read. -/
theorem classify_wrong_length (hlen : l.length ≠ 80) : classify p port l = .corrupt := if_pos hlen

/-- R3: the check code. -/
theorem classify_wrong_code (hlen : l.length = 80) (hcrc : crc16 (l.take 78) ≠ word16At l 78) :
    classify p port l = .corrupt := by
  rw [classify, if_neg (not_not.mpr hlen), if_pos hcrc]

/-- R5: the format octet, on its own enough to make an arrival corrupt, whatever the check code. -/
theorem classify_wrong_format (hformat : octetAt l 0 ≠ 1) : classify p port l = .corrupt := by
  rw [classify, if_pos hformat, ite_self, ite_self]

/-- R5: what passes the other checks is judged by its sender alone. -/
theorem classify_well_formed (hlen : l.length = 80) (hcrc : crc16 (l.take 78) = word16At l 78)
    (hformat : octetAt l 0 = 1) :
    classify p port l = if neighbourOf p port = some (octetAt l 7).toNat then .valid else .neighbour := by
  rw [classify, if_neg (not_not.mpr hlen), if_neg (not_not.mpr hcrc), if_neg (not_not.mpr hformat)]

end

/-! ### ARRIVAL -/

theorem exec_arrival (port : Side) (octets : List Octet) (ch : Choices) {s : State} (h : s.powered = true) :
    exec (.arrival port octets ch) s = .next (settle (takeArrival port octets (withChoices ch s))) :=
  runWith_begins h ch (takeArrival port octets)

/-- R23: a route-end port discards an arrival unchecked. -/
theorem takeArrival_of_isAbsent {port : Side} {s : State} (h : isAbsent s port = true) (octets : List Octet) :
    takeArrival port octets s = s := if_pos h

/-! ### The obligation -/

/-- Settles O9: the discard by the equation of ARRIVAL, and each outcome by its equation of `classify`, the
expected neighbour read at a position in 0..31. -/
theorem arrivalChecks : Obligations.ArrivalChecks := by
  unfold Obligations.ArrivalChecks
  refine ⟨fun port octets ch s hp habsent => ?discard, fun s port l =>
    ⟨classify_wrong_length, classify_wrong_code, fun _ => classify_wrong_format,
      fun hlen hcrc hformat => ?sender⟩⟩
  case discard =>
    have hroute : isAbsent (withChoices ch s) port = true := by rw [withChoices_isAbsent, habsent]
    rw [exec_arrival port octets ch hp, takeArrival_of_isAbsent hroute]
  case sender =>
    rw [classify_well_formed hlen hcrc hformat]
    simp only [neighbourOf_eq_some (pos_lt s)]

end Sys2Proof.Machine
end

section
/-! The local port: octets that complete a message (R160), and the message judged case by case (R161). -/

namespace Sys2Proof.Machine

/-! ### Kinds (section 7.1) -/

/-- What is not a request is the empty kind, a notice or a response. -/
theorem isRequestKind_eq_false_iff (k : Octet) :
    isRequestKind k = false ↔ k = 0 ∨ isNoticeKind k = true ∨ isResponseKind k = true := by
  simp only [isRequestKind, Bool.and_eq_false_iff, Bool.not_eq_false', bne_eq_false_iff_eq, or_assoc]

/-! ### A message judged (R161) -/

theorem localMessage_of_not_request {m : Message} (hkind : isRequestKind m.kind = false) (s : State) :
    localMessage m s = onMsg (fun e => { e with framingErrors := satInc e.framingErrors }) s := if_pos hkind

/-- The judgments a request passes in turn: a destination outside the route, the own position, another position. -/
theorem localMessage_of_request {m : Message} (hkind : isRequestKind m.kind = true) (s : State) :
    localMessage m s =
      if 31 < m.dest.toNat then localAnswer m.kind m.tag .index s
      else if m.dest.toNat = pos s then handleRequest m.kind (taken s (requestOf .localPort m)) s
      else forwardLocal m s := by
  rw [localMessage, if_neg (ne_false_of_eq_true hkind)]

theorem localMessage_outside_route {m : Message} {s : State} (hkind : isRequestKind m.kind = true)
    (hdest : 31 < m.dest.toNat) : localMessage m s = localAnswer m.kind m.tag .index s := by
  rw [localMessage_of_request hkind, if_pos hdest]

/-- A request from the local port is handled with the own position as its source. -/
theorem taken_requestOf_localPort (s : State) (m : Message) : taken s (requestOf .localPort m) =
    { via := .localPort, source := posOctet s, tag := m.tag, len := m.len, body := m.body } := rfl

theorem localMessage_own_position {m : Message} {s : State} (hkind : isRequestKind m.kind = true)
    (hdest : m.dest.toNat = pos s) :
    localMessage m s = handleRequest m.kind
      { via := .localPort, source := posOctet s, tag := m.tag, len := m.len, body := m.body } s := by
  have hroute : ¬ 31 < m.dest.toNat := by have := pos_lt s; omega
  rw [localMessage_of_request hkind, if_neg hroute, if_pos hdest, taken_requestOf_localPort]

theorem localMessage_other_position {m : Message} {s : State} (hkind : isRequestKind m.kind = true)
    (hroute : m.dest.toNat ≤ 31) (hdest : m.dest.toNat ≠ pos s) : localMessage m s = forwardLocal m s := by
  rw [localMessage_of_request hkind, if_neg (Nat.not_lt.mpr hroute), if_neg hdest]

/-! ### A request for another position (R161 case 4) -/

/-- R158: at a queue with room a message joins the message class. -/
theorem joinMessage_of_room {e : MsgEngine} {sd : Side} (hroom : (e.out.get sd).size < 8) (v : Queued) :
    joinMessage sd v e =
      { e with out := e.out.set sd { e.out.get sd with messages := (e.out.get sd).messages ++ [v] } } := if_pos hroom

section
variable {m : Message} {s : State}

theorem forwardLocal_route_end (hend : isAbsent s (routeSide s m.dest) = true) :
    forwardLocal m s = localAnswer m.kind m.tag .index s := if_pos hend

theorem forwardLocal_full (hend : isAbsent s (routeSide s m.dest) = false)
    (hfull : 8 ≤ (s.msg.out.get (routeSide s m.dest)).size) :
    forwardLocal m s = localAnswer m.kind m.tag .queueFull s := by
  have hsize : ¬ (s.msg.out.get (routeSide s m.dest)).size < Config.outQueueSize := Nat.not_lt.mpr hfull
  rw [forwardLocal, if_neg (ne_true_of_eq_false hend), if_neg hsize]

theorem forwardLocal_joins (hend : isAbsent s (routeSide s m.dest) = false)
    (hroom : (s.msg.out.get (routeSide s m.dest)).size < 8) :
    forwardLocal m s = { s with msg := { s.msg with
      out := s.msg.out.set (routeSide s m.dest) { s.msg.out.get (routeSide s m.dest) with
        messages := (s.msg.out.get (routeSide s m.dest)).messages ++
          [{ msg := { m with source := posOctet s }, resetDone := false }] } } } := by
  have hsize : (s.msg.out.get (routeSide s m.dest)).size < Config.outQueueSize := hroom
  rw [forwardLocal, if_neg (ne_true_of_eq_false hend), if_pos hsize, onMsg, joinMessage_of_room hroom]

end

/-! ### LOCAL_FRAME_RECEIVED -/

theorem exec_localFrameReceived (octets : List Octet) (ch : Choices) {s : State} (h : s.powered = true) :
    exec (.localFrameReceived octets ch) s = .next (settle (takeOctets octets (withChoices ch s))) :=
  runWith_begins h ch (takeOctets octets)

/-- R160: a completed frame with a correct check is judged as a message. -/
theorem takeOctets_completed_message {octets frame : List Octet} {s u : State} (h : FrameCompleted octets frame s u)
    (hcheck : crc16 (frame.take 28) = word16At frame 28) :
    takeOctets octets s = localMessage (messageOf frame) u := by
  rw [takeOctets_completed h, if_pos hcheck]

/-! ### The obligation -/

/-- Settles O21: the completed frame by the law of the receiver, octets that go on by taking them in portions, and each
case of a message by its equation of `localMessage`, a request for another position by those of `forwardLocal`. -/
theorem localMessageJudged : Obligations.LocalMessageJudged := by
  unfold Obligations.LocalMessageJudged
  refine ⟨fun octets frame more ch s u hp hframe hcheck => ?completed, fun m u =>
    ⟨fun hkind => ?notRequest, localMessage_outside_route, localMessage_own_position,
      fun hkind hroute hdest => ?other⟩⟩
  case completed =>
    have hjudged := takeOctets_completed_message hframe hcheck
    exact ⟨by rw [exec_localFrameReceived octets ch hp, hjudged],
      by rw [exec_localFrameReceived (octets ++ more) ch hp, takeOctets_append, hjudged]⟩
  case notRequest => exact localMessage_of_not_request ((isRequestKind_eq_false_iff m.kind).mpr hkind) u
  case other =>
    rw [localMessage_other_position hkind hroute hdest]
    exact ⟨forwardLocal_route_end, forwardLocal_full, forwardLocal_joins⟩

end Sys2Proof.Machine
end

section
/-! The refusals the four side requests share (R173), and UNLOCK-ARM judged by the state of its side (R178). -/

namespace Sys2Proof.Machine

/-! ### The judgments of a side request (R173) -/

/-- A side octet above 1 names no side. -/
theorem sideOf_eq_none {o : Octet} (h : 1 < o.toNat) : sideOf o = none := by
  have hwest : o ≠ 0 := by rintro rfl; simp at h
  have heast : o ≠ 1 := by rintro rfl; simp at h
  rw [sideOf, if_neg hwest, if_neg heast]

theorem isAbsent_eq_true_iff (s : State) (sd : Side) : isAbsent s sd = true ↔ stateOf s sd = .absent := beq_iff_eq

section
variable {s : State} {req : Request} {kind len : Octet}

theorem sideRequest_wrong_length (h : Accepted s req) (hlen : req.len ≠ len) (ch : Choices)
    (rule : Side → State → State) :
    sideRequest kind len (taken s req) rule (withChoices ch s) = answer kind req [4] (withChoices ch s) := by
  have hlen' : (taken s req).len ≠ len := by rwa [taken_len]
  rw [sideRequest, judgeModifying_accepted h, if_pos hlen']
  exact reply_taken kind req _ s _ rfl

theorem sideRequest_no_side (h : Accepted s req) (hlen : req.len = len) (hoctet : 1 < (octetAt req.body 0).toNat)
    (ch : Choices) (rule : Side → State → State) :
    sideRequest kind len (taken s req) rule (withChoices ch s) =
      answer kind req [3, octetAt req.body 0, 0] (withChoices ch s) := by
  have hlen' : ¬ (taken s req).len ≠ len := by rwa [taken_len, not_not]
  rw [sideRequest, judgeModifying_accepted h, if_neg hlen', taken_body, sideOf_eq_none hoctet, sideRefusal_taken]
  exact reply_taken kind req _ s _ rfl

theorem sideRequest_absent {sd : Side} (h : Accepted s req) (hlen : req.len = len)
    (hoctet : octetAt req.body 0 = sideOctet sd) (habsent : isAbsent s sd = true) (ch : Choices)
    (rule : Side → State → State) :
    sideRequest kind len (taken s req) rule (withChoices ch s) =
      answer kind req [3, sideOctet sd, 1] (withChoices ch s) := by
  have hlen' : ¬ (taken s req).len ≠ len := by rwa [taken_len, not_not]
  have hstate : stateOf (withChoices ch s) sd = .absent := (isAbsent_eq_true_iff s sd).mp habsent
  have hbody : sideRefusal req .index (stateOf (withChoices ch s) sd).code = [3, sideOctet sd, 1] := by
    rw [sideRefusal, hoctet, hstate]; rfl
  rw [sideRequest, judgeModifying_accepted h, if_neg hlen', taken_body, hoctet, sideOf_sideOctet]
  dsimp only
  rw [withChoices_isAbsent, if_pos habsent, sideRefusal_taken, hbody]
  exact reply_taken kind req _ s _ rfl

/-- R173: whatever rule a side request runs, its command has the refusals that come before the rule. -/
theorem sideRefusals_of_sideRequest {c : Instr} {rule : Side → State → State} (h : Accepted s req)
    (hc : exec c s = .next (settle (sideRequest kind len (taken s req) rule (withChoices (choicesOf c) s)))) :
    SideRefusals kind len c req s := by
  refine ⟨fun hlen => ?length, fun hlen hoctet => ?noSide, fun sd hlen hoctet habsent => ?absent⟩
  case length => rw [hc, sideRequest_wrong_length h hlen]
  case noSide => rw [hc, sideRequest_no_side h hlen hoctet]
  case absent => rw [hc, sideRequest_absent h hlen hoctet habsent]

end

/-! ### UNLOCK-ARM at a side that exists (R178) -/

/-- The rule that UNLOCK-ARM runs once R173 has named the side. -/
def judgeArming (r : Request) (sd : Side) (s : State) : State :=
  if stateOf s sd ≠ .lockout then reply 11 r (sideRefusal r .state (stateOf s sd).code) s
  else if (s.side.get sd).lock.reason = .cut then reply 11 r (sideRefusal r .cutLatched (stateOf s sd).code) s
  else
    reply 11 r ([Status.done.code, sideOctet sd] ++ octets16 (s.side.get sd).lock.count ++ [10])
      (armSide r.source sd s)

theorem reqUnlockArm_eq (r : Request) : reqUnlockArm r = sideRequest 11 1 r (judgeArming r) := rfl

theorem exec_unlockArm (req : Request) {s : State} (h : s.powered = true) :
    exec (.unlockArm req) s = .next (settle (sideRequest 11 1 (taken s req) (judgeArming (taken s req)) (begun s))) := by
  rw [← reqUnlockArm_eq]
  exact exec_handles (c := .unlockArm req) (kind := 11) h (Or.inl rfl)

/-- An accepted UNLOCK-ARM about a side that exists comes to R178. -/
theorem exec_unlockArm_accepted {s : State} {req : Request} {sd : Side} (h : Accepted s req) (hlen : req.len = 1)
    (hoctet : octetAt req.body 0 = sideOctet sd) (hpresent : isAbsent s sd = false) :
    exec (.unlockArm req) s = .next (settle (judgeArming (taken s req) sd (begun s))) := by
  rw [exec_unlockArm req h.1, begun, sideRequest_accepted h hlen hoctet hpresent]

section
variable {s : State} {req : Request} {sd : Side}

theorem judgeArming_not_lockout (hoctet : octetAt req.body 0 = sideOctet sd) (hstate : stateOf s sd ≠ .lockout) :
    judgeArming (taken s req) sd (begun s) =
      answer 11 req [2, sideOctet sd, (stateOf s sd).code] (begun s) := by
  have hstate' : stateOf (begun s) sd ≠ .lockout := hstate
  rw [judgeArming, if_pos hstate', sideRefusal_taken, sideRefusal, hoctet]
  exact reply_taken 11 req _ s _ rfl

theorem judgeArming_cut (hoctet : octetAt req.body 0 = sideOctet sd) (hstate : stateOf s sd = .lockout)
    (hreason : (s.side.get sd).lock.reason = .cut) :
    judgeArming (taken s req) sd (begun s) = answer 11 req [7, sideOctet sd, 3] (begun s) := by
  have hstate' : stateOf (begun s) sd = .lockout := hstate
  have hreason' : ((begun s).side.get sd).lock.reason = .cut := hreason
  rw [judgeArming, if_neg (not_not.mpr hstate'), if_pos hreason', sideRefusal_taken, sideRefusal, hoctet, hstate']
  exact reply_taken 11 req _ s _ rfl

/-- The arming replaces the one before it and touches nothing else. -/
theorem judgeArming_arms (hstate : stateOf s sd = .lockout) (hreason : (s.side.get sd).lock.reason ≠ .cut) :
    judgeArming (taken s req) sd (begun s) = answer 11 req
      ([0, sideOctet sd] ++ octets16 (s.side.get sd).lock.count ++ [10])
      { begun s with side := s.side.set sd { s.side.get sd with lock := { (s.side.get sd).lock with
          arming := some { number := (s.side.get sd).lock.count, source := (taken s req).source,
                           since := s.time.uptime } } } } := by
  have hstate' : stateOf (begun s) sd = .lockout := hstate
  have hreason' : ((begun s).side.get sd).lock.reason ≠ .cut := hreason
  rw [judgeArming, if_neg (not_not.mpr hstate'), if_neg hreason']
  exact reply_taken 11 req _ s _ rfl

end

/-! ### The obligation -/

/-- Settles O35: the refusals by those of every side request, and at a side that exists each case of R178 by its
equation of `judgeArming`. -/
theorem unlockArmRecordsArming : Obligations.UnlockArmRecordsArming := by
  unfold Obligations.UnlockArmRecordsArming
  intro sd req s hacc
  refine ⟨sideRefusals_of_sideRequest hacc (exec_unlockArm req hacc.1), fun hlen hoctet hpresent => ?_⟩
  rw [exec_unlockArm_accepted hacc hlen hoctet hpresent]
  refine ⟨fun hstate => ?state, fun hstate hreason => ?cut, fun hstate hreason => ?armed⟩
  case state => rw [judgeArming_not_lockout hoctet hstate]
  case cut => rw [judgeArming_cut hoctet hstate hreason]
  case armed => rw [judgeArming_arms hstate hreason]

end Sys2Proof.Machine
end

section
/-! What a step can do to the parts that the laws of the device speak of. A change that no law reads is a `LawFrame`; every
other change is one of the atoms of `Move`, and a `Path` is a run of them. What each operation does is said once, as
the path it takes, and each law is then a case analysis over the atoms. -/

namespace Sys2Proof.Machine

/-! ### Laws of one block -/

/-- No side is active. -/
def NoneActive (s : State) : Prop := ∀ sd, (stateOf s sd).active = false

/-- Both outbound queues keep their law. -/
def QueuesKept (m m' : MsgEngine) : Prop := (∀ sd, QueueLaw (m.out.get sd)) → ∀ sd, QueueLaw (m'.out.get sd)

/-- The laws of one block each: the store, the ports, the outbound queues, the record queue. -/
structure BlocksKept (s t : State) : Prop where
  store : StoreCanonical s → StoreCanonical t
  score : ScoreLaw s → ScoreLaw t
  queues : QueuesKept s.msg t.msg
  records : RecordQueueLaw s.ctl → RecordQueueLaw t.ctl

theorem BlocksKept.refl (s : State) : BlocksKept s s := ⟨id, id, id, id⟩

theorem BlocksKept.trans {s t u : State} (h : BlocksKept s t) (k : BlocksKept t u) : BlocksKept s u :=
  ⟨k.store ∘ h.store, k.score ∘ h.score, k.queues ∘ h.queues, k.records ∘ h.records⟩

/-- The four blocks are as they were. -/
theorem BlocksKept.of_eq {s t : State} (h1 : t.store = s.store) (h2 : t.ports = s.ports) (h3 : t.msg = s.msg)
    (h4 : t.ctl = s.ctl) : BlocksKept s t := by
  refine ⟨fun h => ?_, fun h => ?_, fun h => ?_, fun h => ?_⟩
  · unfold StoreCanonical at *; rwa [h1]
  · unfold ScoreLaw at *; rwa [h2]
  · rwa [h3]
  · rwa [h4]

/-! ### Frames -/

/-- A change that the laws of sides, pumps and tables do not read, and under which the blocks keep theirs: every side
in its state, no failure added, every drive, the latch, the tables, the view and the position as they were. -/
structure LawFrame (s t : State) : Prop extends BlocksKept s t where
  position : t.position = s.position
  tab : t.tab = s.tab
  view : t.hold.view = s.hold.view
  drive : t.pdu.drive = s.pdu.drive
  latch : t.pdu.latch = s.pdu.latch
  state : ∀ sd, stateOf t sd = stateOf s sd
  failures : ∀ sd, (t.side.get sd).failures.length ≤ (s.side.get sd).failures.length

/-- A frame under which the Store Controller does not come to LOADING. -/
structure Calm (s t : State) : Prop extends LawFrame s t where
  loading : t.ctl.op.isLoading = true → s.ctl.op.isLoading = true

theorem Calm.refl (s : State) : Calm s s :=
  ⟨⟨BlocksKept.refl s, rfl, rfl, rfl, rfl, rfl, fun _ => rfl, fun _ => Nat.le_refl _⟩, id⟩

theorem Calm.trans {s t u : State} (h : Calm s t) (k : Calm t u) : Calm s u :=
  { toLawFrame :=
      { toBlocksKept := h.toBlocksKept.trans k.toBlocksKept
        position := k.position.trans h.position
        tab := k.tab.trans h.tab
        view := k.view.trans h.view
        drive := k.drive.trans h.drive
        latch := k.latch.trans h.latch
        state := fun sd => (k.state sd).trans (h.state sd)
        failures := fun sd => (k.failures sd).trans (h.failures sd) }
    loading := fun x => h.loading (k.loading x) }

/-- What keeps everything that no side event changes, and the sides and pumps beside, is a frame where the queues of
messages and records keep their laws. -/
theorem Calm.of_still {s t : State} (h : still t = still s) (hs : t.side = s.side) (hp : t.pdu.drive = s.pdu.drive)
    (hm : QueuesKept s.msg t.msg) (hr : RecordQueueLaw s.ctl → RecordQueueLaw t.ctl)
    (hl : t.ctl.op.isLoading = true → s.ctl.op.isLoading = true) : Calm s t := by
  obtain ⟨-, hpos, -, -, hports, -, htab, -, hhold, -, hstore, -, -, hlatch, -⟩ := still_fields h
  refine ⟨⟨⟨?_, ?_, hm, hr⟩, hpos, htab, by rw [hhold], hp, hlatch, ?_, ?_⟩, hl⟩
  · unfold StoreCanonical; rw [hstore]; exact id
  · unfold ScoreLaw; rw [hports]; exact id
  · intro sd; unfold stateOf; rw [hs]
  · intro sd; rw [hs]

/-- A change of one side's record that leaves its state and adds no failure. -/
theorem setSide_calm {sd : Side} {r : SideRecord} {s : State} (h1 : r.state = (s.side.get sd).state)
    (h2 : r.failures.length ≤ (s.side.get sd).failures.length) : Calm s (setSide sd r s) := by
  refine ⟨⟨BlocksKept.of_eq rfl rfl rfl rfl, rfl, rfl, rfl, rfl, rfl, fun x => ?_, fun x => ?_⟩, id⟩
  · unfold stateOf
    by_cases hx : x = sd
    · subst hx; rw [setSide_side, Sides.get_set, h1]
    · rw [setSide_side, Sides.get_set_ne _ _ _ _ hx]
  · by_cases hx : x = sd
    · subst hx; rw [setSide_side, Sides.get_set]; exact h2
    · rw [setSide_side, Sides.get_set_ne _ _ _ _ hx]

/-- The same for a change by a function. -/
theorem modSide_calm {sd : Side} {f : SideRecord → SideRecord} {s : State}
    (h1 : (f (s.side.get sd)).state = (s.side.get sd).state)
    (h2 : (f (s.side.get sd)).failures.length ≤ (s.side.get sd).failures.length) : Calm s (modSide sd f s) :=
  setSide_calm h1 h2

/-- A change of the Pump Drive Unit that leaves the drives and the latch. -/
theorem onPdu_calm {f : PumpUnit → PumpUnit} {s : State} (h1 : (f s.pdu).drive = s.pdu.drive)
    (h2 : (f s.pdu).latch = s.pdu.latch) : Calm s (onPdu f s) :=
  ⟨⟨BlocksKept.of_eq rfl rfl rfl rfl, rfl, rfl, rfl, h1, h2, fun _ => rfl, fun _ => Nat.le_refl _⟩, id⟩

/-- A change of the Message Engine that keeps the law of its queues. -/
theorem onMsg_calm {f : MsgEngine → MsgEngine} {s : State} (h : QueuesKept s.msg (f s.msg)) : Calm s (onMsg f s) :=
  ⟨⟨⟨id, id, h, id⟩, rfl, rfl, rfl, rfl, rfl, fun _ => rfl, fun _ => Nat.le_refl _⟩, id⟩

/-- A change of the Store Controller that keeps the law of its queue and does not come to LOADING. -/
theorem onCtl_calm {f : StoreCtl → StoreCtl} {s : State} (h : RecordQueueLaw s.ctl → RecordQueueLaw (f s.ctl))
    (hl : (f s.ctl).op.isLoading = true → s.ctl.op.isLoading = true) : Calm s (onCtl f s) :=
  ⟨⟨⟨id, id, id, h⟩, rfl, rfl, rfl, rfl, rfl, fun _ => rfl, fun _ => Nat.le_refl _⟩, hl⟩

/-- An operation set to anything but a loader run. -/
theorem setOp_calm {op : StoreOp} {s : State} (h : op.isLoading = true → s.ctl.op.isLoading = true) :
    Calm s (setOp op s) := onCtl_calm id h

/-- A change of fields that no law reads. -/
theorem Calm.of_fields {s t : State} (h1 : t.position = s.position) (h2 : t.tab = s.tab) (h3 : t.hold.view = s.hold.view)
    (h4 : t.pdu = s.pdu) (h5 : t.side = s.side) (h6 : t.store = s.store) (h7 : t.ports = s.ports) (h8 : t.msg = s.msg)
    (h9 : t.ctl = s.ctl) : Calm s t := by
  refine ⟨⟨BlocksKept.of_eq h6 h7 h8 h9, h1, h2, h3, by rw [h4], by rw [h4], fun _ => ?_, fun _ => ?_⟩, ?_⟩
  · unfold stateOf; rw [h5]
  · rw [h5]
  · rw [h9]; exact id

theorem popAck_calm (s : State) : Calm s (popAck s) := Calm.of_fields rfl rfl rfl rfl rfl rfl rfl rfl rfl
theorem nextFree_calm (s : State) : Calm s (nextFree s) := Calm.of_fields rfl rfl rfl rfl rfl rfl rfl rfl rfl
theorem withChoices_calm (ch : Choices) (s : State) : Calm s (withChoices ch s) :=
  Calm.of_fields rfl rfl rfl rfl rfl rfl rfl rfl rfl
theorem modTx_calm (sd : Side) (f : Transmitter → Transmitter) (s : State) : Calm s (modTx sd f s) :=
  Calm.of_fields rfl rfl rfl rfl rfl rfl rfl rfl rfl

/-! ### Messages -/

theorem QueuesKept.of_out {m m' : MsgEngine} (h : m'.out = m.out) : QueuesKept m m' := by
  intro hq; rwa [h]

theorem QueuesKept.trans {m m' m'' : MsgEngine} (h : QueuesKept m m') (k : QueuesKept m' m'') : QueuesKept m m'' := k ∘ h

theorem discardMessage_queues (v : Queued) (m : MsgEngine) : QueuesKept m (discardMessage v m) :=
  QueuesKept.of_out (releaseReset_out v _)

theorem joinMessage_queues (sd : Side) (v : Queued) (m : MsgEngine) : QueuesKept m (joinMessage sd v m) :=
  joinMessage_law v

theorem deliver_out (v : Queued) (m : MsgEngine) : (deliver v m).out = m.out := by
  unfold deliver; split
  · rfl
  · exact releaseReset_out v _

theorem deliver_queues (v : Queued) (m : MsgEngine) : QueuesKept m (deliver v m) := QueuesKept.of_out (deliver_out v m)

theorem joinNotice_queues {n : Message} (hn : OwnNotice n) (sd : Side) (m : MsgEngine) :
    QueuesKept m (joinNotice n sd m) := by
  intro h x
  obtain ⟨hlaw, -, hother⟩ := joinNotice_law (h sd) hn
  by_cases hx : x = sd
  · rw [hx]; exact hlaw
  · have hx' : x = sd.other := by cases x <;> cases sd <;> simp_all [Side.other]
    rw [hx', hother]; exact h sd.other

theorem postNotice_queues (w e : Bool) {n : Message} (hn : OwnNotice n) (m : MsgEngine) :
    QueuesKept m (postNotice w e n m) := by
  have hjoin : ∀ (b : Bool) (sd : Side) (m : MsgEngine), QueuesKept m (if b then m else joinNotice n sd m) := by
    intro b sd m
    cases b
    · exact joinNotice_queues hn sd m
    · exact id
  intro hq
  unfold postNotice
  rw [deliver_out]
  exact hjoin e .east _ (hjoin w .west m hq)

theorem foldl_discard_out (l : List Queued) (m : MsgEngine) :
    (l.foldl (fun m v => discardMessage v m) m).out = m.out := by
  induction l generalizing m with
  | nil => rfl
  | cons v l ih => rw [List.foldl_cons, ih, discardMessage, releaseReset_out]

theorem queueLaw_empty : QueueLaw ⟨[], []⟩ := ⟨by decide, List.Pairwise.nil, by simp⟩

theorem emptyQueue_queues (sd : Side) (m : MsgEngine) : QueuesKept m (emptyQueue sd m) := by
  intro h x
  rw [emptyQueue, foldl_discard_out]
  by_cases hx : x = sd
  · rw [hx, Sides.get_set]; exact queueLaw_empty
  · rw [Sides.get_set_ne _ _ _ _ hx]; exact h x

theorem queueLaw_tail {q : OutQueue} (h : QueueLaw q) : QueueLaw (queueTail q) := by
  obtain ⟨hsize, hpair, hown⟩ := h
  unfold queueTail; split
  · rename_i n rest hn
    rw [OutQueue.size, hn] at hsize
    rw [hn] at hpair hown
    refine ⟨?_, hpair.of_cons, fun a ha => hown a (List.mem_cons_of_mem n ha)⟩
    simp only [OutQueue.size, List.length_cons] at *; omega
  · refine ⟨?_, hpair, hown⟩
    simp only [OutQueue.size, List.length_tail] at *; omega

theorem afterInsert_queues (tx : Side) (q : Option Queued) (m : MsgEngine) : QueuesKept m (afterInsert tx q m) := by
  intro h x
  unfold afterInsert; split
  · rw [releaseReset_out]
    by_cases hx : x = tx
    · rw [hx, Sides.get_set]; exact queueLaw_tail (h tx)
    · rw [Sides.get_set_ne _ _ _ _ hx]; exact h x
  · exact h x

theorem routeResponse_calm (v : Queued) (s : State) : Calm s (routeResponse v s) := by
  unfold routeResponse; split
  · exact onMsg_calm (discardMessage_queues v _)
  · split
    · exact onMsg_calm (deliver_queues v _)
    · split
      · exact onMsg_calm (discardMessage_queues v _)
      · exact onMsg_calm (joinMessage_queues _ v _)

theorem respond_calm (k d t : Octet) (b : List Octet) (s : State) : Calm s (respond k d t b s) := routeResponse_calm _ s

theorem sendNotice_calm {k c : Octet} (h : k = 115 ∨ c = 0 ∨ c = 1) (p : Octet) (x : Cause) (e : SideState) (s : State) :
    Calm s (sendNotice k c p x e s) := by
  refine onMsg_calm (postNotice_queues _ _ ?_ _)
  exact h

theorem sideNotice_calm (k : Octet) (sd : Side) (x : Cause) (e : SideState) (s : State) :
    Calm s (sideNotice k sd x e s) :=
  sendNotice_calm (Or.inr (by cases sd; exacts [Or.inl rfl, Or.inr rfl])) _ _ _ _

/-! ### Records -/

theorem recordQueueLaw_tail {c : StoreCtl} {r : StoreRecord} {q : List StoreRecord} (hq : c.queue = r :: q)
    (h : RecordQueueLaw c) : RecordQueueLaw { c with queue := q } := by
  obtain ⟨hlen, hone, hlost⟩ := h
  rw [hq] at hlen hone
  refine ⟨?_, fun sd => ?_, hlost⟩
  · simp only [List.length_cons] at hlen; dsimp only; omega
  · exact ((List.sublist_cons_self r q).filter _).length_le.trans (hone sd)

theorem satInc_le (n : Nat) : satInc n ≤ 65535 := Nat.min_le_left _ _

theorem faultRecord_law (r : StoreRecord) {c : StoreCtl} (h : RecordQueueLaw c) : RecordQueueLaw (faultRecord r c) := by
  obtain ⟨hlen, hone, -⟩ := h
  cases r <;> exact ⟨hlen, hone, satInc_le _⟩

theorem completeRecord_law (r : StoreRecord) {c : StoreCtl} (h : RecordQueueLaw c) : RecordQueueLaw (completeRecord r c) := by
  obtain ⟨hlen, hone, hlost⟩ := h
  cases r <;> exact ⟨hlen, hone, hlost⟩

theorem faultRecord_queue (r : StoreRecord) (c : StoreCtl) : (faultRecord r c).queue = c.queue := by cases r <;> rfl
theorem faultRecord_op (r : StoreRecord) (c : StoreCtl) : (faultRecord r c).op = c.op := by cases r <;> rfl
theorem completeRecord_queue (r : StoreRecord) (c : StoreCtl) : (completeRecord r c).queue = c.queue := by cases r <;> rfl
theorem completeRecord_op (r : StoreRecord) (c : StoreCtl) : (completeRecord r c).op = c.op := by cases r <;> rfl

theorem failCommit_calm (who : Requester) (k : Nat) (s : State) : Calm s (failCommit who k s) :=
  (onCtl_calm id Bool.noConfusion).trans (respond_calm _ _ _ _ _)

theorem finishCommit_calm (who : Requester) (s : State) : Calm s (finishCommit who s) :=
  (onCtl_calm id Bool.noConfusion).trans (respond_calm _ _ _ _ _)

theorem beginCommitPage_calm (who : Requester) (k : Nat) (s : State) : Calm s (beginCommitPage who k s) := by
  unfold beginCommitPage; split
  · exact (popAck_calm s).trans (setOp_calm Bool.noConfusion)
  · exact (popAck_calm s).trans (failCommit_calm _ _ _)

theorem recordsDone_calm (s : State) : Calm s (recordsDone s) := by
  unfold recordsDone; split
  case h_1 => exact beginCommitPage_calm _ _ _
  case h_2 => refine setOp_calm ?_; split <;> nofun
  all_goals exact Calm.refl s

theorem withRecord_not_loading (w : RecordWrite) (op : StoreOp) : (withRecord w op).isLoading = false := by
  cases op <;> rfl

/-- A Store Controller that goes on with its queue. -/
theorem startRecords_calm {l : List StoreRecord} {s : State} (h : s.ctl.queue = l) : Calm s (startRecords l s) := by
  induction l generalizing s with
  | nil =>
    refine (onCtl_calm (f := fun c => { c with queue := [] }) (fun hlaw => ?_) id).trans (recordsDone_calm _)
    exact ⟨Nat.zero_le 4, fun sd => Nat.zero_le 1, hlaw.2.2⟩
  | cons r q ih =>
    unfold startRecords; split
    · refine (onCtl_calm (fun hlaw => ?_) fun hload => ?_).trans (popAck_calm _)
      · exact recordQueueLaw_tail h hlaw
      · rw [show (_ : StoreCtl).op = withRecord ⟨r, recordWrite s r⟩ s.ctl.op from rfl, withRecord_not_loading] at hload
        exact absurd hload Bool.false_ne_true
    · have hlost : Calm s (popAck (onCtl (fun c => { faultRecord r c with queue := q }) s)) := by
        refine (onCtl_calm (fun hlaw => ?_) fun hload => ?_).trans (popAck_calm _)
        · exact recordQueueLaw_tail ((faultRecord_queue r _).trans h) (faultRecord_law r hlaw)
        · rwa [← faultRecord_op r s.ctl]
      exact hlost.trans (ih rfl)

theorem startIfWaiting_calm (s : State) : Calm s (startIfWaiting s) := by
  unfold startIfWaiting; split
  · exact Calm.refl s
  · split
    case h_1 => exact (setOp_calm Bool.noConfusion).trans (startRecords_calm rfl)
    case h_2 => exact startRecords_calm rfl
    all_goals exact Calm.refl s

theorem queueRecord_calm (r : StoreRecord) (s : State) : Calm s (queueRecord r s) := by
  have hjoin : Calm s (onCtl (joinRecord r) s) :=
    onCtl_calm (joinRecord_law r s.ctl) (by rw [joinRecord_op]; exact id)
  unfold queueRecord; dsimp only; split
  · exact hjoin
  · exact hjoin.trans (startIfWaiting_calm _)

theorem settle_calm (s : State) : Calm s (settle s) :=
  (startIfWaiting_calm s).trans (Calm.of_fields rfl rfl rfl rfl rfl rfl rfl rfl rfl)

end Sys2Proof.Machine
end

section
/-! The atoms that the laws of sides, pumps and tables read, and the paths that the moves of a side take (chapters 3
to 5 and 8). -/

namespace Sys2Proof.Machine

/-! ### Atoms -/

/-- What a path may assume of the state or the command it starts from, and which of the atoms that break a law for a
moment it may take apart: the view between its recomputation and the sides' events (R140), the latch between the cut
and the sides' lockouts (R129), LOADING while a loader run clears and sets the flag (R186). -/
structure Premises where
  rested : Prop
  wellFormed : Prop
  lawful : Prop
  viewFree : Prop
  latchFree : Prop
  loadFree : Prop

/-- A side leaves the active states, or moves among the others, into this record: under the latch a side that is
down stays down, and its failure list grows by a counted failure of an active side alone, below the budget unless
the side is locked out. -/
structure Retires (sd : Side) (r : SideRecord) (s : State) : Prop where
  inactive : r.state.active = false
  down : s.pdu.latch = true → SideDown s sd → r.state = .lockout ∨ r.state = .absent
  failures :
    (r.failures.length ≤ (s.side.get sd).failures.length ∧
      (stateOf s sd = .lockout → r.state ≠ .lockout → r.failures = [])) ∨
    ((stateOf s sd).active = true ∧ r.failures.length = (s.side.get sd).failures.length + 1 ∧
      (r.state ≠ .lockout → r.failures.length < hdrBudget s.tab.tables))

/-- The next active state on the way up, and STEPDOWN after RUN. -/
def SideState.leadsTo : SideState → SideState → Bool
  | .listen, .probe => true
  | .probe, .ramp => true
  | .ramp, .run => true
  | .run, .stepdown => true
  | _, _ => false

/-- New working tables while no side is active, both failure lists trimmed for their budget. -/
structure Retabled (X : Premises) (m : TableMem) (p : Sides SideRecord) (s : State) : Prop where
  rests : NoneActive s
  state : ∀ sd, (p.get sd).state = stateOf s sd
  failures : ∀ sd, (p.get sd).failures.length ≤ (s.side.get sd).failures.length
  budget : hdrBudget m.tables = hdrBudget s.tab.tables ∨
    ∀ sd, stateOf s sd ≠ .lockout → hdrBudget m.tables ≠ 0 → (p.get sd).failures.length < hdrBudget m.tables
  flag : m.validated = true → s.tab.validated = true
  checks : X.lawful → m.validated = true → runChecks (pos s) m.tables = none
  shaped : X.wellFormed → TablesShaped s.tab.tables → TablesShaped m.tables

/-- The atoms of every step. -/
inductive Move (X : Premises) : State → State → Prop
  | frame {s t : State} (h : LawFrame s t)
      (hl : X.loadFree ∨ (t.ctl.op.isLoading = true → s.ctl.op.isLoading = true)) : Move X s t
  | retire {s : State} {sd : Side} {r : SideRecord} (h : Retires sd r s)
      (hd : (stateOf s sd).lights = true → ∀ n ∈ pumpsUp s.tab sd, driveOf s.pdu n = 0) : Move X s (setSide sd r s)
  | exit {s : State} {sd : Side} {r : SideRecord} (h : Retires sd r s) : Move X s (immediateCut sd (setSide sd r s))
  | listen {s : State} {sd : Side} {r : SideRecord} (h : stateOf s sd = .dark) (hr : r.state = .listen)
      (hf : r.failures = (s.side.get sd).failures) (hv : s.tab.validated = true) (hh : s.hold.view = 0) :
      Move X s (setSide sd r s)
  | advance {s : State} {sd : Side} {r : SideRecord} (h : (stateOf s sd).leadsTo r.state = true)
      (hf : r.failures = (s.side.get sd).failures) : Move X s (setSide sd r s)
  | backOff {s : State} {sd : Side} {r : SideRecord} (h : stateOf s sd = .probe) (hr : r.state = .listen)
      (hf : r.failures = (s.side.get sd).failures) : Move X s (zeroCommand sd (setSide sd r s))
  | zero {s : State} (n : Nat) : Move X s (onPdu (zeroPump s.tab n) s)
  | raise {s : State} {sd : Side} {n : Nat} {level : Word16} (h : n ∈ pumpsUp s.tab sd)
      (hl : (stateOf s sd = .ramp ∧ level = (planOf s.tab n).full) ∨
        (stateOf s sd = .probe ∧ n ∈ probeLit s.tab sd ∧ level = (planOf s.tab n).probe)) :
      Move X s (onPdu (raisePump s.tab true n level) s)
  | hold {s : State} (u : HoldUnit)
      (hv : X.viewFree ∨ (u.view ≠ 0 → s.hold.view ≠ 0 ∨ NoneActive s)) : Move X s { s with hold := u }
  | recompute {s : State} (h : ¬ X.viewFree) : Move X s (recomputeView s)
  | latch {s : State} (h : X.latchFree) : Move X s (onPdu PumpUnit.cut s)
  | extinct {s : State} (n : Nat) (h : ¬ X.latchFree) : Move X s (extinctionFault n s)
  | unflag {s : State} (h : X.rested → NoneActive s) (hd : ∀ n, n < 8 → driveOf s.pdu n = 0) :
      Move X s { s with tab := { s.tab with validated := false } }
  | flag {s : State} (hv : s.tab.validated = false) (hc : runChecks (pos s) s.tab.tables = none)
      (hl : X.loadFree ∨ s.ctl.op.isLoading = false) : Move X s { s with tab := { s.tab with validated := true } }
  | retable {s : State} {m : TableMem} {p : Sides SideRecord} (h : Retabled X m p s) :
      Move X s { s with tab := m, side := p }
  | restart {s : State} (pins : PinLevels) : Move X s (resetState pins s)
  | loaderStart {s : State} (origin : LoaderOrigin) (h : ¬ X.loadFree) (hr : X.rested → NoneActive s) :
      Move X s (Machine.loaderStart origin s)
  | loaderEnd {s : State} (origin : LoaderOrigin) (result : LoaderResult) (read : Bool) (h : ¬ X.loadFree)
      (hv : X.lawful → s.tab.validated = false) : Move X s (Machine.loaderEnd origin result read s)

/-- A run of atoms. -/
def Path (X : Premises) : State → State → Prop := Relation.ReflTransGen (Move X)

section
variable {X : Premises} {s t u : State} {sd : Side}

theorem Path.refl : Path X s s := Relation.ReflTransGen.refl
theorem Path.single (h : Move X s t) : Path X s t := Relation.ReflTransGen.single h
theorem Path.trans (h : Path X s t) (k : Path X t u) : Path X s u := Relation.ReflTransGen.trans h k
theorem Path.calm (h : Calm s t) : Path X s t := .single (.frame h.toLawFrame (Or.inr h.loading))

/-- A run after a change that no law reads. -/
theorem Path.after (h : Path X u t) (hc : Calm s u) : Path X s t := .trans (.calm hc) h

/-- A run is kept by what each atom keeps. -/
theorem Path.keeps {I : State → Prop} (hI : ∀ s t, Move X s t → I s → I t) (h : Path X s t) (hs : I s) : I t := by
  induction h with
  | refl => exact hs
  | tail _ hmove ih => exact hI _ _ hmove ih

theorem modSide_path {f : SideRecord → SideRecord} (h1 : (f (s.side.get sd)).state = (s.side.get sd).state)
    (h2 : (f (s.side.get sd)).failures.length ≤ (s.side.get sd).failures.length) : Path X s (modSide sd f s) :=
  .calm (modSide_calm h1 h2)

/-! ### Pump commands -/

theorem zeroPumps_path (l : List Nat) (s : State) : Path X s (onPdu (zeroPumps s.tab l) s) := by
  induction l generalizing s with
  | nil => exact .refl
  | cons n l ih => exact .trans (.single (.zero n)) (ih (onPdu (zeroPump s.tab n) s))

theorem startCheck_calm (n : Nat) (s : State) : Calm s (onPdu (startCheck s.tab n) s) :=
  onPdu_calm (startCheck_drive _ _ _) (congrArg Prod.fst (startCheck_cuts s.tab n s.pdu))

theorem setStepdown_calm (sd : Side) (d : Option Stepdown) (s : State) : Calm s (setStepdown sd d s) := onPdu_calm rfl rfl

theorem immediateCut_path (sd : Side) (s : State) : Path X s (immediateCut sd s) :=
  .trans (zeroPumps_path (pumpsDown s.tab sd) s) (.calm (setStepdown_calm sd none _))

/-- A command to a pump of a side is a raise where the side's state allows it, and else a command to zero. -/
theorem raisePump_path {n : Nat} {level : Word16} {allowed : Bool} (h : n ∈ pumpsUp s.tab sd)
    (hl : allowed = true → (stateOf s sd = .ramp ∧ level = (planOf s.tab n).full) ∨
      (stateOf s sd = .probe ∧ n ∈ probeLit s.tab sd ∧ level = (planOf s.tab n).probe)) :
    Path X s (onPdu (raisePump s.tab allowed n level) s) := by
  cases allowed with
  | true => exact .single (.raise h (hl rfl))
  | false =>
    have hzero : raisePump s.tab false n level = zeroPump s.tab n := by
      funext u; exact if_neg (by simp)
    rw [hzero]; exact .single (.zero n)

theorem mem_pumpsUp_of_probeLit {t : TableMem} {n : Nat} (h : n ∈ probeLit t sd) : n ∈ pumpsUp t sd :=
  (List.mem_filter.mp h).1

theorem probeCommand_path (sd : Side) (s : State) : Path X s (probeCommand sd s) := by
  have hfold : ∀ (l : List Nat) (s' : State), (∀ n ∈ l, n ∈ probeLit s'.tab sd) → Path X s' (onPdu (fun u =>
      l.foldl (fun u n => raisePump s'.tab (stateOf s' sd == .probe) n (planOf s'.tab n).probe u) u) s') := by
    intro l
    induction l with
    | nil => exact fun _ _ => .refl
    | cons n l ih =>
      intro s' hl
      have hn := hl n List.mem_cons_self
      refine .trans (raisePump_path (mem_pumpsUp_of_probeLit hn) fun hallowed =>
        Or.inr ⟨eq_of_beq hallowed, hn, rfl⟩) (ih (onPdu (raisePump s'.tab _ n (planOf s'.tab n).probe) s') ?_)
      exact fun m hm => hl m (List.mem_cons_of_mem n hm)
  exact hfold _ s fun _ => id

theorem fullCommand_path {n : Nat} (h : n ∈ pumpsUp s.tab sd) : Path X s (fullCommand sd n s) :=
  raisePump_path h fun hallowed => Or.inl ⟨eq_of_beq (Bool.and_eq_true_iff.mp hallowed).1, rfl⟩

/-! ### Moves of a side -/

/-- A move within the states that light no pump, no failure counted. -/
theorem Retires.quiet {r : SideRecord} (h1 : r.state.active = false)
    (h2 : s.pdu.latch = true → SideDown s sd → r.state = .lockout ∨ r.state = .absent)
    (h3 : r.failures.length ≤ (s.side.get sd).failures.length)
    (h4 : stateOf s sd = .lockout → r.state ≠ .lockout → r.failures = []) : Retires sd r s := ⟨h1, h2, Or.inl ⟨h3, h4⟩⟩

/-- A side that is neither in LOCKOUT nor ABSENT moves to a state that is not active. -/
theorem Retires.up {r : SideRecord} (hs : ¬ SideDown s sd) (h1 : r.state.active = false)
    (h3 : r.failures.length ≤ (s.side.get sd).failures.length) : Retires sd r s :=
  .quiet h1 (fun _ hd => absurd hd hs) h3 fun hd => absurd (Or.inl hd) hs

theorem not_down {x : SideState} (h : stateOf s sd = x) (h1 : x ≠ .lockout) (h2 : x ≠ .absent) : ¬ SideDown s sd := by
  rintro (hd | hd)
  · exact h1 (h.symm.trans hd)
  · exact h2 (h.symm.trans hd)

theorem retire_path {r : SideRecord} (h : Retires sd r s) (hd : (stateOf s sd).lights = false) :
    Path X s (setSide sd r s) := .single (.retire h fun hl => absurd (hd.symm.trans hl) Bool.false_ne_true)

theorem onToHold_path (sd : Side) (s : State) : Path X s (onToHold sd s) := by
  unfold onToHold; split
  · rename_i h
    exact retire_path (.up (not_down h.1 nofun nofun) rfl (Nat.le_refl _)) (by rw [h.1]; rfl)
  · exact .refl

/-- To DARK from a state that lights no pump (R53). -/
theorem enterDark_path (n : Nat) (hd : (stateOf s sd).lights = false) (hl : s.pdu.latch = true → ¬ SideDown s sd)
    (hf : stateOf s sd = .lockout → (s.side.get sd).failures = []) : Path X s (enterDark sd n s) :=
  .trans (retire_path (r := (s.side.get sd).darkened (s.side.get sd).reason n)
    (.quiet rfl (fun h k => absurd k (hl h)) (Nat.le_refl _) fun h _ => hf h) hd) (onToHold_path sd _)

/-- Every entry to LOCKOUT is an exit into its record, with the trip record, lock record and notice it hands on. -/
theorem enterLockout_exit {c k : Cause} {r : SideRecord} (hu : modSide sd (SideRecord.lockedOut c) u = setSide sd r s)
    (hst : stateOf u sd = stateOf s sd) (hr : Retires sd r s) : Path X s (enterLockout sd c k u) := by
  unfold enterLockout
  simp only [hu, hst]
  refine .trans ?_ (.calm ((queueRecord_calm _ _).trans (sideNotice_calm _ _ _ _ _)))
  split
  · exact .trans (.single (.exit hr)) (.calm (queueRecord_calm _ _))
  · rename_i hl; exact retire_path hr (Bool.eq_false_iff.mpr hl)

theorem enterLockout_path (sd : Side) (c k : Cause) (s : State) : Path X s (enterLockout sd c k s) :=
  enterLockout_exit rfl rfl (.quiet rfl (fun _ _ => Or.inl rfl) (Nat.le_refl _) fun _ h => absurd rfl h)

theorem newLockout_path (sd : Side) (c : Cause) (s : State) : Path X s (newLockout sd c s) := by
  have hrecord : Calm s (modSide sd (fun r => { r with reason := c, lock := r.lock.entered c }) s) :=
    modSide_calm rfl (Nat.le_refl _)
  exact .calm ((hrecord.trans (queueRecord_calm _ _)).trans (sideNotice_calm _ _ _ _ _))

theorem litExit_path {c : Cause} {e : SideState} {f : SideRecord → SideRecord} (h : Retires sd (f (s.side.get sd)) s) :
    Path X s (litExit sd c e f s) :=
  .trans (.single (.exit h)) (.calm ((queueRecord_calm _ _).trans (sideNotice_calm _ _ _ _ _)))

/-- The states from which a trip cuts the side's pumps (R69). -/
theorem trips_up (h : stateOf s sd ∈ [.probe, .ramp, .run]) :
    ¬ SideDown s sd ∧ (stateOf s sd).active = true := by
  simp only [List.mem_cons, List.not_mem_nil, or_false] at h
  rcases h with h | h | h <;> exact ⟨not_down h nofun nofun, by rw [h]; rfl⟩

/-- A trip: a counted failure joins the list, below the budget or with the lockout that it brings (R71, R72). -/
theorem tripLit_path (c : Cause) (h : stateOf s sd ∈ [.probe, .ramp, .run]) : Path X s (tripLit sd c s) := by
  obtain ⟨hup, hactive⟩ := trips_up h
  unfold tripLit; dsimp only; split
  · split
    · rename_i hbudget
      refine .trans (litExit_path ⟨rfl, fun _ hd => absurd hd hup, Or.inr ⟨hactive, ?_, fun _ => hbudget⟩⟩) (onToHold_path _ _)
      exact List.length_append
    · refine enterLockout_exit (r := { (s.side.get sd).lockedOut .budget with
        failures := (s.side.get sd).failures ++ [s.time.uptime] }) ?_ ?_
        ⟨rfl, fun _ _ => Or.inl rfl, Or.inr ⟨hactive, List.length_append, fun h => absurd rfl h⟩⟩
      · cases sd <;> rfl
      · cases sd <;> rfl
  · exact .trans (litExit_path (.up hup rfl (Nat.le_refl _))) (onToHold_path _ _)

theorem leaveListen_path (c : Cause) (n : Nat) (h : stateOf s sd = .listen) : Path X s (leaveListen sd c n s) :=
  .trans (retire_path (r := (s.side.get sd).darkened c n) (.up (not_down h nofun nofun) rfl (Nat.le_refl _))
    (by rw [h]; rfl)) (onToHold_path _ _)

theorem tripEvent_path (c : Cause) (sd : Side) (s : State) : Path X s (tripEvent c sd s) := by
  unfold tripEvent; split
  case h_1 h => exact leaveListen_path _ _ h
  case h_2 h => exact tripLit_path c (by simp [h])
  case h_3 h => exact tripLit_path c (by simp [h])
  case h_4 h => exact tripLit_path c (by simp [h])
  case h_5 => split; exacts [enterLockout_path _ _ _ _, .refl]
  all_goals exact .refl

theorem deferEvent_path (sd : Side) (s : State) : Path X s (deferEvent sd s) := by
  unfold deferEvent; split
  case h_1 => exact modSide_path rfl (Nat.le_refl _)
  case h_2 h => exact leaveListen_path _ _ h
  all_goals exact .refl

theorem judgeDark_path (sd : Side) (s : State) : Path X s (judgeDark sd s) := by
  unfold judgeDark; split
  · rename_i h
    obtain ⟨hs, -, -, -, -, hv, hh, -⟩ := (mayListen_iff sd s).mp h
    exact .single (.listen hs rfl rfl hv hh)
  · exact .refl

theorem holdBegun_path (sd : Side) (s : State) : Path X s (holdBegun sd s) := by
  have hlit : stateOf s sd ∈ [.probe, .ramp, .run] → Path X s (litExit sd .hold .hold SideRecord.held s) :=
    fun h => litExit_path (.up (trips_up h).1 rfl (Nat.le_refl _))
  unfold holdBegun; split
  case h_1 h => exact retire_path (.up (not_down h nofun nofun) rfl (Nat.le_refl _)) (by rw [h]; rfl)
  case h_2 h => exact retire_path (.up (not_down h nofun nofun) rfl (Nat.le_refl _)) (by rw [h]; rfl)
  case h_3 h => exact hlit (by simp [h])
  case h_4 h => exact hlit (by simp [h])
  case h_5 h => exact hlit (by simp [h])
  case h_6 => exact enterLockout_path _ _ _ _
  all_goals exact .refl

theorem holdEnded_path (sd : Side) (s : State) : Path X s (holdEnded sd s) := by
  unfold holdEnded; split
  case h_1 h =>
    have hup : ¬ SideDown s sd := not_down h nofun nofun
    exact .trans (enterDark_path _ (by rw [h]; rfl) (fun _ => hup) fun hl => absurd (Or.inl hl) hup) (judgeDark_path _ _)
  case h_2 => exact judgeDark_path _ _
  all_goals exact .refl

theorem cutEvent_path (sd : Side) (s : State) : Path X s (cutEvent sd s) := by
  unfold cutEvent; split
  case h_1 => exact .refl
  case h_2 => exact newLockout_path _ _ _
  all_goals exact enterLockout_path _ _ _ _

/-! ### Stepdown -/

theorem completeStepdown_path (sd : Side) (s : State) : Path X s (completeStepdown sd s) := by
  refine Path.trans (.calm (setStepdown_calm sd none s)) ?_
  unfold completeStepdown; dsimp only; split
  · exact enterLockout_path _ _ _ _
  · exact .refl

theorem stepZero_path (n : Nat) (l : List Nat) (s : State) : Path X s (onPdu (stepZero s.tab n l) s) := by
  have hzero : Path X s (onPdu (zeroPump s.tab n) s) := .single (.zero n)
  refine .trans hzero ?_
  have heq : onPdu (stepZero s.tab n l) s = onPdu (zeroPumps s.tab l)
      (if (checkOf (zeroPump s.tab n s.pdu) n).isNone then onPdu (startCheck s.tab n) (onPdu (zeroPump s.tab n) s)
        else onPdu (zeroPump s.tab n) s) := by
    unfold stepZero onPdu; dsimp only; split <;> rfl
  rw [heq]; split
  · exact .trans (.calm (startCheck_calm n _)) (zeroPumps_path l _)
  · exact zeroPumps_path l _

theorem beginStepdown_path (sd : Side) (n : Nat) (s : State) : Path X s (beginStepdown sd n s) := by
  unfold beginStepdown; dsimp only
  have hstep : Path X s (modSide sd (fun r => { r with step := some (planOf s.tab n).order }) s) :=
    modSide_path rfl (Nat.le_refl _)
  refine hstep.trans ?_
  split
  · exact .trans (.single (.zero n)) (.calm (setStepdown_calm _ _ _))
  · exact .trans (stepZero_path n _ _) (.calm (setStepdown_calm _ _ _))

theorem nextStepdown_path (sd : Side) (n : Nat) (s : State) : Path X s (nextStepdown sd n s) := by
  unfold nextStepdown; split
  · exact completeStepdown_path _ _
  · exact beginStepdown_path _ _ _

theorem startStepdown_path (sd : Side) (s : State) : Path X s (startStepdown sd s) := by
  unfold startStepdown; split
  · split
    · exact completeStepdown_path _ _
    · exact beginStepdown_path _ _ _
  · exact immediateCut_path _ _

theorem enterStepdown_path (h : stateOf s sd = .run) : Path X s (enterStepdown sd s) :=
  .trans (.single (.advance (r := { (s.side.get sd).cleared with state := .stepdown }) (by rw [h]; rfl) rfl))
    (startStepdown_path _ _)

theorem stepdownPassed_path (l : List Nat) (sd : Side) (s : State) : Path X s (stepdownPassed l sd s) := by
  unfold stepdownPassed; split
  · split
    · exact nextStepdown_path _ _ _
    · exact .refl
  all_goals exact .refl

theorem stepdownWaited_path (sd : Side) (s : State) : Path X s (stepdownWaited sd s) := by
  unfold stepdownWaited; split
  case h_1 => exact nextStepdown_path _ _ _
  all_goals exact .refl

end

end Sys2Proof.Machine
end

section
/-! The paths of the restart handshake (chapter 4), of scan results at a side and of the events of a port (chapters 1, 3
and 5). -/

namespace Sys2Proof.Machine

section
variable {X : Premises} {s t u : State} {sd : Side}

/-! ### Entry to RUN and the ramp -/

theorem judgeDarkInput_path (h : stateOf s sd = .run) : Path X s (judgeDarkInput sd s) := by
  have htrip : Path X s (tripLit sd .darkInput s) := tripLit_path _ (by simp [h])
  unfold judgeDarkInput; split
  · split
    · exact modSide_path rfl (Nat.le_refl _)
    · exact htrip
  · exact htrip

theorem enterRun_path (h : stateOf s sd = .ramp) : Path X s (enterRun sd s) := by
  have hrun : Path X s (modSide sd (fun r =>
      { r with state := .run, step := none, stepWindow := none, armed := false, late := false
               proving := some (hdrProving s.tab.tables) }) s) := .single (.advance (by rw [h]; rfl) rfl)
  unfold enterRun; dsimp only
  refine hrun.trans (Path.trans (.calm (sideNotice_calm 113 sd .none .run _)) ?_)
  split
  · exact judgeDarkInput_path (by simp [stateOf])
  · exact .refl

theorem beginRampStep_path {n : Nat} (h : n ∈ pumpsUp s.tab sd) : Path X s (beginRampStep sd n s) := by
  have hstep : Path X s (modSide sd (fun r =>
      { r with step := some (planOf s.tab n).order, stepWindow := some (planOf s.tab n).window
               mismatchRun := 0, armed := false, late := s.scan.done }) s) := modSide_path rfl (Nat.le_refl _)
  exact hstep.trans (fullCommand_path h)

theorem beginRamp_path (h : stateOf s sd = .ramp) : Path X s (beginRamp sd s) := by
  unfold beginRamp; split
  · exact enterRun_path h
  · rename_i n l hl; exact beginRampStep_path (by rw [hl]; exact List.mem_cons_self)

theorem passStep_path (n : Nat) (h : stateOf s sd = .ramp) : Path X s (passStep sd n s) := by
  have hwindow : Path X s (modSide sd (fun r => { r with stepWindow := none }) s) := modSide_path rfl (Nat.le_refl _)
  have hstate : stateOf (modSide sd (fun r => { r with stepWindow := none }) s) sd = .ramp := by
    simpa [stateOf] using h
  unfold passStep; dsimp only; split
  · exact hwindow.trans (enterRun_path hstate)
  · rename_i k hk; exact hwindow.trans (beginRampStep_path (List.mem_of_find?_eq_some hk))

theorem enterRamp_path (h : stateOf s sd = .probe) : Path X s (enterRamp sd s) := by
  have hramp : Path X s (modSide sd (fun r =>
      { r with state := .ramp, probe := none, step := (pumpsUp s.tab sd).head?.map fun n => (planOf s.tab n).order
               stepWindow := none, armed := false, late := false }) s) := .single (.advance (by rw [h]; rfl) rfl)
  unfold enterRamp; dsimp only
  refine hramp.trans ?_
  split
  · exact beginRamp_path (by simp [stateOf])
  · exact .refl

/-! ### PROBE -/

theorem lightProbe_path (sd : Side) (s : State) : Path X s (lightProbe sd s) := by
  have hlit : Path X s (modSide sd (fun r => { r with lit := true }) s) := modSide_path rfl (Nat.le_refl _)
  exact hlit.trans (probeCommand_path sd _)

theorem enterProbe_path (h : stateOf s sd = .listen) : Path X s (enterProbe sd s) := by
  have hprobe : Path X s (modSide sd (fun r =>
      { r with state := .probe, probe := some r.agree.duration.toNat, verified := false
               mismatchRun := 0, step := none, lit := false, armed := false }) s) :=
    .single (.advance (by rw [h]; rfl) rfl)
  unfold enterProbe; dsimp only
  refine hprobe.trans ?_
  split
  · exact lightProbe_path _ _
  · exact .refl

theorem judgeProbe_path (sd : Side) (s : State) : Path X s (judgeProbe sd s) := by
  unfold judgeProbe; split
  · rename_i h
    simp only [mayProbe, Bool.and_eq_true, beq_iff_eq] at h
    exact enterProbe_path h.1.1
  · exact .refl

theorem judgeReady_path (sd : Side) (s : State) : Path X s (judgeReady sd s) := by
  unfold judgeReady; split
  · exact Path.trans (modSide_path (f := fun r => { r with ready := true }) rfl (Nat.le_refl _)) (judgeProbe_path _ _)
  · exact .refl

theorem backOff_path (h : stateOf s sd = .probe) : Path X s (backOff sd s) := by
  have hback : Path X s (zeroCommand sd (modSide sd (fun r =>
      { r with state := .listen, reason := .backOff, probe := none, verified := false, mismatchRun := 0
               lit := false }) s)) := .single (.backOff h rfl rfl)
  refine hback.trans ?_
  unfold backOff; dsimp only
  exact modSide_path rfl (Nat.le_refl _)

theorem leadJudge_path (s : State) : Path X s (leadJudge s) := by
  unfold leadJudge; split
  case h_1 => exact judgeProbe_path _ _
  case h_2 h =>
    split
    · exact .refl
    · split
      · exact backOff_path h
      · exact .refl
  all_goals exact .refl

/-- An event of a side, with the lead's judgment of a moved West side. -/
theorem sideEvent_path {f : Side → State → State} (h : Path X s (f sd s)) : Path X s (sideEvent f sd s) := by
  unfold sideEvent; dsimp only; split
  · exact h.trans (leadJudge_path _)
  · exact h

/-- An event of both sides. -/
theorem bothSides_path {f : Side → State → State} (h : ∀ sd s, Path X s (f sd s)) (s : State) :
    Path X s (bothSides f s) := by
  unfold bothSides; split
  · exact (h .east s).trans (h .west _)
  · exact (h .west s).trans (h .east _)

theorem bothSides_sideEvent_path {f : Side → State → State} (h : ∀ sd s, Path X s (f sd s)) (s : State) :
    Path X s (bothSides (sideEvent f) s) := bothSides_path (fun sd s => sideEvent_path (h sd s)) s

/-! ### Far reports -/

theorem listenReport_path (sd : Side) (r : Report) (s : State) : Path X s (listenReport sd r s) := by
  have hagree : Path X s (modSide sd (fun x =>
      let a := agreeReport (ownAdvert s sd) r x.agree
      { x with agree := a, ready := x.ready && a.state == .settled }) s) := modSide_path rfl (Nat.le_refl _)
  exact (hagree.trans (judgeReady_path _ _)).trans (judgeProbe_path _ _)

theorem countOutside_path (h : stateOf s sd ∈ [.probe, .ramp, .run]) : Path X s (countOutside sd s) := by
  have hcount : Path X s (modSide sd (fun x => { x with mismatchRun := x.mismatchRun + 1 }) s) :=
    modSide_path rfl (Nat.le_refl _)
  unfold countOutside; split
  · exact hcount
  · exact hcount.trans (tripLit_path _ (by simpa [stateOf] using h))

theorem leadToRamp_path (sd : Side) (s : State) : Path X s (leadToRamp sd s) := by
  unfold leadToRamp; split
  · rename_i h; exact enterRamp_path h.2.1
  · exact .refl

theorem probeTest_path (r : Report) (h : stateOf s sd = .probe) : Path X s (probeTest sd r s) := by
  have hverified : Path X s (modSide sd (fun x => { x with verified := true, mismatchRun := 0 }) s) :=
    modSide_path rfl (Nat.le_refl _)
  unfold probeTest; split
  · exact .refl
  · split
    · dsimp only; split
      · exact hverified.trans (enterRamp_path (by simpa [stateOf] using h))
      · exact hverified
    · exact countOutside_path (by simp [h])
    · exact modSide_path rfl (Nat.le_refl _)

theorem probeAgreed_path (r : Report) (h : stateOf s sd = .probe) : Path X s (probeAgreed sd r s) := by
  have hlower : Path X s (modSide sd (fun x => { x with agree := lowerAgreement (ownAdvert s sd) r x.agree }) s) :=
    modSide_path rfl (Nat.le_refl _)
  unfold probeAgreed; split
  · exact tripLit_path _ (by simp [h])
  · dsimp only; split
    · exact (hlower.trans (probeTest_path r (by simpa [stateOf] using h))).trans (leadToRamp_path _ _)
    · split
      · exact hlower.trans (lightProbe_path _ _)
      · exact hlower

theorem probeReport_path (r : Report) (h : stateOf s sd = .probe) : Path X s (probeReport sd r s) := by
  have htrip : Path X s (tripLit sd .farDark s) := tripLit_path _ (by simp [h])
  unfold probeReport; split
  · split
    · exact probeAgreed_path r h
    · exact htrip
  · split
    · exact backOff_path h
    · split
      · exact probeAgreed_path r h
      · exact htrip

theorem rampTest_path (r : Report) (h : stateOf s sd = .ramp) : Path X s (rampTest sd r s) := by
  unfold rampTest; split
  · exact .refl
  · split
    · split
      · exact passStep_path _ h
      · exact countOutside_path (by simp [h])
      · exact modSide_path rfl (Nat.le_refl _)
    · exact .refl

theorem rampReport_path (r : Report) (h : stateOf s sd = .ramp) : Path X s (rampReport sd r s) := by
  have hlower : Path X s (modSide sd (fun x => { x with agree := lowerAgreement (ownAdvert s sd) r x.agree }) s) :=
    modSide_path rfl (Nat.le_refl _)
  have hstate : stateOf (modSide sd (fun x => { x with agree := lowerAgreement (ownAdvert s sd) r x.agree }) s) sd =
      .ramp := by simpa [stateOf] using h
  unfold rampReport; split
  · split
    · exact tripLit_path _ (by simp [h])
    · dsimp only; split
      · exact hlower.trans (rampTest_path r hstate)
      · split
        · exact hlower.trans (beginRamp_path hstate)
        · exact hlower
  · exact tripLit_path _ (by simp [h])

theorem starvedReport_path (sd : Side) (r : Report) (s : State) : Path X s (starvedReport sd r s) := by
  unfold starvedReport; dsimp only; split
  · split
    · exact .refl
    · exact modSide_path rfl (Nat.le_refl _)
  · split
    · exact modSide_path rfl (Nat.le_refl _)
    · exact .refl

theorem runReport_path (r : Report) (h : stateOf s sd = .run) : Path X s (runReport sd r s) := by
  have hlower : Path X s (modSide sd (fun x => { x with agree := lowerAgreement (ownAdvert s sd) r x.agree }) s) :=
    modSide_path rfl (Nat.le_refl _)
  unfold runReport; split
  · split
    · exact tripLit_path _ (by simp [h])
    · exact hlower.trans (starvedReport_path _ _ _)
  · exact tripLit_path _ (by simp [h])

theorem farReport_path (r : Report) (sd : Side) (s : State) : Path X s (farReport r sd s) := by
  unfold farReport; split
  case h_1 => exact listenReport_path _ _ _
  case h_2 h => exact probeReport_path r h
  case h_3 h => exact rampReport_path r h
  case h_4 h => exact runReport_path r h
  all_goals exact .refl

/-! ### Scan results and detections at a side -/

theorem darkBegun_path (sd : Side) (s : State) : Path X s (darkBegun sd s) := by
  unfold darkBegun; split
  · rename_i h; exact judgeDarkInput_path h
  · exact .refl

theorem darkEnded_path (sd : Side) (s : State) : Path X s (darkEnded sd s) := by
  unfold darkEnded; split
  · exact modSide_path rfl (Nat.le_refl _)
  · exact .refl

theorem rearmScan_path (v : Word16) (h : stateOf s sd = .run) : Path X s (rearmScan v sd s) := by
  unfold rearmScan; split
  · split
    · exact modSide_path rfl (Nat.le_refl _)
    · exact tripLit_path _ (by simp [h])
  · exact modSide_path rfl (Nat.le_refl _)

theorem stepScan_path (n : Nat) (v : Word16) (sd : Side) (s : State) : Path X s (stepScan n v sd s) := by
  have harmed : Path X s (modSide sd (fun x => { x with armed := true }) s) := modSide_path rfl (Nat.le_refl _)
  have hstate : stateOf s sd = .ramp → stateOf (modSide sd (fun x => { x with armed := true }) s) sd = .ramp := by
    simp [stateOf]
  unfold stepScan; split
  · exact .refl
  · split
    · rename_i h
      have hpass : ∀ k, Path X s (passStep sd k (modSide sd (fun x => { x with armed := true }) s)) :=
        fun k => harmed.trans (passStep_path k (hstate h.1))
      dsimp only; split
      · exact hpass _
      · split
        · exact hpass _
        · exact harmed
      · exact harmed
    · exact .refl

/-- The ceiling stands in PROBE, RAMP and RUN alone (R65). -/
theorem ceiling_some {r : SideRecord} {c : Int} (h : ceiling r = some c) : r.state ∈ [.probe, .ramp, .run] := by
  unfold ceiling at h; split at h <;> simp_all

theorem outputScan_path (n : Nat) (v : Word16) (sd : Side) (s : State) : Path X s (outputScan n v sd s) := by
  unfold outputScan; split
  · exact .refl
  · rename_i hc
    split
    · exact tripLit_path _ (ceiling_some hc)
    · exact stepScan_path _ _ _ _

theorem armByScan_path (sd : Side) (s : State) : Path X s (armByScan sd s) := by
  have harmed : Path X s (modSide sd (fun x => { x with armed := true }) s) := modSide_path rfl (Nat.le_refl _)
  unfold armByScan; split
  · exact .refl
  · split
    · rename_i h; exact harmed.trans (passStep_path _ (by simpa [stateOf] using h.1))
    · exact .refl

theorem scanCompleted_path (sd : Side) (s : State) : Path X s (scanCompleted sd s) := by
  unfold scanCompleted; split
  · exact modSide_path rfl (Nat.le_refl _)
  · exact armByScan_path _ _

/-! ### The events of a port's condition -/

theorem degradedBegun_path (sd : Side) (s : State) : Path X s (degradedBegun sd s) := by
  unfold degradedBegun; split
  · exact modSide_path rfl (Nat.le_refl _)
  · exact .refl

theorem conditionEvent_path (old new : PortCondition) (sd : Side) (s : State) : Path X s (conditionEvent old new sd s) := by
  unfold conditionEvent; split
  case h_4 => exact tripEvent_path _ _ _
  case h_5 => exact degradedBegun_path _ _
  case h_6 => exact judgeReady_path _ _
  case h_7 => exact judgeDark_path _ _
  all_goals exact .refl

end

end Sys2Proof.Machine
end

section
/-! The law of the validated flag along a path (R28): what is inactive before a run under clear tables is inactive after
it. -/

namespace Sys2Proof.Machine

@[simp] theorem stateOf_setSide (sd : Side) (r : SideRecord) (s : State) : stateOf (setSide sd r s) sd = r.state := by
  unfold stateOf; rw [setSide_side, Sides.get_set]

theorem stateOf_setSide_ne {sd x : Side} (r : SideRecord) (s : State) (h : x ≠ sd) :
    stateOf (setSide sd r s) x = stateOf s x := by
  unfold stateOf; rw [setSide_side, Sides.get_set_ne _ _ _ _ h]

/-- A property of the states of both sides, after a change of one of them. -/
theorem forall_stateOf_setSide {P : SideState → Prop} {sd : Side} {r : SideRecord} {s : State} (hr : P r.state)
    (h : ∀ x, x ≠ sd → P (stateOf s x)) (x : Side) : P (stateOf (setSide sd r s) x) := by
  by_cases hx : x = sd
  · subst hx; rwa [stateOf_setSide]
  · rw [stateOf_setSide_ne r s hx]; exact h x hx

/-- A state in which no pump can be lit. -/
def Inactive (x : SideState) : Prop := x.active = false

/-- Every atom taken apart, and the tables taken to be validated or the sides to be at rest where the flag is cleared. -/
def rested : Premises := ⟨True, False, False, True, True, True⟩

theorem leadsTo_active {a b : SideState} (h : a.leadsTo b = true) : a.active = true ∧ b.active = true := by
  unfold SideState.leadsTo at h
  split at h
  case h_5 => exact absurd h Bool.false_ne_true
  all_goals exact ⟨rfl, rfl⟩

/-- An active side stands over validated tables. -/
theorem FlagLaw.validated {s : State} (h : FlagLaw s) {sd : Side} (ha : (stateOf s sd).active = true) :
    s.tab.validated = true := by
  cases hv : s.tab.validated with
  | true => rfl
  | false => exact absurd (ha.symm.trans (h hv sd)) (by decide)

theorem FlagLaw.move {s t : State} (h : Move rested s t) (hs : FlagLaw s) : FlagLaw t := by
  cases h with
  | frame h _ => intro hv sd; rw [h.state sd]; exact hs (h.tab ▸ hv) sd
  | retire h _ => exact fun hv => forall_stateOf_setSide (P := Inactive) h.inactive fun x _ => hs hv x
  | exit h => exact fun hv => forall_stateOf_setSide (P := Inactive) h.inactive fun x _ => hs hv x
  | listen _ _ _ hv _ => exact fun hclear => absurd (hv.symm.trans hclear) (by decide)
  | advance h _ => exact fun hv => absurd ((hs.validated (leadsTo_active h).1).symm.trans hv) (by decide)
  | backOff h _ _ => exact fun hv => absurd ((hs.validated (by rw [h]; rfl)).symm.trans hv) (by decide)
  | zero n => exact hs
  | raise _ _ => exact hs
  | hold u _ => exact hs
  | recompute h => exact absurd trivial h
  | latch _ => exact hs
  | extinct n h => exact absurd trivial h
  | unflag h _ => exact fun _ => h trivial
  | flag hv _ _ => exact fun hclear => absurd hclear Bool.noConfusion
  | retable h =>
    intro _ sd
    have hrests := h.rests sd
    rwa [← h.state sd] at hrests
  | restart pins => exact fun _ sd => by cases sd <;> rfl
  | loaderStart _ h _ => exact absurd trivial h
  | loaderEnd _ _ _ h _ => exact absurd trivial h

theorem FlagLaw.path {s t : State} (h : Path rested s t) (hs : FlagLaw s) : FlagLaw t :=
  Path.keeps (fun _ _ hmove => FlagLaw.move hmove) h hs

/-- Under clear tables no side comes to be active. -/
theorem NoneActive.path {s t : State} (h : Path rested s t) (hs : NoneActive s) (ht : t.tab.validated = false) :
    NoneActive t := FlagLaw.path h (fun _ => hs) ht

end Sys2Proof.Machine
end

section
/-! The paths of the Hold Unit and the Notice Filter (chapter 6), of the clearing and setting of the flag and the sides'
moves with it (chapters 2 and 3), and of the loader (chapter 9). -/

namespace Sys2Proof.Machine

section
variable {X : Premises} {s t u : State} {sd : Side}

/-! ### The Hold Unit and the Notice Filter -/

theorem recomputeView_path (s : State) : Path X s (recomputeView s) := by
  by_cases hfree : X.viewFree
  · unfold recomputeView; dsimp only; split
    · exact .refl
    · have hview : Path X s { s with hold := { s.hold with view := viewOf s } } := .single (.hold _ (Or.inl hfree))
      split
      · exact hview.trans (bothSides_sideEvent_path holdBegun_path _)
      · split
        · exact hview.trans (bothSides_sideEvent_path holdEnded_path _)
        · exact hview
  · exact .single (.recompute hfree)

theorem reviewed_still (s : State) : still (recomputeView s) = still (reviewed s) := by
  by_cases hsame : heldView s = s.hold.view
  · rw [recomputeView_same hsame, reviewed, hsame]
  · by_cases h0 : s.hold.view = 0
    · rw [recomputeView_begins h0 fun h => hsame (h.trans h0.symm)]
      exact bothSides_still _ (sideEvent_still _ holdBegun_still) _
    · by_cases h1 : heldView s = 0
      · rw [recomputeView_ends h0 h1]; exact bothSides_still _ (sideEvent_still _ holdEnded_still) _
      · rw [recomputeView_still_held ⟨fun h => absurd h h0, fun h => absurd h h1⟩]

@[simp] theorem recomputeView_tab (s : State) : (recomputeView s).tab = s.tab := congrArg Still.tab (reviewed_still s)
@[simp] theorem recomputeView_position (s : State) : (recomputeView s).position = s.position :=
  congrArg Still.position (reviewed_still s)
@[simp] theorem recomputeView_store (s : State) : (recomputeView s).store = s.store :=
  congrArg Still.store (reviewed_still s)

/-- A change of the Hold Unit but for its view. -/
theorem hold_calm {h : HoldUnit} (hv : h.view = s.hold.view) : Calm s { s with hold := h } :=
  Calm.of_fields rfl rfl hv rfl rfl rfl rfl rfl rfl

theorem recomputeOwn_path (s : State) : Path X s (recomputeOwn s) := by
  unfold recomputeOwn; dsimp only; split
  · exact .refl
  · exact (recomputeView_path _).after (hold_calm rfl)

theorem setHoldRequest_path (b : Bool) (s : State) : Path X s (setHoldRequest b s) :=
  (recomputeOwn_path _).after (hold_calm rfl)

theorem setHoldLine_path (b : Bool) (s : State) : Path X s (setHoldLine b s) :=
  (recomputeOwn_path _).after (Calm.of_fields rfl rfl rfl rfl rfl rfl rfl rfl rfl)

theorem takeHoldSet_path (sd : Side) (s : State) : Path X s (takeHoldSet sd s) :=
  (recomputeView_path _).after (hold_calm rfl)

theorem deliverCopy_path (m : Message) (s : State) : Path X s (deliverCopy m s) := .calm (onMsg_calm (deliver_queues _ _))

theorem filterNotice_path (m : Message) (s : State) : Path X s (filterNotice m s) := by
  unfold filterNotice; split
  case h_1 =>
    exact ((sideEvent_path (tripEvent_path _ _ _)).trans (sideEvent_path (tripEvent_path _ _ _))).trans (deliverCopy_path _ _)
  case h_2 => exact (bothSides_sideEvent_path deferEvent_path _).trans (deliverCopy_path _ _)
  case h_3 => exact deliverCopy_path _ _
  case h_4 => exact .refl

/-! ### Clearing the flag -/

theorem endDark_path (held : Bool) (sd : Side) (s : State) : Path X s (endDark held sd s) := by
  unfold endDark; split
  · exact sideEvent_path (darkEnded_path _ _)
  · exact .refl

/-- The state as the flag is cleared: every channel at zero, the detections ended. -/
def unflagged (s : State) : State :=
  { onPdu (zeroPumps s.tab (eight.filter fun n => driveOf s.pdu n != 0)) s with
    tab := { s.tab with validated := false }, scan := { s.scan with dark := noDark } }

theorem clearFlag_of_validated (h : s.tab.validated = true) : clearFlag s =
    recomputeView (endDark (darkHolds s .east) .east (endDark (darkHolds s .west) .west (unflagged s))) := if_pos h

/-- The channels above zero brought to zero leave every channel at zero. -/
theorem above_dark (s : State) {n : Nat} (hn : n < 8) :
    driveOf (zeroPumps s.tab (eight.filter fun n => driveOf s.pdu n != 0) s.pdu) n = 0 := by
  by_cases h : driveOf s.pdu n = 0
  · exact (zeroPumps_darker _ _ _).zero h
  · exact zeroPumps_dark _ (List.mem_filter.mpr ⟨List.mem_range.mpr hn, by simpa using h⟩) _

theorem unflagged_path (h : X.rested → NoneActive s) : Path X s (unflagged s) := by
  have hzero : Path X s (onPdu (zeroPumps s.tab (eight.filter fun n => driveOf s.pdu n != 0)) s) := zeroPumps_path _ _
  refine hzero.trans (Path.trans (.single (.unflag h fun n => above_dark s)) ?_)
  exact .calm (Calm.of_fields rfl rfl rfl rfl rfl rfl rfl rfl rfl)

theorem endDark_still (held : Bool) (sd : Side) (s : State) : still (endDark held sd s) = still s := by
  unfold endDark; split
  · exact sideEvent_still _ darkEnded_still _ _
  · rfl

theorem clearFlag_path (h : X.rested → NoneActive s) : Path X s (clearFlag s) := by
  by_cases hv : s.tab.validated = true
  · rw [clearFlag_of_validated hv]
    exact (((unflagged_path h).trans (endDark_path _ _ _)).trans (endDark_path _ _ _)).trans (recomputeView_path _)
  · rw [clearFlag_of_not_validated (Bool.not_eq_true _ ▸ hv)]; exact .refl

/-- What the clearing leaves of the tables, the position and the store. -/
theorem clearFlag_fields (s : State) : (clearFlag s).tab = { s.tab with validated := false } ∧
    (clearFlag s).position = s.position ∧ (clearFlag s).store = s.store := by
  cases hv : s.tab.validated with
  | true =>
    have hends := (endDark_still (darkHolds s .east) .east _).trans (endDark_still (darkHolds s .west) .west (unflagged s))
    rw [clearFlag_of_validated hv, recomputeView_tab, recomputeView_position, recomputeView_store]
    exact ⟨congrArg Still.tab hends, congrArg Still.position hends, congrArg Still.store hends⟩
  | false =>
    rw [clearFlag_of_not_validated hv]
    exact ⟨by rw [← hv], rfl, rfl⟩

theorem clearFlag_rests (h : NoneActive s) : NoneActive (clearFlag s) :=
  NoneActive.path (clearFlag_path fun _ => h) h (by rw [(clearFlag_fields s).1])

/-! ### ABSENT sides and validation -/

theorem configure_path (h : stateOf s sd = .unconfigured ∨ stateOf s sd = .absent) : Path X s (configure sd s) := by
  unfold configure; split
  · exact enterLockout_path _ _ _ _
  · split
    · exact enterLockout_path _ _ _ _
    · rename_i hlatch
      refine enterDark_path _ ?_ (fun hl => absurd hl hlatch) fun hl => ?_
      · rcases h with h | h <;> (rw [h]; rfl)
      · rcases h with h | h <;> exact absurd (h.symm.trans hl) (by decide)

/-- A port record replaced by one that keeps the law of scores and conditions. -/
theorem setPort_calm {r : PortRecord} (h : PortLaw (s.ports.get sd) → PortLaw r) : Calm s (setPort sd r s) := by
  refine ⟨⟨⟨id, fun hs x => ?_, id, id⟩, rfl, rfl, rfl, rfl, rfl, fun _ => rfl, fun _ => Nat.le_refl _⟩, id⟩
  rw [setPort_ports]
  by_cases hx : x = sd
  · subst hx; rw [Sides.get_set]; exact h (hs x)
  · rw [Sides.get_set_ne _ _ _ _ hx]; exact hs x

theorem restartPort_path (sd : Side) (s : State) : Path X s (restartPort sd s) := by
  have hreset : Calm s (setPort sd PortRecord.reset s) := setPort_calm fun _ => ⟨by decide, by decide⟩
  exact Path.trans (.calm (hreset.trans (modTx_calm _ _ _))) (takeHoldSet_path _ _)

theorem becomeAbsent_path (sd : Side) (s : State) : Path X s (becomeAbsent sd s) := by
  have hgone : Retires sd (SideRecord.gone (moveReason s sd) (s.side.get sd)) (nextFree s) :=
    .quiet rfl (fun _ _ => Or.inr rfl) (Nat.zero_le _) fun _ _ => rfl
  have hmoved : Path X s (if (stateOf s sd).lights then
      immediateCut sd (modSide sd (SideRecord.gone (moveReason s sd)) (nextFree s))
      else modSide sd (SideRecord.gone (moveReason s sd)) (nextFree s)) := by
    refine Path.trans (.calm (nextFree_calm s)) ?_
    split
    · exact .single (.exit hgone)
    · rename_i hl; exact retire_path hgone (Bool.eq_false_iff.mpr hl)
  unfold becomeAbsent; dsimp only
  refine Path.trans ?_ (restartPort_path _ _)
  refine Path.trans ?_ (.calm ((onMsg_calm (emptyQueue_queues sd _)).trans (modTx_calm _ _ _)))
  split
  · exact hmoved.trans (.calm (queueRecord_calm _ _))
  · exact hmoved

theorem judgeAbsent_path (sd : Side) (s : State) : Path X s (judgeAbsent sd s) := by
  unfold judgeAbsent; split
  case h_1 => exact becomeAbsent_path _ _
  case h_2 h _ =>
    exact (configure_path (Or.inr ((isAbsent_eq_true_iff s sd).mp h))).trans (restartPort_path _ _)
  all_goals exact .refl

theorem judgeUnconfigured_path (sd : Side) (s : State) : Path X s (judgeUnconfigured sd s) := by
  unfold judgeUnconfigured; split
  · rename_i h; exact configure_path (Or.inl h)
  · exact .refl

theorem bringInForce_path (hv : s.tab.validated = false) (hc : runChecks (pos s) s.tab.tables = none)
    (hl : X.loadFree ∨ s.ctl.op.isLoading = false) : Path X s (bringInForce s) := by
  have hflag : Path X s { s with tab := { s.tab with validated := true } } := .single (.flag hv hc hl)
  refine hflag.trans (Path.trans (.calm ?_) (recomputeView_path _))
  exact Calm.of_fields rfl rfl rfl rfl rfl rfl rfl rfl rfl

theorem moveSides_path (s : State) : Path X s (moveSides s) :=
  (bothSides_sideEvent_path judgeAbsent_path s).trans (bothSides_sideEvent_path judgeUnconfigured_path _)

theorem validate_path (hc : runChecks (pos s) s.tab.tables = none) (hl : X.loadFree ∨ s.ctl.op.isLoading = false) :
    Path X s (validate s) := by
  unfold validate; split
  · exact .refl
  · rename_i hv
    exact ((bringInForce_path (Bool.eq_false_iff.mpr hv) hc hl).trans (moveSides_path _)).trans
      (bothSides_sideEvent_path judgeDark_path _)

end

end Sys2Proof.Machine
end

section
/-! The paths of the loader (chapter 9): a run takes every side that is not locked out to UNCONFIGURED, and then the
tables may be replaced. -/

namespace Sys2Proof.Machine

section
variable {X : Premises} {s t u : State} {sd : Side}

/-! ### Sides that no hold and no judgment of the lead moves -/

/-- A side is in LOCKOUT or UNCONFIGURED. -/
def Settled (sd : Side) (s : State) : Prop := stateOf s sd = .lockout ∨ stateOf s sd = .unconfigured

theorem Settled.inactive (h : Settled sd s) : (stateOf s sd).active = false := by
  rcases h with h | h <;> (rw [h]; rfl)

theorem Settled.of_side (h : Settled sd s) (hs : t.side.get sd = s.side.get sd) : Settled sd t := by
  unfold Settled stateOf at *; rwa [hs]

theorem Settled.of_other {x : Side} (hx : x ≠ sd) (h : Settled sd s)
    (hs : t.side.get x.other = s.side.get x.other) : Settled sd t := by
  have hsd : x.other = sd := by cases x <;> cases sd <;> simp_all [Side.other]
  subst hsd; exact h.of_side hs

theorem Settled.leadJudge (h : Settled sd s) : Settled sd (leadJudge s) := by
  cases sd with
  | west => exact h.of_side (leadJudge_west s)
  | east =>
    have hne : ∀ x, x ≠ .lockout → x ≠ .unconfigured → stateOf s .east ≠ x := by
      rintro x h1 h2 rfl; exact h.elim h1 h2
    rwa [leadJudge_idle s (hne _ nofun nofun) (hne _ nofun nofun)]

theorem Settled.sideEvent {f : Side → State → State} {x : Side} (h : Settled sd (f x s)) : Settled sd (sideEvent f x s) := by
  unfold Machine.sideEvent; dsimp only; split
  · exact h.leadJudge
  · exact h

theorem Settled.bothSides {f : Side → State → State} (hf : ∀ x s, Settled sd s → Settled sd (f x s)) (h : Settled sd s) :
    Settled sd (bothSides f s) := by
  unfold Machine.bothSides; split
  · exact hf _ _ (hf _ _ h)
  · exact hf _ _ (hf _ _ h)

theorem Settled.holdBegun (x : Side) (h : Settled sd s) : Settled sd (holdBegun x s) := by
  by_cases hx : x = sd
  · subst hx
    have hsame : Machine.holdBegun x s = s := by rcases h with h | h <;> (unfold Machine.holdBegun; rw [h])
    rwa [hsame]
  · exact h.of_other hx (holdBegun_other x s)

theorem Settled.holdEnded (x : Side) (h : Settled sd s) : Settled sd (holdEnded x s) := by
  by_cases hx : x = sd
  · subst hx
    have hsame : Machine.holdEnded x s = s := by rcases h with h | h <;> (unfold Machine.holdEnded; rw [h])
    rwa [hsame]
  · exact h.of_other hx (holdEnded_other x s)

theorem Settled.recomputeView (h : Settled sd s) : Settled sd (recomputeView s) := by
  unfold Machine.recomputeView; dsimp only; split
  · exact h
  · split
    · exact Settled.bothSides (fun x _ h => (h.holdBegun x).sideEvent) h
    · split
      · exact Settled.bothSides (fun x _ h => (h.holdEnded x).sideEvent) h
      · exact h

theorem Settled.restartPort (x : Side) (h : Settled sd s) : Settled sd (restartPort x s) := Settled.recomputeView h

/-! ### Step 1: every side UNCONFIGURED or locked out -/

theorem unconfigure_path (h : stateOf s sd ≠ .lockout) : Path X s (unconfigure sd s) := by
  unfold unconfigure; split
  · exact enterLockout_path _ _ _ _
  · rename_i hlatch
    have hmoved : Retires sd { (s.side.get sd).cleared with
        state := .unconfigured, reason := Config.unstatedCause s.free } (nextFree s) :=
      .quiet rfl (fun hl => absurd hl hlatch) (Nat.le_refl _) fun hl => absurd hl h
    dsimp only; split
    · exact ((Path.single (.exit hmoved)).trans (.calm (queueRecord_calm _ _))).after (nextFree_calm s)
    · rename_i hl; exact (retire_path hmoved (Bool.eq_false_iff.mpr hl)).after (nextFree_calm s)

theorem toUnconfigured_path (sd : Side) (s : State) : Path X s (toUnconfigured sd s) := by
  unfold toUnconfigured; split
  case h_1 h => exact (unconfigure_path (by rw [h]; decide)).trans (restartPort_path _ _)
  case h_2 => exact .refl
  case h_3 => exact .refl
  all_goals
    rename_i h
    exact unconfigure_path (by rw [h]; decide)

theorem unconfigure_settled (sd : Side) (s : State) : Settled sd (unconfigure sd s) := by
  unfold unconfigure; split
  · left; unfold stateOf; rw [enterLockout_own]; rfl
  · right; dsimp only; split
    · unfold stateOf; rw [queueRecord_side, immediateCut_side, modSide_side, Sides.get_set]
    · exact stateOf_setSide _ _ _

theorem unconfigure_other (sd : Side) (s : State) : (unconfigure sd s).side.get sd.other = s.side.get sd.other := by
  unfold unconfigure; split
  · exact enterLockout_other _ _ _ _
  · dsimp only; split
    · rw [queueRecord_side, immediateCut_side, modSide_side, Sides.get_set_other, nextFree_side]
    · rw [modSide_side, Sides.get_set_other, nextFree_side]

theorem toUnconfigured_settled (sd : Side) (s : State) : Settled sd (toUnconfigured sd s) := by
  unfold toUnconfigured; split
  case h_1 => exact (unconfigure_settled sd s).restartPort sd
  case h_2 h => exact Or.inr h
  case h_3 h => exact Or.inl h
  all_goals exact unconfigure_settled sd s

theorem Settled.toUnconfigured (x : Side) (h : Settled sd s) : Settled sd (toUnconfigured x s) := by
  by_cases hx : x = sd
  · subst hx; exact toUnconfigured_settled x s
  · have hmoved : Settled sd (unconfigure x s) := h.of_other hx (unconfigure_other x s)
    unfold Machine.toUnconfigured; split
    case h_1 => exact hmoved.restartPort x
    case h_2 => exact h
    case h_3 => exact h
    all_goals exact hmoved

theorem bothSides_toUnconfigured_rests (s : State) : NoneActive (bothSides (sideEvent toUnconfigured) s) := by
  have hfirst : ∀ x s, Settled x (Machine.sideEvent Machine.toUnconfigured x s) :=
    fun x s => (toUnconfigured_settled x s).sideEvent
  have hkept : ∀ x {y s}, Settled y s → Settled y (Machine.sideEvent Machine.toUnconfigured x s) :=
    fun x _ _ h => (h.toUnconfigured x).sideEvent
  intro sd
  refine Settled.inactive ?_
  unfold Machine.bothSides; split <;> cases sd
  · exact hfirst _ _
  · exact hkept _ (hfirst _ _)
  · exact hkept _ (hfirst _ _)
  · exact hfirst _ _

/-! ### What step 1 and step 2 leave of the tables -/

theorem sideEvent_tab {f : Side → State → State} (hf : (f sd s).tab = s.tab) : (sideEvent f sd s).tab = s.tab := by
  unfold sideEvent; dsimp only; split
  · exact (congrArg Still.tab (leadJudge_still _)).trans hf
  · exact hf

theorem bothSides_tab {f : Side → State → State} (hf : ∀ sd s, (f sd s).tab = s.tab) (s : State) :
    (bothSides f s).tab = s.tab := by
  unfold bothSides; split
  · exact (hf _ _).trans (hf _ _)
  · exact (hf _ _).trans (hf _ _)

theorem restartPort_tab (sd : Side) (s : State) : (restartPort sd s).tab = s.tab := recomputeView_tab _

theorem unconfigure_tab (sd : Side) (s : State) : (unconfigure sd s).tab = s.tab := by
  unfold unconfigure; split
  · exact congrArg Still.tab (enterLockout_still _ _ _ _)
  · dsimp only; split
    · exact congrArg Still.tab ((queueRecord_still _ _).trans (immediateCut_still _ _))
    · rfl

theorem toUnconfigured_tab (sd : Side) (s : State) : (toUnconfigured sd s).tab = s.tab := by
  unfold toUnconfigured; split
  case h_1 => exact (restartPort_tab _ _).trans (unconfigure_tab _ _)
  case h_2 => rfl
  case h_3 => rfl
  all_goals exact unconfigure_tab _ _

/-! ### Step 2: the stored lock records -/

theorem applyLock_path (c : Option (Bool × List Octet)) (sd : Side) (s : State) : Path X s (applyLock c sd s) := by
  unfold applyLock; split
  · exact .refl
  · split
    · exact modSide_path rfl (Nat.le_refl _)
    · rename_i c
      have hlock : Path X s (modSide sd (fun r => { r with lock := recordFromCopy c.2 }) s) := modSide_path rfl (Nat.le_refl _)
      dsimp only; split
      · exact hlock.trans (.calm (queueRecord_calm _ _))
      · exact hlock

theorem applyLock_tab (c : Option (Bool × List Octet)) (sd : Side) (s : State) : (applyLock c sd s).tab = s.tab := by
  unfold applyLock; split
  · rfl
  · split
    · rfl
    · dsimp only; split
      · exact congrArg Still.tab (queueRecord_still _ _)
      · rfl

theorem applyLock_stateOf (c : Option (Bool × List Octet)) (x sd : Side) (s : State) :
    stateOf (applyLock c x s) sd = stateOf s sd := by
  have hlock : ∀ l, stateOf (modSide x (fun r => { r with lock := l }) s) sd = stateOf s sd := fun l =>
    (modSide_calm (f := fun r => { r with lock := l }) rfl (Nat.le_refl _)).state sd
  unfold applyLock; split
  · rfl
  · split
    · exact hlock _
    · dsimp only; split
      · exact ((queueRecord_calm _ _).state sd).trans (hlock _)
      · exact hlock _

/-- The lock copies of step 2, at power-on and pin reset. -/
def copyOf (read : Bool) (s : State) (sd : Side) : Option (Bool × List Octet) :=
  if read then newestCopy s.store sd else none

theorem applyLocks_eq (origin : LoaderOrigin) (read : Bool) (s : State) : ∃ notes, applyLocks origin read s =
    onCtl (fun c => { c with notes := notes })
      (if origin = .powerUp then bothSides (fun sd t => applyLock (copyOf read s sd) sd t) s else s) := by
  refine ⟨if read then ⟨copyNote s.store .west, copyNote s.store .east⟩ else ⟨none, none⟩, ?_⟩
  cases origin <;> rfl

theorem applyLocks_path (origin : LoaderOrigin) (read : Bool) (s : State) : Path X s (applyLocks origin read s) := by
  obtain ⟨notes, h⟩ := applyLocks_eq origin read s
  rw [h]
  refine Path.trans ?_ (.calm (onCtl_calm id id))
  split
  · exact bothSides_path (fun sd t => applyLock_path _ sd t) s
  · exact .refl

theorem applyLocks_tab (origin : LoaderOrigin) (read : Bool) (s : State) : (applyLocks origin read s).tab = s.tab := by
  obtain ⟨notes, h⟩ := applyLocks_eq origin read s
  rw [h, onCtl_tab]; split
  · exact bothSides_tab (fun sd t => applyLock_tab _ sd t) s
  · rfl

theorem applyLocks_rests (origin : LoaderOrigin) (read : Bool) (h : NoneActive s) : NoneActive (applyLocks origin read s) := by
  obtain ⟨notes, hlocks⟩ := applyLocks_eq origin read s
  intro sd
  have hboth : stateOf (bothSides (fun x t => applyLock (copyOf read s x) x t) s) sd = stateOf s sd := by
    unfold bothSides; split
    · exact (applyLock_stateOf _ _ _ _).trans (applyLock_stateOf _ _ _ _)
    · exact (applyLock_stateOf _ _ _ _).trans (applyLock_stateOf _ _ _ _)
  rw [hlocks]; split
  · exact (congrArg SideState.active hboth).trans (h sd)
  · exact h sd

/-! ### Step 3: the tables -/

/-- The failure lists of both sides as new tables trim them. -/
theorem trimSides_side (b : Nat) (s : State) : ∃ p, trimSides b s = { s with side := p } ∧ ∀ sd,
    (p.get sd).state = stateOf s sd ∧ (p.get sd).failures.length ≤ (s.side.get sd).failures.length ∧
      (stateOf s sd ≠ .lockout → b ≠ 0 → (p.get sd).failures.length < b) := by
  refine ⟨(trimSides b s).side, rfl, fun sd => ?_⟩
  have hget : (trimSides b s).side.get sd = if (s.side.get sd).budgetHeld then s.side.get sd
      else { s.side.get sd with failures := trimFailures b (s.side.get sd).failures } := by cases sd <;> rfl
  rw [hget]; split
  · rename_i hheld
    refine ⟨rfl, Nat.le_refl _, fun hs => absurd ?_ hs⟩
    exact eq_of_beq (Bool.and_eq_true_iff.mp hheld).1
  · refine ⟨rfl, ?_, fun _ hb => ?_⟩
    · simp only [trimFailures, List.length_drop]; omega
    · simp only [trimFailures, List.length_drop]; omega

theorem setLoadCheck_path (f : Option CheckFailure) (hrest : NoneActive s) (hlaw : X.lawful → s.tab.validated = false) :
    Path X s { s with tab := { s.tab with loadCheck := f } } :=
  .single (.retable (p := s.side) {
    rests := hrest
    state := fun _ => rfl
    failures := fun _ => Nat.le_refl _
    budget := Or.inl rfl
    flag := id
    checks := fun hx hv => absurd ((hlaw hx).symm.trans hv) (by decide)
    shaped := fun _ => id })

theorem takeImage_path (hrest : NoneActive s) (hlaw : X.lawful → s.tab.validated = false) (hl : X.loadFree) :
    Path X s (takeImage s) := by
  have htaken : Path X s (trimSides (hdrBudget (storedTables s.store))
        { s with tab := { s.tab with tables := storedTables s.store, loadCheck := none } }) ∧
      NoneActive (trimSides (hdrBudget (storedTables s.store))
        { s with tab := { s.tab with tables := storedTables s.store, loadCheck := none } }) := by
    obtain ⟨p, hp, htrim⟩ := trimSides_side (hdrBudget (storedTables s.store))
      { s with tab := { s.tab with tables := storedTables s.store, loadCheck := none } }
    rw [hp]
    refine ⟨.single (.retable {
      rests := hrest
      state := fun sd => (htrim sd).1
      failures := fun sd => (htrim sd).2.1
      budget := Or.inr fun sd => (htrim sd).2.2
      flag := id
      checks := fun hx hv => absurd ((hlaw hx).symm.trans hv) (by decide)
      shaped := fun _ _ => storedTables_shaped _ }), fun sd => ?_⟩
    exact (congrArg SideState.active (htrim sd).1).trans (hrest sd)
  unfold takeImage; dsimp only; split
  · rename_i hc; exact htaken.1.trans (validate_path hc (Or.inl hl))
  · exact htaken.1.trans (setLoadCheck_path _ htaken.2 hlaw)

theorem emptyTables_path (hrest : NoneActive s) : Path X s (emptyTables s) := by
  have hget : ∀ sd, (emptyTables s).side.get sd = { s.side.get sd with failures := [] } := fun sd => by cases sd <;> rfl
  refine .single (.retable (p := (emptyTables s).side) {
    rests := hrest
    state := fun sd => by rw [hget]; rfl
    failures := fun sd => by rw [hget]; exact Nat.zero_le _
    budget := Or.inr fun sd _ hb => by rw [hget]; exact Nat.pos_of_ne_zero hb
    flag := fun hv => absurd hv Bool.false_ne_true
    checks := fun _ hv => absurd hv Bool.false_ne_true
    shaped := fun _ _ => emptied_shaped })

theorem takeTables_path (result : LoaderResult) (hrest : NoneActive s) (hlaw : X.lawful → s.tab.validated = false)
    (hl : X.loadFree) : Path X s (takeTables result s) := by
  unfold takeTables; split
  · exact takeImage_path hrest hlaw hl
  · exact emptyTables_path hrest

/-! ### The end of a run -/

theorem takeLogPosition_calm (read : Bool) (s : State) : Calm s (takeLogPosition read s) := by
  unfold takeLogPosition; dsimp only
  exact (nextFree_calm s).trans (onCtl_calm id id)

theorem endRun_calm (origin : LoaderOrigin) (result : LoaderResult) (s : State) : Calm s (endRun origin result s) := by
  have hidle : Calm s (onPdu (fun u => { u with startCut := false })
      (onCtl (fun c => { c with op := .idle, result := result, lastFault := decide (result = .absent) }) s)) :=
    (onCtl_calm id Bool.noConfusion).trans (onPdu_calm rfl rfl)
  unfold endRun; dsimp only; split
  · exact hidle
  · exact hidle
  · exact hidle.trans (respond_calm _ _ _ _ _)

theorem loaderEnd_path (origin : LoaderOrigin) (result : LoaderResult) (read : Bool)
    (hlaw : X.lawful → s.tab.validated = false) : Path X s (loaderEnd origin result read s) := by
  by_cases hfree : X.loadFree
  · have hrest := applyLocks_rests origin read (bothSides_toUnconfigured_rests s)
    have htab : (applyLocks origin read (bothSides (sideEvent toUnconfigured) s)).tab = s.tab :=
      (applyLocks_tab _ _ _).trans (bothSides_tab (fun _ _ => sideEvent_tab (toUnconfigured_tab _ _)) s)
    have htables := takeTables_path result hrest (fun hx => by rw [htab]; exact hlaw hx) hfree
    have hsides := bothSides_sideEvent_path (X := X) toUnconfigured_path s
    exact ((hsides.trans (applyLocks_path _ _ _)).trans htables).trans
      (.calm ((takeLogPosition_calm _ _).trans (endRun_calm _ _ _)))
  · exact .single (.loaderEnd _ _ _ hfree hlaw)

/-! ### The steps of a run -/

theorem setOp_frame (op : StoreOp) (s : State) : LawFrame s (setOp op s) :=
  ⟨⟨id, id, id, id⟩, rfl, rfl, rfl, rfl, rfl, fun _ => rfl, fun _ => Nat.le_refl _⟩

theorem beginRead_path (origin : LoaderOrigin) (step : LoaderStep) (verdict : LoaderResult)
    (hl : X.loadFree ∨ s.ctl.op.isLoading = true) (hlaw : X.lawful → s.tab.validated = false) :
    Path X s (beginRead origin step verdict s) := by
  have hload : Path X (popAck s) (setOp (.loading origin step verdict) (popAck s)) :=
    .single (.frame (setOp_frame _ _) (hl.imp_right fun h _ => h))
  have hfault : Path X (popAck s) (loaderFault origin (popAck s)) := loaderEnd_path origin .absent false hlaw
  unfold beginRead; split
  · exact hload.after (popAck_calm s)
  · exact hfault.after (popAck_calm s)

theorem loaderStart_path (origin : LoaderOrigin) (hrest : X.rested → NoneActive s) : Path X s (loaderStart origin s) := by
  by_cases hfree : X.loadFree
  · have hload : Path X s (setOp (.loading origin .header .noneYet) s) :=
      .single (.frame (setOp_frame _ _) (Or.inl hfree))
    have hclear : Path X (setOp (.loading origin .header .noneYet) s)
        (clearFlag (setOp (.loading origin .header .noneYet) s)) := clearFlag_path hrest
    have hv : (clearFlag (setOp (.loading origin .header .noneYet) s)).tab.validated = false := by
      rw [(clearFlag_fields _).1]
    exact (hload.trans hclear).trans (beginRead_path _ _ _ (Or.inl hfree) fun _ => hv)
  · exact .single (.loaderStart _ hfree hrest)

theorem loaderRead_path (origin : LoaderOrigin) (step : LoaderStep) (verdict : LoaderResult)
    (hl : s.ctl.op.isLoading = true) (hlaw : X.lawful → s.tab.validated = false) :
    Path X s (loaderRead origin step verdict s) := by
  cases step with
  | header => unfold loaderRead; dsimp only; split <;> exact beginRead_path _ _ _ (Or.inr hl) hlaw
  | image => exact beginRead_path _ _ _ (Or.inr hl) hlaw
  | lockArea => exact beginRead_path _ _ _ (Or.inr hl) hlaw
  | log => exact loaderEnd_path _ _ _ hlaw

theorem loaderProgress_path (hlaw : X.lawful → TablesLaw s) : Path X s (loaderProgress s) := by
  unfold loaderProgress; split
  case h_1 hop =>
    have hl : s.ctl.op.isLoading = true := by rw [hop]; rfl
    exact loaderRead_path _ _ _ hl fun hx => (hlaw hx).2 hl
  all_goals exact .refl

end

end Sys2Proof.Machine
end

section
/-! The paths of the requests (chapters 7 to 9). -/

namespace Sys2Proof.Machine

section
variable {X : Premises} {s t u : State} {sd : Side}

/-! ### Judgments -/

theorem reply_path (kind : Octet) (r : Request) (body : List Octet) (s : State) : Path X s (reply kind r body s) :=
  .calm (respond_calm _ _ _ _ _)

/-- A path and then the answer to its request. -/
theorem Path.replied (h : Path X s t) (kind : Octet) (r : Request) (body : List Octet) : Path X s (reply kind r body t) :=
  h.trans (reply_path _ _ _ _)

theorem judgePending_path {kind : Octet} {r : Request} {refusal : Status → List Octet} {rule : State → State}
    (h : Path X s (rule s)) : Path X s (judgePending kind r refusal rule s) := by
  unfold judgePending; split
  · exact h
  · exact reply_path _ _ _ _

theorem judgeModifying_path {kind : Octet} {r : Request} {refusal : Status → List Octet} {rule : State → State}
    (h : Path X s (rule s)) : Path X s (judgeModifying kind r refusal rule s) := by
  unfold judgeModifying; split
  · exact reply_path _ _ _ _
  · exact judgePending_path h

theorem sideRequest_path {kind len : Octet} {r : Request} {rule : Side → State → State}
    (h : ∀ sd, Path X s (rule sd s)) : Path X s (sideRequest kind len r rule s) := by
  unfold sideRequest
  refine judgeModifying_path ?_
  split
  · exact reply_path _ _ _ _
  · split
    · exact reply_path _ _ _ _
    · split
      · exact reply_path _ _ _ _
      · exact h _

/-! ### Read requests -/

theorem reqUnknown_path (kind : Octet) (r : Request) (s : State) : Path X s (reqUnknown kind r s) := reply_path _ _ _ _

theorem reqStatusRead_path (r : Request) (s : State) : Path X s (reqStatusRead r s) := by
  refine judgePending_path ?_
  split
  · exact reply_path _ _ _ _
  · split
    · exact reply_path _ _ _ _
    · exact (reply_path _ _ _ _).after ((nextFree_calm s).trans (nextFree_calm _))

theorem reqSideRead_path (r : Request) (s : State) : Path X s (reqSideRead r s) := by
  refine judgePending_path ?_
  split
  · exact reply_path _ _ _ _
  · split
    · exact reply_path _ _ _ _
    · split
      · exact reply_path _ _ _ _
      · exact (reply_path _ _ _ _).after (Calm.of_fields rfl rfl rfl rfl rfl rfl rfl rfl rfl)

theorem reqMonitorRead_path (r : Request) (s : State) : Path X s (reqMonitorRead r s) := by
  refine judgePending_path ?_
  split
  · exact reply_path _ _ _ _
  · split <;> exact reply_path _ _ _ _

theorem reqEntryRead_path (r : Request) (s : State) : Path X s (reqEntryRead r s) := by
  refine judgePending_path ?_
  dsimp only; split
  · exact reply_path _ _ _ _
  · split <;> exact reply_path _ _ _ _

/-! ### Tables -/

theorem noneActive_of_eitherActive (h : ¬ eitherActive s = true) : NoneActive s := by
  simp only [eitherActive, Bool.or_eq_true, not_or, Bool.not_eq_true] at h
  intro sd; cases sd
  · exact h.1
  · exact h.2

theorem tableShape_size {n count first size : Nat} (h : tableShape n = some (count, first, size)) : size ≤ 18 := by
  unfold tableShape at h; split at h <;> simp_all <;> omega

/-- The entry of an ENTRY-WRITE with a full body has the size its table gives. -/
theorem writtenEntry_length {r : Request} (hb : r.body.length = 23) (n first size : Nat)
    (h : tableShape (octetAt r.body 0).toNat = some (n, first, size)) : (writtenEntry r).length = size := by
  have hsize : entrySize (octetAt r.body 0) = size := by unfold entrySize; rw [h]
  have hle := tableShape_size h
  rw [writtenEntry, hsize, List.length_take, List.length_drop, hb]; omega

theorem hdrBudget_setEntry {table : Nat} (h : table ≠ 1) (t : Tables) (index : Nat) (e : List Octet) :
    hdrBudget (setEntry t table index e) = hdrBudget t := by
  unfold setEntry; split
  case h_1 => exact absurd rfl h
  all_goals rfl

theorem acceptEntry_path {table index : Nat} {e : List Octet} (hrest : NoneActive s)
    (he : X.wellFormed → ∀ n first size, tableShape table = some (n, first, size) → e.length = size) :
    Path X s (acceptEntry table index e s) := by
  have hflag := (clearFlag_fields s).1
  have hv : (clearFlag s).tab.validated = false := by rw [hflag]
  refine (clearFlag_path fun _ => hrest).trans ?_
  have hshape : X.wellFormed → TablesShaped (clearFlag s).tab.tables →
      TablesShaped (setEntry (clearFlag s).tab.tables table index e) := fun hx h => setEntry_shaped h _ _ _ (he hx)
  unfold acceptEntry; dsimp only; split
  · obtain ⟨p, hp, htrim⟩ := trimSides_side (hdrBudget (setEntry (clearFlag s).tab.tables table index e))
      { clearFlag s with
        tab := { (clearFlag s).tab with tables := setEntry (clearFlag s).tab.tables table index e } }
    rw [hp]
    exact .single (.retable {
      rests := clearFlag_rests hrest
      state := fun sd => (htrim sd).1
      failures := fun sd => (htrim sd).2.1
      budget := Or.inr fun sd => (htrim sd).2.2
      flag := id
      checks := fun _ h => absurd (hv.symm.trans h) Bool.false_ne_true
      shaped := hshape })
  · rename_i htable
    exact .single (.retable (p := (clearFlag s).side) {
      rests := clearFlag_rests hrest
      state := fun _ => rfl
      failures := fun _ => Nat.le_refl _
      budget := Or.inl (hdrBudget_setEntry htable _ _ _)
      flag := id
      checks := fun _ h => absurd (hv.symm.trans h) Bool.false_ne_true
      shaped := hshape })

theorem reqEntryWrite_path {r : Request} (hw : X.wellFormed → r.body.length = 23) (s : State) :
    Path X s (reqEntryWrite r s) := by
  refine judgeModifying_path ?_
  unfold judgeEntry; dsimp only; split
  · exact reply_path _ _ _ _
  · split
    · exact reply_path _ _ _ _
    · rename_i hactive
      split
      · exact reply_path _ _ _ _
      · split
        · exact reply_path _ _ _ _
        · split
          · exact reply_path _ _ _ _
          · exact (acceptEntry_path (noneActive_of_eitherActive hactive) fun hx => writtenEntry_length (hw hx)).replied _ _ _

theorem reqTablesCheck_path (r : Request) (s : State) : Path X s (reqTablesCheck r s) := by
  refine judgeModifying_path ?_
  split
  · exact reply_path _ _ _ _
  · split
    · exact reply_path _ _ _ _
    · rename_i hload
      split
      · exact reply_path _ _ _ _
      · rename_i hc; exact (validate_path hc (Or.inr (Bool.eq_false_iff.mpr hload))).replied _ _ _

/-! ### Hold and side requests -/

theorem holdRequest_path (kind : Octet) (b : Bool) (r : Request) (s : State) : Path X s (holdRequest kind b r s) := by
  refine judgeModifying_path ?_
  split
  · exact reply_path _ _ _ _
  · exact (setHoldRequest_path b s).replied _ _ _

theorem shutSide_path (sd : Side) (s : State) : Path X s (shutSide sd s) := by
  unfold shutSide; split
  case h_1 h => exact enterStepdown_path h
  case h_8 => exact .refl
  case h_9 => exact .refl
  case h_10 => exact .refl
  all_goals exact enterLockout_path _ _ _ _

theorem reqSideShut_path (r : Request) (s : State) : Path X s (reqSideShut r s) :=
  sideRequest_path fun sd => (sideEvent_path (shutSide_path sd s)).replied _ _ _

theorem lockSide_path (sd : Side) (s : State) : Path X s (lockSide sd s) := by
  unfold lockSide; split
  case h_1 => exact .refl
  case h_2 => exact .refl
  all_goals exact enterLockout_path _ _ _ _

theorem reqSideLock_path (r : Request) (s : State) : Path X s (reqSideLock r s) :=
  sideRequest_path fun sd => (sideEvent_path (lockSide_path sd s)).replied _ _ _

theorem reqUnlockArm_path (r : Request) (s : State) : Path X s (reqUnlockArm r s) := by
  refine sideRequest_path fun sd => ?_
  have harm : Path X s (armSide r.source sd s) := modSide_path rfl (Nat.le_refl _)
  split
  · exact reply_path _ _ _ _
  · split
    · exact reply_path _ _ _ _
    · exact harm.replied _ _ _

theorem releaseSide_path (hl : s.pdu.latch = false) (h : stateOf s sd = .lockout) : Path X s (releaseSide sd s) := by
  have hfree : Path X s (modSide sd SideRecord.released s) := modSide_path rfl (Nat.zero_le _)
  have hstate : stateOf (modSide sd SideRecord.released s) sd = .lockout := (stateOf_setSide _ _ _).trans h
  have hempty : ((modSide sd SideRecord.released s).side.get sd).failures = [] := by
    rw [modSide_side, Sides.get_set]; rfl
  have hdark : Path X (modSide sd SideRecord.released s)
      (enterDark sd (tripRest s) (modSide sd SideRecord.released s)) :=
    enterDark_path _ (by rw [hstate]; rfl) (fun hlatch => absurd (hl.symm.trans hlatch) Bool.false_ne_true) fun _ => hempty
  exact (hfree.trans hdark).trans (.calm (queueRecord_calm _ _))

theorem reqUnlockConfirm_path (r : Request) (s : State) : Path X s (reqUnlockConfirm r s) := by
  refine sideRequest_path fun sd => ?_
  split
  · exact reply_path _ _ _ _
  · rename_i hlatch
    split
    · exact reply_path _ _ _ _
    · rename_i hlocked
      exact (sideEvent_path (releaseSide_path (Bool.eq_false_iff.mpr hlatch)
        (not_not.mp (not_or.mp hlocked).1))).replied _ _ _

/-! ### Store requests and PART-RESET -/

theorem reqStoreCommit_path (r : Request) (s : State) : Path X s (reqStoreCommit r s) := by
  refine judgeModifying_path ?_
  split
  · exact reply_path _ _ _ _
  · split
    · exact reply_path _ _ _ _
    · split
      · exact reply_path _ _ _ _
      · split
        · exact reply_path _ _ _ _
        · exact .calm (beginCommitPage_calm _ _ _)

theorem reqStoreReload_path (r : Request) (s : State) : Path X s (reqStoreReload r s) := by
  refine judgeModifying_path ?_
  split
  · exact reply_path _ _ _ _
  · split
    · exact reply_path _ _ _ _
    · split
      · exact reply_path _ _ _ _
      · rename_i hactive; exact loaderStart_path _ fun _ => noneActive_of_eitherActive hactive

theorem beginLogRead_calm (r : Request) (s : State) : Calm s (beginLogRead r s) := by
  have hfault : Calm (popAck s) (onCtl (fun c => { c with lastFault := true }) (popAck s)) := onCtl_calm id id
  unfold beginLogRead; split
  · exact (popAck_calm s).trans (setOp_calm Bool.noConfusion)
  · exact ((popAck_calm s).trans hfault).trans (respond_calm _ _ _ _ _)

theorem reqLogRead_path (r : Request) (s : State) : Path X s (reqLogRead r s) := by
  refine judgePending_path ?_
  split
  · exact reply_path _ _ _ _
  · split
    · exact reply_path _ _ _ _
    · split
      · exact reply_path _ _ _ _
      · exact .calm (beginLogRead_calm r s)

theorem acceptReset_calm (r : Request) (s : State) : Calm s (acceptReset r s) :=
  (onMsg_calm id).trans (routeResponse_calm _ _)

theorem reqPartReset_path (r : Request) (s : State) : Path X s (reqPartReset r s) := by
  refine judgeModifying_path ?_
  split
  · exact reply_path _ _ _ _
  · split
    · exact reply_path _ _ _ _
    · exact .calm (acceptReset_calm r s)

/-- A request of any kind, by its rule. -/
theorem handleRequest_path (kind : Octet) {r : Request} (hw : X.wellFormed → r.body.length = 23) (s : State) :
    Path X s (handleRequest kind r s) := by
  unfold handleRequest; split
  · exact reqStatusRead_path r s
  · exact reqSideRead_path r s
  · exact reqMonitorRead_path r s
  · exact reqEntryRead_path r s
  · exact reqEntryWrite_path hw s
  · exact reqTablesCheck_path r s
  · exact holdRequest_path 7 true r s
  · exact holdRequest_path 8 false r s
  · exact reqSideShut_path r s
  · exact reqSideLock_path r s
  · exact reqUnlockArm_path r s
  · exact reqUnlockConfirm_path r s
  · exact reqStoreCommit_path r s
  · exact reqStoreReload_path r s
  · exact reqLogRead_path r s
  · exact reqPartReset_path r s
  · exact reqUnknown_path kind r s

end

end Sys2Proof.Machine
end

section
/-! The paths of the line units, the local port and the resets (chapters 1, 3, 7 and 9). -/

namespace Sys2Proof.Machine

section
variable {X : Premises} {s t u : State} {sd : Side}

/-! ### Arrivals -/

theorem queueDeparture_calm (tx : Side) (d : Departure) (s : State) : Calm s (queueDeparture tx d s) := by
  unfold queueDeparture; split
  · exact Calm.refl s
  · exact modTx_calm _ _ _

/-- The condition that follows a score keeps the law of R8, whatever the condition was. -/
theorem conditionFor_law (c : PortCondition) (n : Nat) :
    (n = 255 → conditionFor c n = .withdrawn) ∧ (n = 0 → conditionFor c n ≠ .withdrawn) := by
  cases c with
  | withdrawn => exact ⟨fun h => by subst h; rfl, fun h => by subst h; decide⟩
  | clear => exact ⟨fun h => by subst h; rfl, fun h => by subst h; decide⟩
  | degraded => exact ⟨fun h => by subst h; rfl, fun h => by subst h; decide⟩

theorem afterInvalid_law (w : Bool) (r : PortRecord) : PortLaw (r.afterInvalid w) := conditionFor_law _ _

theorem afterValid_law (threshold : Nat) (f : Frame) (r : PortRecord) : PortLaw (r.afterValid threshold f) := by
  unfold PortRecord.afterValid; dsimp only; split <;> exact conditionFor_law _ _

theorem judgeWithdrawn_path (old new : PortCondition) (s : State) : Path X s (judgeWithdrawn old new s) := by
  unfold judgeWithdrawn; split
  · exact leadJudge_path s
  · exact .refl

theorem invalidArrival_path (port : Side) (w : Bool) (s : State) : Path X s (invalidArrival port w s) := by
  have hscore : ∀ old new, Path X s (sideEvent (conditionEvent old new) port
      (setPort port ((s.ports.get port).afterInvalid w) s)) := fun old new =>
    (sideEvent_path (conditionEvent_path _ _ _ _)).after (setPort_calm fun _ => afterInvalid_law _ _)
  unfold invalidArrival; dsimp only
  have hneighbour : ∀ {s1} (b : Bool), Path X s s1 →
      Path X s (if b then sideEvent (tripEvent .neighbour) port s1 else s1) := by
    intro s1 b h; split
    · exact h.trans (sideEvent_path (tripEvent_path _ _ _))
    · exact h
  split
  · exact (hneighbour _ (hscore _ _)).trans (judgeWithdrawn_path _ _ _)
  · exact ((hneighbour _ (hscore _ _)).trans (judgeWithdrawn_path _ _ _)).trans (.calm (queueDeparture_calm _ _ _))

theorem judgeSlot_path {m : Message} (hm : m.body.length = 23) (s : State) : Path X s (judgeSlot m s) := by
  unfold judgeSlot; split
  · exact .refl
  · split
    · split
      · exact handleRequest_path _ (fun _ => hm) s
      · exact .calm (onMsg_calm (deliver_queues _ _))
    · split
      · split
        · exact .refl
        · exact filterNotice_path _ _
      · exact .refl

theorem handOne_path (port : Side) {f : Frame} (hf : f.slot.body.length = 23) (h : HandOn) (s : State) :
    Path X s (handOne port f h s) := by
  cases h with
  | report => exact sideEvent_path (farReport_path _ _ _)
  | view => exact leadJudge_path s
  | holdSet => exact takeHoldSet_path port s
  | slot => exact judgeSlot_path hf s

theorem foldl_path {α : Type} {f : State → α → State} (h : ∀ s a, Path X s (f s a)) (l : List α) (s : State) :
    Path X s (l.foldl f s) := by
  induction l generalizing s with
  | nil => exact .refl
  | cons a l ih => exact (h s a).trans (ih _)

theorem handAll_path (port : Side) {f : Frame} (hf : f.slot.body.length = 23) (s : State) : Path X s (handAll port f s) :=
  foldl_path (fun s h => handOne_path port hf h s) _ s

theorem validArrival_path (port : Side) {f : Frame} (hf : f.slot.body.length = 23) (s : State) :
    Path X s (validArrival port f s) := by
  have hscore : ∀ old new, Path X s (sideEvent (conditionEvent old new) port
      (setPort port ((s.ports.get port).afterValid (lossThreshold s) f) s)) := fun old new =>
    (sideEvent_path (conditionEvent_path _ _ _ _)).after (setPort_calm fun _ => afterValid_law _ _ _)
  have hdark : ∀ {s1} (b : Bool), Path X s s1 → Path X s (if b then sideEvent judgeDark port s1 else s1) := by
    intro s1 b h; split
    · exact h.trans (sideEvent_path (judgeDark_path _ _))
    · exact h
  unfold validArrival; dsimp only; split
  · exact (hdark _ (hscore _ _)).trans (judgeWithdrawn_path _ _ _)
  · exact ((hdark _ (hscore _ _)).trans (handAll_path port hf _)).trans (.calm (queueDeparture_calm _ _ _))

theorem messageOf_body_length (l : List Octet) : (messageOf l).body.length = 23 := by
  simp [messageOf, padTo]

theorem takeArrival_path (port : Side) (l : List Octet) (s : State) : Path X s (takeArrival port l s) := by
  unfold takeArrival; split
  · exact .refl
  · split
    · exact invalidArrival_path _ _ _
    · exact invalidArrival_path _ _ _
    · exact validArrival_path port (messageOf_body_length _) s

theorem enterLoss_path (port : Side) (s : State) : Path X s (enterLoss port s) := by
  have hlost : Calm s (setPort port (s.ports.get port).lost s) := setPort_calm id
  unfold enterLoss; split
  · exact Path.after ((sideEvent_path (tripEvent_path _ _ _)).trans (leadJudge_path _)) hlost
  · exact .refl

/-! ### Departures -/

theorem frameDue_calm (tx : Side) (s : State) : Calm s (frameDue tx s) := by
  unfold frameDue; split
  · exact queueDeparture_calm _ _ _
  · exact Calm.refl s

theorem depart_calm (tx : Side) (s : State) : Calm s (depart tx s) := by
  unfold depart; split
  · exact Calm.refl s
  · split
    · exact Calm.refl s
    · exact ((nextFree_calm s).trans (onMsg_calm (afterInsert_queues _ _ _))).trans (modTx_calm _ _ _)

/-! ### The local port -/

theorem loc_calm (l : LocalPort) (s : State) : Calm s { s with loc := l } :=
  Calm.of_fields rfl rfl rfl rfl rfl rfl rfl rfl rfl

theorem localAnswer_calm (kind tag : Octet) (st : Status) (s : State) : Calm s (localAnswer kind tag st s) :=
  onMsg_calm (deliver_queues _ _)

theorem forwardLocal_calm (m : Message) (s : State) : Calm s (forwardLocal m s) := by
  unfold forwardLocal; dsimp only; split
  · exact localAnswer_calm _ _ _ _
  · split
    · exact onMsg_calm (joinMessage_queues _ _ _)
    · exact localAnswer_calm _ _ _ _

theorem framingError_calm (s : State) : Calm s (framingError s) :=
  (loc_calm _ s).trans (onMsg_calm (QueuesKept.of_out rfl))

theorem localMessage_path {m : Message} (hm : m.body.length = 23) (s : State) : Path X s (localMessage m s) := by
  unfold localMessage; split
  · exact .calm (onMsg_calm (QueuesKept.of_out rfl))
  · split
    · exact .calm (localAnswer_calm _ _ _ _)
    · split
      · exact handleRequest_path _ (fun _ => by rw [taken_body]; exact hm) s
      · exact .calm (forwardLocal_calm _ _)

theorem localFrame_path (l : List Octet) (s : State) : Path X s (localFrame l s) := by
  unfold localFrame; split
  · exact (localMessage_path (messageOf_body_length l) _).after (loc_calm _ s)
  · exact .calm (framingError_calm s)

theorem applyRate_calm (s : State) : Calm s (applyRate s) := by
  unfold applyRate; split
  · exact loc_calm _ s
  · exact Calm.refl s

theorem takeOctet_path (s : State) (o : Octet) : Path X s (takeOctet s o) := by
  unfold takeOctet; split
  · split
    · exact .calm ((applyRate_calm s).trans (loc_calm _ _))
    · exact .refl
  · split
    · exact .calm (loc_calm _ s)
    · exact localFrame_path _ s

theorem takeOctets_path (l : List Octet) (s : State) : Path X s (takeOctets l s) := foldl_path takeOctet_path l s

theorem abandonReception_calm (s : State) : Calm s (abandonReception s) := by
  unfold abandonReception; split
  · exact Calm.refl s
  · exact framingError_calm s

theorem localSend_calm (s : State) : Calm s (localSend s) := by
  unfold localSend; split
  · exact Calm.refl s
  · exact (applyRate_calm s).trans ((loc_calm _ _).trans (onMsg_calm (.of_out (releaseReset_out _ _))))

/-! ### Power and pin reset -/

theorem store_calm {m : Memory} (h : Memory.wf s.store = true → Memory.wf m = true) : Calm s { s with store := m } :=
  ⟨⟨⟨h, id, id, id⟩, rfl, rfl, rfl, rfl, rfl, fun _ => rfl, fun _ => Nat.le_refl _⟩, id⟩

theorem cutOff_calm (left : Residue) (s : State) : Calm s (cutOff left s) := by
  unfold cutOff; split
  · exact Calm.refl s
  · split
    · exact Calm.refl s
    · exact store_calm fun h => Memory.writeOctets_wf h

theorem startUp_path (pins : PinLevels) (left : Residue) (s : State) : Path X s (startUp pins left s) := by
  have hreset : Path X (cutOff left s) (resetState pins (cutOff left s)) := .single (.restart pins)
  exact (hreset.trans (loaderStart_path _ fun _ sd => by cases sd <;> rfl)).after (cutOff_calm left s)

theorem losePower_calm (left : Residue) (s : State) : Calm s (losePower left s) := by
  have hlines : Calm s (modTx .west (fun x => { x with line := none })
      (modTx .east (fun x => { x with line := none }) (cutOff left s))) :=
    ((cutOff_calm left s).trans (modTx_calm _ _ _)).trans (modTx_calm _ _ _)
  refine hlines.trans ?_
  exact ⟨⟨⟨id, id, id, id⟩, rfl, rfl, rfl, rfl, rfl, fun _ => rfl, fun _ => Nat.le_refl _⟩, Bool.noConfusion⟩

/-! ### The route reset -/

/-- The pumps of a side that lights are dark. -/
def CutDark (sd : Side) (s : State) : Prop :=
  (stateOf s sd).lights = true → ∀ n ∈ pumpsUp s.tab sd, driveOf s.pdu n = 0

theorem resetCut_path (sd : Side) (s : State) : Path X s (resetCut sd s) := by
  unfold resetCut; split
  · exact (immediateCut_path sd s).trans (.calm (queueRecord_calm _ _))
  · exact .refl

theorem resetCut_side (sd : Side) (s : State) : (resetCut sd s).side = s.side := by
  unfold resetCut; split
  · rw [queueRecord_side, immediateCut_side]
  · rfl

theorem resetCut_darker (sd : Side) (s : State) : Darker s.pdu (resetCut sd s).pdu := by
  unfold resetCut; split
  · rw [queueRecord_pdu]; exact immediateCut_darker sd s
  · exact Darker.refl _

theorem resetCut_tab (sd : Side) (s : State) : (resetCut sd s).tab = s.tab := congrArg Still.tab (resetCut_still sd s)

theorem resetCut_cut (sd : Side) (s : State) : CutDark sd (resetCut sd s) := by
  intro hl n hn
  have hlights : (stateOf s sd).lights = true := by rw [← hl]; unfold stateOf; rw [resetCut_side]
  rw [resetCut_tab] at hn
  rw [resetCut, if_pos hlights, queueRecord_pdu]; exact immediateCut_dark sd s hn

theorem CutDark.resetCut {x : Side} (h : CutDark sd s) : CutDark sd (resetCut x s) := by
  intro hl n hn
  have hlights : (stateOf s sd).lights = true := by rw [← hl]; unfold stateOf; rw [resetCut_side]
  rw [resetCut_tab] at hn
  exact (resetCut_darker x s).zero (h hlights n hn)

theorem resetSide_pdu (sd : Side) (s : State) : (resetSide sd s).pdu = s.pdu := by
  unfold resetSide; dsimp only; split
  · rw [queueRecord_pdu]; rfl
  · rfl

theorem resetSide_side (sd : Side) (s : State) :
    (resetSide sd s).side = s.side.set sd (SideRecord.routeReset s.pdu.latch (s.side.get sd)) := by
  unfold resetSide; dsimp only; split
  · rw [queueRecord_side]; rfl
  · rfl

theorem resetSide_stateOf_ne {x : Side} (h : x ≠ sd) (s : State) : stateOf (resetSide sd s) x = stateOf s x := by
  unfold stateOf; rw [resetSide_side, Sides.get_set_ne _ _ _ _ h]

theorem CutDark.resetSide {x : Side} (hx : sd ≠ x) (h : CutDark sd s) : CutDark sd (resetSide x s) := by
  intro hl n hn
  rw [resetSide_stateOf_ne hx] at hl
  rw [show (Machine.resetSide x s).tab = s.tab from congrArg Still.tab (resetSide_still x s)] at hn
  rw [resetSide_pdu]; exact h hl n hn

theorem SideRecord.routeReset_state (latch : Bool) (r : SideRecord) : (r.routeReset latch).state =
    if r.state = .lockout ∨ latch = true then .lockout else .unconfigured := by
  unfold SideRecord.routeReset; dsimp only
  by_cases hs : r.state = .lockout
  · rw [if_pos hs, if_pos (Or.inl hs)]; exact hs
  · cases latch with
    | true => rw [if_neg hs, if_pos rfl, if_pos (Or.inr rfl)]
    | false => rw [if_neg hs, if_neg Bool.false_ne_true, if_neg (by simp [hs])]

theorem SideRecord.routeReset_failures (latch : Bool) (r : SideRecord) :
    (r.routeReset latch).failures.length ≤ r.failures.length := by
  unfold SideRecord.routeReset; dsimp only; split
  · exact Nat.le_refl _
  · split
    · exact Nat.le_refl _
    · exact Nat.zero_le _

theorem SideRecord.routeReset_inactive (latch : Bool) (r : SideRecord) : (r.routeReset latch).state.active = false := by
  rw [SideRecord.routeReset_state]; split <;> rfl

theorem routeReset_retires (sd : Side) (s : State) :
    Retires sd (SideRecord.routeReset s.pdu.latch (s.side.get sd)) s := by
  refine .quiet (SideRecord.routeReset_inactive _ _) (fun hl _ => Or.inl ?_) (SideRecord.routeReset_failures _ _)
    fun hl hne => absurd ?_ hne
  · rw [SideRecord.routeReset_state, if_pos (Or.inr hl)]
  · have hs : (s.side.get sd).state = .lockout := hl
    rw [SideRecord.routeReset_state, if_pos (Or.inl hs)]

theorem resetSide_path (h : CutDark sd s) : Path X s (resetSide sd s) := by
  have hmoved : Path X s (modSide sd (SideRecord.routeReset s.pdu.latch) s) :=
    .single (.retire (routeReset_retires sd s) h)
  unfold resetSide; dsimp only; split
  · exact hmoved.trans (.calm (queueRecord_calm _ _))
  · exact hmoved

/-- Steps 1 to 5 of R81 at both sides, and no side is left active. -/
theorem resetSides_path (s : State) : Path X s (bothSides resetSide (bothSides resetCut s)) ∧
    NoneActive (bothSides resetSide (bothSides resetCut s)) := by
  have hcuts : ∀ sd, CutDark sd (bothSides resetCut s) := by
    intro sd; unfold bothSides; split <;> cases sd
    · exact resetCut_cut _ _
    · exact (resetCut_cut _ _).resetCut
    · exact (resetCut_cut _ _).resetCut
    · exact resetCut_cut _ _
  have hdown : ∀ x s, (stateOf (resetSide x s) x).active = false := fun x s => by
    unfold stateOf; rw [resetSide_side, Sides.get_set]; exact SideRecord.routeReset_inactive _ _
  have hother : ∀ {x y} s, y ≠ x → (stateOf s y).active = false → (stateOf (resetSide x s) y).active = false :=
    fun s hy h => by rw [resetSide_stateOf_ne hy]; exact h
  have hcut : Path X s (bothSides resetCut s) := bothSides_path resetCut_path s
  generalize bothSides resetCut s = v at hcuts hcut
  refine ⟨hcut.trans ?_, fun sd => ?_⟩
  · unfold bothSides; split
    · exact (resetSide_path (hcuts _)).trans (resetSide_path ((hcuts _).resetSide (by decide)))
    · exact (resetSide_path (hcuts _)).trans (resetSide_path ((hcuts _).resetSide (by decide)))
  · unfold bothSides; split <;> cases sd
    · exact hdown _ _
    · exact hother _ (by decide) (hdown _ _)
    · exact hother _ (by decide) (hdown _ _)
    · exact hdown _ _

theorem portLaw_reset : PortLaw PortRecord.reset := ⟨by decide, by decide⟩

theorem resetBlocks_path (h : NoneActive s) : Path X s (resetBlocks s) := by
  have hview : Path X s { s with
      hold := { HoldUnit.reset with own := s.lines.hold, view := if s.lines.hold then ownBit s else 0 } } :=
    .single (.hold _ (Or.inr fun _ => Or.inr h))
  refine hview.trans (.calm ?_)
  exact ⟨⟨⟨id, fun _ sd => by cases sd <;> exact portLaw_reset,
    fun _ sd => by cases sd <;> exact queueLaw_empty, id⟩, rfl, rfl, rfl, rfl, rfl, fun _ => rfl, fun _ => Nat.le_refl _⟩, id⟩

theorem drainOp_not_loading (op : StoreOp) : (drainOp op).isLoading = false := by cases op <;> rfl

theorem routeResetNow_path (s : State) : Path X s (routeResetNow s) := by
  have hdrain : Calm s (onCtl (fun c => { c with op := drainOp c.op, draining := true }) s) :=
    onCtl_calm id fun h => absurd ((drainOp_not_loading _).symm.trans h) Bool.false_ne_true
  unfold routeResetNow; split
  · obtain ⟨hsides, hrest⟩ := resetSides_path (X := X)
      (onCtl (fun c => { c with op := drainOp c.op, draining := true }) s)
    exact (hsides.trans (resetBlocks_path hrest)).after hdrain
  · exact .refl

theorem startAfterDrain_path (hr : X.rested → s.ctl.draining = true → NoneActive s) : Path X s (startAfterDrain s) := by
  unfold startAfterDrain; split
  · rename_i h
    simp only [Bool.and_eq_true] at h
    obtain ⟨⟨⟨hdrain, -⟩, -⟩, -⟩ := h
    have hlost : Calm s (onCtl (fun c => { c with draining := false, lost := 0 }) s) :=
      onCtl_calm (fun ⟨hlen, hone, _⟩ => ⟨hlen, hone, Nat.zero_le _⟩) id
    have hstart : Path X (onCtl (fun c => { c with draining := false, lost := 0 }) s)
        (loaderStart .routeReset (onCtl (fun c => { c with draining := false, lost := 0 }) s)) :=
      loaderStart_path _ fun hx => hr hx hdrain
    exact hstart.after hlost
  · exact .refl

end

end Sys2Proof.Machine
end

section
/-! The paths of the timers, the scans, the extinction fault and the store's events (chapters 3, 5, 8 and 9), and with them
the path of every command and every step. -/

namespace Sys2Proof.Machine

section
variable {X : Premises} {s t u : State} {sd : Side}

/-! ### Uptime and side timers -/

theorem tickSecond_calm (s : State) : Calm s (tickSecond s) := Calm.of_fields rfl rfl rfl rfl rfl rfl rfl rfl rfl

theorem ageFailures_length (uptime : Word32) (w : Nat) (l : List Word32) : (ageFailures uptime w l).length ≤ l.length := by
  induction l with
  | nil => exact Nat.le_refl _
  | cons x l ih =>
    unfold ageFailures; split
    · exact ih.trans (Nat.le_succ _)
    · exact Nat.le_refl _

theorem ageSide_calm (sd : Side) (s : State) : Calm s (ageSide sd s) := by
  have htaken : Calm s { s with time := { s.time with second := s.time.second.set sd false } } :=
    Calm.of_fields rfl rfl rfl rfl rfl rfl rfl rfl rfl
  unfold ageSide; split
  · refine htaken.trans (modSide_calm ?_ ?_)
    · dsimp only; split <;> rfl
    · dsimp only; split
      · exact Nat.le_refl _
      · exact ageFailures_length _ _ _
  · exact Calm.refl s

theorem retryExpired_path (sd : Side) (s : State) : Path X s (retryExpired sd s) := by
  have hretry : Calm s (modSide sd (fun r => { r with retry := none }) s) := modSide_calm rfl (Nat.le_refl _)
  unfold retryExpired; split
  · exact (judgeDark_path _ _).after hretry
  · exact .refl

theorem settleExpired_path (sd : Side) (s : State) : Path X s (settleExpired sd s) := by
  have hsettle : Calm s (modSide sd (fun r => { r with settle := none }) s) := modSide_calm rfl (Nat.le_refl _)
  unfold settleExpired; split
  · exact (judgeReady_path _ _).after hsettle
  · exact .refl

theorem probeExpired_path (sd : Side) (s : State) : Path X s (probeExpired sd s) := by
  unfold probeExpired; split
  · rename_i h; exact tripLit_path _ (by simp [h.2])
  · exact .refl

theorem stepExpired_path (sd : Side) (s : State) : Path X s (stepExpired sd s) := by
  unfold stepExpired; split
  · rename_i h; exact tripLit_path _ (by simp [h.2])
  · exact .refl

theorem setTripLine_calm (sd : Side) (b : Bool) (s : State) : Calm s (setTripLine sd b s) :=
  Calm.of_fields rfl rfl rfl rfl rfl rfl rfl rfl rfl

theorem assertTrip_path (sd : Side) (s : State) : Path X s (assertTrip sd s) := by
  unfold assertTrip; split
  · exact .refl
  · exact (sideEvent_path (tripEvent_path _ _ _)).after (setTripLine_calm _ _ _)

theorem releaseTrip_path (sd : Side) (s : State) : Path X s (releaseTrip sd s) := by
  unfold releaseTrip; split
  · exact (sideEvent_path (judgeDark_path _ _)).after (setTripLine_calm _ _ _)
  · exact .refl

/-! ### Scans -/

theorem scan_calm (c : Scanner) (s : State) : Calm s { s with scan := c } :=
  Calm.of_fields rfl rfl rfl rfl rfl rfl rfl rfl rfl

theorem endScan_calm (n : Fin 8) (s : State) : Calm s (endScan n s) := by
  have hlate : ∀ sd s, Calm s (modSide sd (fun r => { r with late := false }) s) := fun _ _ =>
    modSide_calm rfl (Nat.le_refl _)
  unfold endScan; split
  · exact (hlate _ _).trans (hlate _ _)
  · exact Calm.refl s

theorem judgeChecks_path (n : Nat) (raw : Word16) (s : State) : Path X s (judgeChecks n raw s) := by
  have hjudged : Calm s (onPdu (fun u => { u with checks := u.checks.map (judgeCheck n raw) }) s) := onPdu_calm rfl rfl
  exact (bothSides_sideEvent_path (stepdownPassed_path _) _).after hjudged

theorem rearmed_path {v : Word16} : Path X s (if inRearm s sd then sideEvent (rearmScan v) sd s else s) := by
  split
  · rename_i h
    simp only [inRearm, Bool.and_eq_true, beq_iff_eq] at h
    exact sideEvent_path (rearmScan_path v h.1.1)
  · exact .refl

theorem inputResult_path (n : Nat) (v : Word16) (sd : Side) (s : State) : Path X s (inputResult n v sd s) := by
  unfold inputResult; dsimp only
  refine Path.trans (.calm (scan_calm { s.scan with dark := s.scan.dark.set n (darkAfter (spanOf s sd)
    (hdrHoldOff s.tab.tables) v (s.scan.dark.getD n ⟨false, 0⟩)) } s)) ?_
  split
  · exact sideEvent_path (darkBegun_path _ _)
  · exact sideEvent_path (darkEnded_path _ _)
  · exact rearmed_path
  · exact .refl

theorem consumeResult_path (n : Nat) (v : Word16) (s : State) : Path X s (consumeResult n v s) := by
  unfold consumeResult; split
  · exact .refl
  · split
    · exact sideEvent_path (outputScan_path _ _ _ _)
    · exact inputResult_path _ _ _ _

theorem scanResult_path (reading : Word16) (s : State) : Path X s (scanResult reading s) := by
  have hstored : Calm s (endScan s.scan.next (storeResult s.scan.next (scanValue s s.scan.next.val reading) s)) :=
    (scan_calm _ s).trans (endScan_calm _ _)
  unfold scanResult; dsimp only
  exact Path.after ((judgeChecks_path _ _ _).trans (consumeResult_path _ _ _)) hstored

theorem completeScan_path (s : State) : Path X s (completeScan s) := by
  unfold completeScan; split
  · exact (bothSides_sideEvent_path scanCompleted_path _).after (scan_calm _ s)
  · exact .refl

theorem extinctionFault_path (n : Nat) (s : State) : Path X s (extinctionFault n s) := by
  by_cases hfree : X.latchFree
  · unfold extinctionFault; split
    · exact .refl
    · have hlatch : Path X (nextFree s) (onPdu PumpUnit.cut (nextFree s)) := .single (.latch hfree)
      dsimp only
      refine ((hlatch.trans (.calm ((queueRecord_calm _ _).trans (sendNotice_calm (Or.inl rfl) _ _ _ _)))).trans
        (bothSides_path cutEvent_path _)).after (nextFree_calm s)
  · exact .single (.extinct n hfree)

/-! ### The Store Controller's events -/

theorem mapWrite_isLoading (f : PageWrite → PageWrite) (op : StoreOp) : (mapWrite f op).isLoading = op.isLoading := by
  unfold mapWrite; split <;> rfl

theorem mapWrite_calm (f : PageWrite → PageWrite) (s : State) : Calm s (setOp (mapWrite f s.ctl.op) s) :=
  setOp_calm (by rw [mapWrite_isLoading]; exact id)

theorem acknowledgeWrite_calm (w : PageWrite) (s : State) : Calm s (acknowledgeWrite w s) :=
  (mapWrite_calm _ s).trans (store_calm fun h => Memory.writeOctets_wf h)

theorem leaveResidue_calm (left : Residue) (s : State) : Calm s (leaveResidue left s) := by
  unfold leaveResidue; split
  · exact Calm.refl s
  · split
    · exact Calm.refl s
    · exact store_calm fun h => Memory.writeOctets_wf h

theorem recordResidue_calm (r : StoreRecord) (left : Residue) (s : State) : Calm s (recordResidue r left s) := by
  unfold recordResidue; dsimp only; split
  · exact leaveResidue_calm _ _
  · split
    · exact leaveResidue_calm _ _
    · exact Calm.refl s

theorem faultResidue_calm (left : Residue) (s : State) : Calm s (faultResidue left s) := by
  unfold faultResidue; split
  case h_1 =>
    split
    · exact leaveResidue_calm _ _
    · split
      · exact leaveResidue_calm _ _
      · exact Calm.refl s
  case h_2 => exact recordResidue_calm _ _ _
  case h_3 => exact recordResidue_calm _ _ _
  all_goals exact Calm.refl s

theorem lostRecord_calm (r : StoreRecord) (s : State) : Calm s (startRecords s.ctl.queue (onCtl (faultRecord r) s)) :=
  Calm.trans (onCtl_calm (faultRecord_law r) (by rw [faultRecord_op]; exact id)) (startRecords_calm (faultRecord_queue r _))

theorem faultWrite_calm (s : State) : Calm s (faultWrite s) := by
  unfold faultWrite; split
  case h_1 => exact failCommit_calm _ _ _
  case h_2 => exact lostRecord_calm _ _
  case h_3 => exact lostRecord_calm _ _
  all_goals exact Calm.refl s

theorem pageTimer_calm (acked : Bool) (s : State) : Calm s (pageTimer acked s) := by
  unfold pageTimer; split
  · exact Calm.refl s
  · split
    · exact Calm.refl s
    · split
      · exact acknowledgeWrite_calm _ _
      · exact mapWrite_calm _ _

theorem repeatAddress_calm (acked : Bool) (left : Residue) (s : State) : Calm s (repeatAddress acked left s) := by
  unfold repeatAddress; split
  · exact Calm.refl s
  · split
    · exact Calm.refl s
    · split
      · exact acknowledgeWrite_calm _ _
      · split
        · exact mapWrite_calm _ _
        · exact (faultResidue_calm _ _).trans (faultWrite_calm _)

theorem commitPageDone_calm (s : State) : Calm s (commitPageDone s) := by
  unfold commitPageDone; split
  case h_1 =>
    split
    · exact Calm.refl s
    · split
      · exact finishCommit_calm _ _
      · split
        · exact Calm.trans (setOp_calm Bool.noConfusion) (startRecords_calm rfl)
        · exact beginCommitPage_calm _ _ _
  all_goals exact Calm.refl s

theorem recordDone_calm (r : RecordWrite) (s : State) : Calm s (recordDone r s) := by
  unfold recordDone; split
  · exact Calm.trans (onCtl_calm (completeRecord_law r.record) (by rw [completeRecord_op]; exact id))
      (startRecords_calm (completeRecord_queue r.record _))
  · exact Calm.refl s

theorem recordWriteDone_calm (s : State) : Calm s (recordWriteDone s) := by
  unfold recordWriteDone; split
  case h_1 => exact recordDone_calm _ _
  case h_2 => exact recordDone_calm _ _
  all_goals exact Calm.refl s

theorem logReadDone_calm (s : State) : Calm s (logReadDone s) := by
  unfold logReadDone; split
  case h_1 =>
    split
    · exact onCtl_calm id Bool.noConfusion
    · exact Calm.trans (onCtl_calm id Bool.noConfusion) (respond_calm _ _ _ _ _)
  all_goals exact Calm.refl s

/-! ### Every command and every step -/

theorem runWith_path {ch : Choices} {f : State → State} (h : runWith ch f s = .next t)
    (hf : Path X (withChoices ch s) (f (withChoices ch s))) : Path X s t := by
  unfold runWith at h; split at h
  · cases h
    exact (hf.trans (.calm (settle_calm _))).after (withChoices_calm ch s)
  · cases h; exact .refl

/-- Every command, from a state whose sides are at rest in the drain of a route reset. -/
theorem exec_path {c : Instr} (hr : X.rested → s.ctl.draining = true → NoneActive s) (hlaw : X.lawful → TablesLaw s)
    (hw : X.wellFormed → c.wf = true) (h : exec c s = .next t) : Path X s t := by
  cases c with
  | powerOn pins left ch =>
    have hon : Calm s { s with powered := true } := Calm.of_fields rfl rfl rfl rfl rfl rfl rfl rfl rfl
    have hrun : runWith ch (startUp pins left) { s with powered := true } = .next t := h
    exact Path.after (runWith_path hrun (startUp_path pins left _)) hon
  | pinReset pins left ch => exact runWith_path h (startUp_path _ _ _)
  | arrival port octets ch => exact runWith_path h (takeArrival_path _ _ _)
  | lossTimerExpiry port ch => exact runWith_path h (enterLoss_path _ _)
  | frameTimerExpiry tx => exact runWith_path h (.calm (frameDue_calm _ _))
  | departure tx => exact runWith_path h (.calm (depart_calm _ _))
  | routeReset ch => exact runWith_path h (routeResetNow_path _)
  | loaderStartAfterDrain ch => exact runWith_path h (startAfterDrain_path hr)
  | localFrameReceived octets ch => exact runWith_path h (takeOctets_path _ _)
  | localRxTimeout => exact runWith_path h (.calm (abandonReception_calm _))
  | localStopBitError => exact runWith_path h (.calm (abandonReception_calm _))
  | localTransmit => exact runWith_path h (.calm (localSend_calm _))
  | localRateChange => exact runWith_path h (.calm (applyRate_calm _))
  | unknownRequest kind req => exact runWith_path h (reqUnknown_path _ _ _)
  | statusRead req => exact runWith_path h (reqStatusRead_path _ _)
  | sideRead req => exact runWith_path h (reqSideRead_path _ _)
  | monitorRead req => exact runWith_path h (reqMonitorRead_path _ _)
  | entryRead req => exact runWith_path h (reqEntryRead_path _ _)
  | entryWrite req ch =>
    refine runWith_path h (reqEntryWrite_path (fun hx => ?_) _)
    rw [taken_body]; exact eq_of_beq (hw hx)
  | tablesCheck req ch => exact runWith_path h (reqTablesCheck_path _ _)
  | holdSet req ch => exact runWith_path h (holdRequest_path _ _ _ _)
  | holdClear req ch => exact runWith_path h (holdRequest_path _ _ _ _)
  | sideShut req ch => exact runWith_path h (reqSideShut_path _ _)
  | sideLock req ch => exact runWith_path h (reqSideLock_path _ _)
  | unlockArm req => exact runWith_path h (reqUnlockArm_path _ _)
  | unlockConfirm req ch => exact runWith_path h (reqUnlockConfirm_path _ _)
  | storeCommit req ch => exact runWith_path h (reqStoreCommit_path _ _)
  | storeReload req ch =>
    have hreload : runWith ch (fun u => reqStoreReload (taken u req) u) s = .next t := h
    exact runWith_path hreload (reqStoreReload_path (taken (withChoices ch s) req) (withChoices ch s))
  | logRead req ch => exact runWith_path h (reqLogRead_path _ _)
  | partReset req => exact runWith_path h (reqPartReset_path _ _)
  | tripLineAssert side ch => exact runWith_path h (assertTrip_path _ _)
  | tripLineRelease side => exact runWith_path h (releaseTrip_path _ _)
  | holdLineAssert ch => exact runWith_path h (setHoldLine_path _ _)
  | holdLineRelease ch => exact runWith_path h (setHoldLine_path _ _)
  | retryTimerExpiry side => exact runWith_path h (sideEvent_path (retryExpired_path _ _))
  | settleTimerExpiry side => exact runWith_path h (sideEvent_path (settleExpired_path _ _))
  | probeTimerExpiry side ch => exact runWith_path h (sideEvent_path (probeExpired_path _ _))
  | stepWindowExpiry side ch => exact runWith_path h (sideEvent_path (stepExpired_path _ _))
  | provingTimerExpiry side => exact runWith_path h (modSide_path rfl (Nat.le_refl _))
  | armingExpiry side => exact runWith_path h (modSide_path rfl (Nat.le_refl _))
  | uptimeSecond => exact runWith_path h (.calm (tickSecond_calm _))
  | failureListAgeing side => exact runWith_path h (.calm (ageSide_calm _ _))
  | monitorScanResult reading ch => exact runWith_path h (scanResult_path _ _)
  | scanComplete ch => exact runWith_path h (completeScan_path _)
  | extinctionFault channel ch => exact runWith_path h (extinctionFault_path _ _)
  | stepdownWaitExpiry side ch => exact runWith_path h (sideEvent_path (stepdownWaited_path _ _))
  | pageTimerExpiry acked => exact runWith_path h (.calm (pageTimer_calm _ _))
  | loaderReadComplete ch => exact runWith_path h (loaderProgress_path hlaw)
  | commitPageComplete ch => exact runWith_path h (.calm (commitPageDone_calm _))
  | recordWriteComplete ch => exact runWith_path h (.calm (recordWriteDone_calm _))
  | logReadComplete ch => exact runWith_path h (.calm (logReadDone_calm _))
  | powerLoss left =>
    have hloss : execPowerLoss left s = .next t := h
    unfold execPowerLoss at hloss; split at hloss
    · cases hloss; exact .calm (losePower_calm left s)
    · cases hloss; exact .refl
  | addressRepeat acked left ch => exact runWith_path h (.calm (repeatAddress_calm _ _ _))

/-- Every step is a path. -/
theorem step_path (hr : X.rested → s.ctl.draining = true → NoneActive s) (hlaw : X.lawful → TablesLaw s)
    (hw : X.wellFormed → ∀ c rest, s.pending = c :: rest → c.wf = true) (h : step s = .next t) : Path X s t := by
  unfold step at h; split at h
  · cases h; exact .refl
  · rename_i c rest hq
    have htaken : Calm s (s.withPending rest) := Calm.of_fields rfl rfl rfl rfl rfl rfl rfl rfl rfl
    exact Path.after (exec_path (s := s.withPending rest) hr hlaw (fun hx => hw hx c rest hq) h) htaken

end

end Sys2Proof.Machine
end

section
/-! The laws of the store, the ports, the queues, the latch and the obeyed hold that every step keeps (R8, R130, R140,
R156, R190). -/

namespace Sys2Proof.Machine

section
variable {X : Premises} {s t u : State} {sd : Side}

/-! ### The blocks -/

/-- Every atom taken apart, and nothing assumed of the state a path starts from. -/
def unassumed : Premises := ⟨False, False, False, True, True, True⟩

theorem Move.blocks (h : Move unassumed s t) : BlocksKept s t := by
  cases h with
  | frame h _ => exact h.toBlocksKept
  | restart pins =>
    refine ⟨id, fun _ sd => ?_, fun _ sd => ?_, fun _ => ⟨Nat.zero_le _, fun _ => Nat.zero_le _, Nat.zero_le _⟩⟩
    · cases sd <;> exact portLaw_reset
    · cases sd <;> exact queueLaw_empty
  | recompute h => exact absurd trivial h
  | extinct _ h => exact absurd trivial h
  | loaderStart _ h _ => exact absurd trivial h
  | loaderEnd _ _ _ h _ => exact absurd trivial h
  | _ => exact BlocksKept.of_eq rfl rfl rfl rfl

theorem Path.blocks (h : Path unassumed s t) : BlocksKept s t := by
  induction h with
  | refl => exact BlocksKept.refl s
  | tail _ hmove ih => exact ih.trans hmove.blocks

/-- A step from any state. -/
theorem step_path_of (hr : ¬ X.rested) (hlaw : ¬ X.lawful) (hw : ¬ X.wellFormed) (h : step s = .next t) : Path X s t :=
  step_path (fun hx => absurd hx hr) (fun hx => absurd hx hlaw) (fun hx => absurd hx hw) h

theorem step_blocks (h : step s = .next t) : BlocksKept s t := (step_path_of id id id h).blocks

/-! ### The latch -/

/-- The extinction fault is one atom. -/
def latchWhole : Premises := ⟨False, False, False, True, False, True⟩

/-- Under the law of the latch a side that is not down says that the latch is clear. -/
theorem LatchLaw.clear (h : LatchLaw s) (hd : ¬ SideDown s sd) : s.pdu.latch ≠ true := fun hl => hd (h hl sd)

/-- A side moved while the latch is clear. -/
theorem LatchLaw.of_clear (h : s.pdu.latch ≠ true) (ht : t.pdu.latch = s.pdu.latch) : LatchLaw t :=
  fun hl => absurd (ht ▸ hl) h

theorem LatchLaw.of_setSide {r : SideRecord} (hs : LatchLaw s) (ht : t.pdu.latch = s.pdu.latch)
    (hside : t.side = s.side.set sd r) (hr : Retires sd r s) : LatchLaw t := by
  intro hl x
  rw [ht] at hl
  unfold SideDown stateOf
  rw [hside]
  by_cases hx : x = sd
  · subst hx; rw [Sides.get_set]; exact hr.down hl (hs hl x)
  · rw [Sides.get_set_ne _ _ _ _ hx]; exact hs hl x

theorem LatchLaw.of_states (hs : LatchLaw s) (ht : t.pdu.latch = s.pdu.latch) (h : ∀ sd, stateOf t sd = stateOf s sd) :
    LatchLaw t := by
  intro hl sd
  rw [ht] at hl
  unfold SideDown; rw [h sd]; exact hs hl sd

theorem cutEvent_down (sd : Side) (s : State) : SideDown (cutEvent sd s) sd := by
  unfold SideDown stateOf cutEvent; split
  case h_1 h => exact Or.inr h
  case h_2 h => rw [newLockout_own]; exact Or.inl h
  all_goals rw [enterLockout_own]; exact Or.inl rfl

theorem cutEvents_down (s : State) (sd : Side) : SideDown (bothSides cutEvent s) sd := by
  have hkept : ∀ {x y} s, y = x.other → SideDown s y → SideDown (cutEvent x s) y := by
    rintro x y s rfl h; unfold SideDown stateOf at *; rwa [cutEvent_other]
  unfold bothSides; split <;> cases sd
  · exact cutEvent_down _ _
  · exact hkept _ rfl (cutEvent_down _ _)
  · exact hkept _ rfl (cutEvent_down _ _)
  · exact cutEvent_down _ _

theorem LatchLaw.extinctionFault (n : Nat) (h : LatchLaw s) : LatchLaw (extinctionFault n s) := by
  unfold Machine.extinctionFault; split
  · exact h
  · exact fun _ => cutEvents_down _

theorem LatchLaw.move (h : Move latchWhole s t) (hs : LatchLaw s) : LatchLaw t := by
  have hcuts : ∀ {f : PumpUnit → PumpUnit}, (f s.pdu).cuts = s.pdu.cuts → LatchLaw (onPdu f s) :=
    fun h => hs.of_states (congrArg Prod.fst h) fun _ => rfl
  cases h with
  | frame h _ => exact hs.of_states h.latch h.state
  | retire h _ => exact hs.of_setSide rfl rfl h
  | exit h => exact hs.of_setSide (congrArg Still.latch (immediateCut_still _ _)) rfl h
  | listen h _ _ _ _ => exact .of_clear (hs.clear (not_down h nofun nofun)) rfl
  | @advance sd r h _ =>
    refine .of_clear (hs.clear (sd := sd) ?_) rfl
    have hactive := (leadsTo_active h).1
    rintro (hd | hd) <;> (rw [hd] at hactive; exact absurd hactive (by decide))
  | backOff h _ _ =>
    exact .of_clear (hs.clear (not_down h nofun nofun)) (congrArg Prod.fst (zeroPumps_cuts _ _ _))
  | zero n => exact hcuts (zeroPump_cuts _ _ _)
  | raise _ _ => exact hcuts (raisePump_cuts _ _ _ _ _)
  | hold u _ => exact hs
  | recompute h => exact absurd trivial h
  | latch h => exact absurd h id
  | extinct n _ => exact hs.extinctionFault n
  | unflag _ _ => exact hs
  | flag _ _ _ => exact hs
  | retable h => exact hs.of_states rfl h.state
  | restart pins => exact fun hl => absurd hl Bool.false_ne_true
  | loaderStart _ h _ => exact absurd trivial h
  | loaderEnd _ _ _ h _ => exact absurd trivial h

/-! ### The obeyed hold -/

/-- The recomputation of the view is one atom. -/
def viewWhole : Premises := ⟨False, False, False, False, True, True⟩

theorem HoldLaw.no_hold (h : HoldLaw s) (ha : (stateOf s sd).active = true) : s.hold.view = 0 := by
  by_contra hv
  exact absurd ((h hv sd).symm.trans ha) Bool.false_ne_true

theorem leadJudge_inactive (h : (stateOf s sd).active = false) : (stateOf (leadJudge s) sd).active = false := by
  cases sd with
  | west => unfold stateOf; rw [Sides.get_west, leadJudge_west]; exact h
  | east =>
    have hne : ∀ x, x.active = true → stateOf s .east ≠ x := by
      rintro x hx rfl; exact absurd (h.symm.trans hx) Bool.false_ne_true
    rwa [leadJudge_idle s (hne _ rfl) (hne _ rfl)]

theorem holdBegun_inactive (sd : Side) (s : State) : (stateOf (holdBegun sd s) sd).active = false := by
  unfold holdBegun; split
  case h_1 => rw [stateOf, modSide_side, Sides.get_set]; rfl
  case h_2 => rw [stateOf, modSide_side, Sides.get_set]; rfl
  case h_3 => rw [stateOf, litExit_own]; rfl
  case h_4 => rw [stateOf, litExit_own]; rfl
  case h_5 => rw [stateOf, litExit_own]; rfl
  case h_6 => rw [stateOf, enterLockout_own]; rfl
  all_goals
    rename_i h
    rw [h]; rfl

theorem holdsBegun_rest (s : State) : NoneActive (bothSides (sideEvent holdBegun) s) := by
  have hown : ∀ x s, (stateOf (sideEvent holdBegun x s) x).active = false := by
    intro x s; unfold sideEvent; dsimp only; split
    · exact leadJudge_inactive (holdBegun_inactive x s)
    · exact holdBegun_inactive x s
  have hother : ∀ {x y} s, y = x.other → (stateOf s y).active = false →
      (stateOf (sideEvent holdBegun x s) y).active = false := by
    rintro x y s rfl h
    have hkept : (stateOf (holdBegun x s) x.other).active = false := by unfold stateOf at *; rwa [holdBegun_other]
    unfold sideEvent; dsimp only; split
    · exact leadJudge_inactive hkept
    · exact hkept
  intro sd
  unfold bothSides; split <;> cases sd
  · exact hown _ _
  · exact hother _ rfl (hown _ _)
  · exact hother _ rfl (hown _ _)
  · exact hown _ _

theorem HoldLaw.recomputeView (h : HoldLaw s) : HoldLaw (recomputeView s) := by
  intro hv sd
  rw [recomputeView_hold] at hv
  by_cases h0 : s.hold.view = 0
  · rw [recomputeView_begins h0 hv]; exact holdsBegun_rest _ sd
  · rw [recomputeView_still_held ⟨fun e => absurd e h0, fun e => absurd e hv⟩]; exact h h0 sd

theorem HoldLaw.move (h : Move viewWhole s t) (hs : HoldLaw s) : HoldLaw t := by
  cases h with
  | frame h _ => intro hv sd; rw [h.state sd]; exact hs (h.view ▸ hv) sd
  | retire h _ => exact fun hv => forall_stateOf_setSide (P := Inactive) h.inactive fun x _ => hs hv x
  | exit h => exact fun hv => forall_stateOf_setSide (P := Inactive) h.inactive fun x _ => hs hv x
  | listen _ _ _ _ hh => exact fun hv => absurd hh hv
  | advance h _ => exact fun hv => absurd (hs.no_hold (leadsTo_active h).1) hv
  | backOff h _ _ => exact fun hv => absurd (hs.no_hold (by rw [h]; rfl)) hv
  | zero n => exact hs
  | raise _ _ => exact hs
  | hold u hv =>
    intro hu
    rcases hv with hv | hv
    · exact absurd hv id
    · exact (hv hu).elim hs id
  | recompute _ => exact hs.recomputeView
  | latch _ => exact hs
  | extinct n h => exact absurd trivial h
  | unflag _ _ => exact hs
  | flag _ _ _ => exact hs
  | retable h =>
    intro hv sd
    have hrests := hs hv sd
    rwa [← h.state sd] at hrests
  | restart pins => exact fun _ sd => by cases sd <;> rfl
  | loaderStart _ h _ => exact absurd trivial h
  | loaderEnd _ _ _ h _ => exact absurd trivial h

end

/-! ### The statements -/

/-- Settles O56: a path writes the store octet by octet alone. -/
theorem storeCanonicalKept : Obligations.StoreCanonicalKept := fun _ _ hs h => (step_blocks h).store hs

/-- Settles O58: every change of a port record takes the condition that follows its score, or leaves both. -/
theorem scoreLawKept : Obligations.ScoreLawKept := fun _ _ hs h => (step_blocks h).score hs

/-- Settles O57: each atom of a step, the extinction fault taken whole, keeps the law of the latch. -/
theorem latchLawKept : Obligations.LatchLawKept := fun _ _ hs h =>
  Path.keeps (fun _ _ hmove => LatchLaw.move hmove) (step_path_of id id id h) hs

/-- Settles O59: each atom of a step, the recomputation of the view taken whole, keeps the law of the hold. -/
theorem holdLawKept : Obligations.HoldLawKept := fun _ _ hs h =>
  Path.keeps (fun _ _ hmove => HoldLaw.move hmove) (step_path_of id id id h) hs

end Sys2Proof.Machine
end

section
/-! What the checks of the tables say of the pumps and the budget (R39), and the chain of commands to zero that it bounds
(R115). -/

namespace Sys2Proof.Machine

/-! ### The checks -/

/-- No entry of a check that passes is bad. -/
theorem checkAll_none {table code : Nat} {l : List Nat} {bad : Nat → Bool} (h : checkAll table code l bad = none) {n : Nat}
    (hn : n ∈ l) : bad n = false := by
  unfold checkAll at h
  rw [Option.map_eq_none_iff, List.find?_eq_none] at h
  exact Bool.eq_false_iff.mpr (h n hn)

/-- Every field of an entry of a table without a present octet is in its range where the entry is. -/
theorem inRange_of_checked {table : Nat} {e : List Octet} {f : FieldSpec} (hp : hasPresent table = false)
    (h : outOfRange table e = false) (hf : f ∈ fieldsOf table) : f.inRange e = true := by
  unfold outOfRange firstBadField at h
  rw [hp, Bool.false_and, if_neg Bool.false_ne_true, Option.isSome_map, Option.isSome_eq_false_iff,
    Option.isNone_iff_eq_none, List.find?_eq_none] at h
  simpa using h f hf

/-- What passing the checks says of the restart budget and of the pumps (sections 2.2, 2.4 and R39). -/
structure PumpsChecked (t : Tables) : Prop where
  budget : 1 ≤ hdrBudget t ∧ hdrBudget t ≤ 15
  levels : ∀ n ∈ presentIn t.pumps, (pumpIn t n).probe.toNat ≤ (pumpIn t n).full.toNat
  prereqs : ∀ n ∈ presentIn t.pumps, badPrereq t n = false

theorem pumpsChecked {p : Nat} {t : Tables} (h : runChecks p t = none) : PumpsChecked t := by
  unfold runChecks at h
  rw [List.findSome?_eq_none_iff] at h
  simp only [List.mem_cons, List.not_mem_nil, or_false, id_eq, forall_eq_or_imp, forall_eq] at h
  obtain ⟨hheader, -, -, -, -, -, -, -, -, -, -, -, hlevels, hprereqs, -⟩ := h
  refine ⟨?_, fun n hn => ?_, fun n hn => checkAll_none hprereqs hn⟩
  · have hrange := inRange_of_checked (f := octetField 9 1 15) rfl (checkAll_none hheader List.mem_cons_self)
      (by simp [fieldsOf])
    simp only [FieldSpec.inRange, FieldSpec.value, octetField, Bool.false_and, Bool.false_or, Bool.false_eq_true, if_false,
      Bool.and_eq_true, decide_eq_true_eq] at hrange
    unfold hdrBudget; omega
  · have hbad := checkAll_none hlevels hn
    simp only [Bool.or_eq_false_iff, decide_eq_false_iff_not, Nat.not_lt] at hbad
    exact hbad.1

/-! ### Pumps in force -/

theorem mem_eight {n : Nat} : n ∈ eight ↔ n < 8 := by
  simp only [eight, List.mem_cons, List.not_mem_nil, or_false]; omega

theorem mem_ascending_iff {t : TableMem} {keep : PumpEntry → Bool} {n : Nat} : n ∈ ascending t keep ↔
    assigned t n = true ∧ keep (planOf t n) = true ∧ 1 ≤ (planOf t n).order ∧ (planOf t n).order ≤ 8 := by
  have hlt : assigned t n = true → n < 8 := fun h => by
    simp only [assigned, Bool.and_eq_true, decide_eq_true_eq] at h; exact h.1.2
  unfold ascending
  simp only [List.mem_flatMap, List.mem_filter, mem_eight, Bool.and_eq_true, beq_iff_eq, List.mem_cons, List.not_mem_nil,
    or_false]
  constructor
  · rintro ⟨o, ho, -, ⟨hassigned, rfl⟩, hkeep⟩
    exact ⟨hassigned, hkeep, by omega, by omega⟩
  · rintro ⟨hassigned, hkeep, h1, h8⟩
    exact ⟨_, by omega, hlt hassigned, ⟨hassigned, rfl⟩, hkeep⟩

/-- The flag stands over tables that pass the checks. -/
def ChecksLaw (s : State) : Prop := s.tab.validated = true → runChecks (pos s) s.tab.tables = none

/-- A pump in force follows its prerequisite in the order of its side. -/
def PrereqsOrdered (t : TableMem) : Prop :=
  ∀ sd n q, n ∈ pumpsUp t sd → (planOf t n).prereq = some q → (planOf t q).order < (planOf t n).order

theorem mem_presentIn {t : TableMem} {sd : Side} {n : Nat} (h : n ∈ pumpsUp t sd) :
    t.validated = true ∧ n ∈ presentIn t.tables.pumps := by
  obtain ⟨hassigned, -⟩ := mem_ascending_iff.mp h
  simp only [assigned, Bool.and_eq_true, decide_eq_true_eq] at hassigned
  obtain ⟨⟨hv, hlt⟩, hpresent⟩ := hassigned
  refine ⟨hv, List.mem_filter.mpr ⟨mem_eight.mpr hlt, ?_⟩⟩
  have hone : octetAt (entryAt t.tables.pumps n) 0 = 1 := eq_of_beq hpresent
  rw [hone]; decide

theorem ChecksLaw.ordered {s : State} (h : ChecksLaw s) : PrereqsOrdered s.tab := by
  intro sd n q hn hq
  obtain ⟨hv, hmem⟩ := mem_presentIn hn
  have hbad := (pumpsChecked (h hv)).prereqs n hmem
  unfold badPrereq at hbad
  rw [show (pumpIn s.tab.tables n).prereq = some q from hq] at hbad
  simp only [Bool.or_eq_false_iff, decide_eq_false_iff_not, Nat.not_le] at hbad
  exact hbad.2

/-! ### The chain of commands to zero -/

/-- Every channel above zero is a pump in force. -/
def LitInForce (t : TableMem) (u : PumpUnit) : Prop := ∀ n, driveOf u n ≠ 0 → ∃ sd, n ∈ pumpsUp t sd

/-- No pump stands above zero while its prerequisite is dark. -/
def PrereqsLit (t : TableMem) (u : PumpUnit) : Prop :=
  ∀ n q, driveOf u n ≠ 0 → (planOf t n).prereq = some q → driveOf u q ≠ 0

theorem LitInForce.darker {t : TableMem} {u v : PumpUnit} (h : LitInForce t u) (hd : Darker u v) : LitInForce t v :=
  fun n hn => h n fun hz => hn (hd.zero hz)

theorem zeroOne_prereqs {t : TableMem} {n : Nat} {u : PumpUnit} (h : PrereqsLit t u)
    (hn : ∀ m, driveOf u m ≠ 0 → (planOf t m).prereq ≠ some n) : PrereqsLit t (zeroOne t n u) := by
  intro m q hm hq
  rw [zeroOne_drive] at hm ⊢
  split at hm
  · exact absurd rfl hm
  · rw [if_neg]
    · exact h m q hm hq
    · rintro rfl; exact hn m hm hq

theorem mem_dependents {t : TableMem} {n m : Nat} {u : PumpUnit} (hl : LitInForce t u) (hm : driveOf u m ≠ 0)
    (hq : (planOf t m).prereq = some n) : m ∈ dependents t n u := by
  obtain ⟨sd, hmem⟩ := hl m hm
  obtain ⟨hassigned, -, horder⟩ := mem_ascending_iff.mp hmem
  rw [dependents, List.mem_reverse, List.mem_filter]
  exact ⟨mem_ascending_iff.mpr ⟨hassigned, beq_iff_eq.mpr hq, horder⟩, bne_iff_ne.mpr hm⟩

/-- Channels brought to zero one after the other, each by a command that keeps the prerequisites and darkens it. -/
theorem foldl_prereqs {t : TableMem} {f : PumpUnit → Nat → PumpUnit} {l : List Nat} {u : PumpUnit}
    (hd : ∀ u n, Darker u (f u n)) (hz : ∀ u n, driveOf (f u n) n = 0)
    (hf : ∀ n ∈ l, ∀ u, LitInForce t u → PrereqsLit t u → PrereqsLit t (f u n)) (hl : LitInForce t u)
    (hp : PrereqsLit t u) : PrereqsLit t (l.foldl f u) ∧ ∀ n ∈ l, driveOf (l.foldl f u) n = 0 := by
  induction l generalizing u with
  | nil => exact ⟨hp, nofun⟩
  | cons n l ih =>
    obtain ⟨hprereqs, hdark⟩ := ih (fun m hm => hf m (List.mem_cons_of_mem n hm)) (hl.darker (hd u n))
      (hf n List.mem_cons_self u hl hp)
    refine ⟨hprereqs, fun m hm => ?_⟩
    rcases List.mem_cons.mp hm with rfl | hm
    · exact (foldl_darker f hd l _).zero (hz u m)
    · exact hdark m hm

theorem zeroChain_dark (t : TableMem) (k n : Nat) (u : PumpUnit) : driveOf (zeroChain t k n u) n = 0 := by
  cases k <;> (unfold zeroChain; rw [zeroOne_drive, if_pos rfl])

/-- A chain as deep as the orders still above its channel keeps the prerequisites. -/
theorem zeroChain_prereqs {t : TableMem} (ho : PrereqsOrdered t) (k : Nat) {n : Nat} {u : PumpUnit}
    (hk : 8 ≤ (planOf t n).order + k) (hl : LitInForce t u) (hp : PrereqsLit t u) : PrereqsLit t (zeroChain t k n u) := by
  induction k generalizing n u with
  | zero =>
    refine zeroOne_prereqs hp fun m hm hq => ?_
    obtain ⟨sd, hmem⟩ := hl m hm
    have hless := ho sd m n hmem hq
    have hle := (mem_ascending_iff.mp hmem).2.2.2
    omega
  | succ k ih =>
    have hdeeper : ∀ m ∈ dependents t n u, 8 ≤ (planOf t m).order + k := by
      intro m hm
      rw [dependents, List.mem_reverse, List.mem_filter] at hm
      obtain ⟨hassigned, hq, horder⟩ := mem_ascending_iff.mp hm.1
      have hmem : m ∈ pumpsUp t (planOf t m).side := mem_ascending_iff.mpr ⟨hassigned, by simp, horder⟩
      have hless := ho _ m n hmem (eq_of_beq hq)
      omega
    obtain ⟨hprereqs, hdark⟩ := foldl_prereqs (f := fun u m => zeroChain t k m u) (fun u m => zeroChain_darker t k m u)
      (fun u m => zeroChain_dark t k m u) (fun m hm u hl hp => ih (hdeeper m hm) hl hp) hl hp
    refine zeroOne_prereqs hprereqs fun m hm hq => hm (hdark m (mem_dependents hl ?_ hq))
    exact fun hz => hm ((foldl_darker _ (fun u m => zeroChain_darker t k m u) _ u).zero hz)

theorem zeroPump_prereqs {t : TableMem} (ho : PrereqsOrdered t) {n : Nat} {u : PumpUnit} (hl : LitInForce t u)
    (hp : PrereqsLit t u) : PrereqsLit t (zeroPump t n u) := zeroChain_prereqs ho 8 (by omega) hl hp

theorem zeroPumps_prereqs {t : TableMem} (ho : PrereqsOrdered t) (l : List Nat) {u : PumpUnit} (hl : LitInForce t u)
    (hp : PrereqsLit t u) : PrereqsLit t (zeroPumps t l u) :=
  (foldl_prereqs (fun u n => zeroPump_darker t n u) (fun u n => zeroPump_dark t n u)
    (fun _ _ _ hl hp => zeroPump_prereqs ho hl hp) hl hp).1

/-- A channel that stands above zero is one of the eight that the unit drives. -/
theorem lt_of_driveOf {u : PumpUnit} {n : Nat} (h : driveOf u n ≠ 0) : n < u.drive.length := by
  by_contra hge
  exact h (List.getD_eq_default _ _ (Nat.le_of_not_lt hge))

theorem raisePump_prereqs {t : TableMem} (ho : PrereqsOrdered t) {b : Bool} {n : Nat} {v : Word16} {u : PumpUnit}
    (hl : LitInForce t u) (hp : PrereqsLit t u) : PrereqsLit t (raisePump t b n v u) := by
  unfold raisePump; split
  · rename_i hraise
    simp only [Bool.and_eq_true, Bool.not_eq_true', bne_iff_ne, ne_eq] at hraise
    obtain ⟨⟨-, hprereq⟩, hv⟩ := hraise
    intro m q hm hq
    have hset : ∀ x, driveOf u x ≠ 0 → (u.drive.set n v).getD x 0 ≠ 0 := by
      intro x hx
      by_cases hxn : x = n
      · subst hxn; rw [getD_set_eq _ _ (lt_of_driveOf hx)]; exact hv
      · rw [getD_set_ne _ _ hxn]; exact hx
    by_cases hmn : m = n
    · subst hmn
      refine hset q ?_
      unfold prereqDark at hprereq
      rw [hq] at hprereq
      simpa using hprereq
    · have hlit : driveOf u m ≠ 0 := by
        have hkept := hm
        rw [driveOf, getD_set_ne _ _ hmn] at hkept; exact hkept
      exact hset q (hp m q hlit hq)
  · exact zeroPump_prereqs ho hl hp

end Sys2Proof.Machine
end

section
/-! The laws of active sides, lit pumps, checked tables and failure lists that every step keeps (R28, R72, R114 to R116,
section 2.1). -/

namespace Sys2Proof.Machine

section
variable {X : Premises} {s t u : State} {sd : Side}

/-- The premises under which every atom that breaks a law for a moment is taken apart. -/
structure Premises.Apart (X : Premises) : Prop where
  view : X.viewFree
  latch : X.latchFree
  load : X.loadFree

theorem unassumed_apart : unassumed.Apart := ⟨trivial, trivial, trivial⟩

/-- Every atom taken apart, over tables that a loader run finds not validated. -/
def lawfully : Premises := ⟨False, False, True, True, True, True⟩

theorem lawfully_apart : lawfully.Apart := ⟨trivial, trivial, trivial⟩

/-! ### Lit pumps -/

/-- A pump that a side in this state lights. -/
def Lights (s : State) (sd : Side) (n : Nat) : Prop :=
  (n ∈ pumpsUp s.tab sd ∧ stateOf s sd ∈ [.ramp, .run, .stepdown]) ∨ (n ∈ probeLit s.tab sd ∧ stateOf s sd = .probe)

theorem Lights.inForce {n : Nat} (h : Lights s sd n) : n ∈ pumpsUp s.tab sd ∧ (stateOf s sd).lights = true := by
  rcases h with ⟨hn, hs⟩ | ⟨hn, hs⟩
  · simp only [List.mem_cons, List.not_mem_nil, or_false] at hs
    refine ⟨hn, ?_⟩
    rcases hs with hs | hs | hs <;> (rw [hs]; rfl)
  · exact ⟨mem_pumpsUp_of_probeLit hn, by rw [hs]; rfl⟩

theorem Lights.congr {n : Nat} (h : Lights s sd n) (ht : t.tab = s.tab) (hs : stateOf t sd = stateOf s sd) :
    Lights t sd n := by
  unfold Lights; rw [ht, hs]; exact h

theorem PumpLaw.inForce (h : PumpLaw s) : LitInForce s.tab s.pdu := fun n hn =>
  (h n hn).imp fun _ hl => (Lights.inForce hl).1

theorem lights_active {x : SideState} (h : x.lights = true) : x.active = true := by revert h; cases x <;> decide

/-- While no side is active every pump is dark. -/
theorem PumpLaw.dark (h : PumpLaw s) (hr : NoneActive s) (n : Nat) : driveOf s.pdu n = 0 := by
  by_contra hn
  obtain ⟨sd, hl⟩ := h n hn
  exact absurd ((hr sd).symm.trans (lights_active (Lights.inForce hl).2)) Bool.false_ne_true

theorem PumpLaw.of_dark (h : ∀ n, driveOf s.pdu n = 0) : PumpLaw s := fun n hn => absurd (h n) hn

/-- Pumps at most as lit as before, the pumps of one side dark where they were lit. -/
theorem PumpLaw.of_other (h : PumpLaw s) (ht : t.tab = s.tab) (hd : Darker s.pdu t.pdu)
    (hs : ∀ x, x ≠ sd → stateOf t x = stateOf s x) (hz : ∀ n, Lights s sd n → driveOf t.pdu n ≠ 0 → Lights t sd n) :
    PumpLaw t := by
  intro n hn
  obtain ⟨x, hl⟩ := h n fun hdark => hn (hd.zero hdark)
  by_cases hx : x = sd
  · subst hx; exact ⟨x, hz n hl hn⟩
  · exact ⟨x, Lights.congr hl ht (hs x hx)⟩

theorem PumpLaw.of_darker (h : PumpLaw s) (ht : t.tab = s.tab) (hd : Darker s.pdu t.pdu)
    (hs : ∀ x, stateOf t x = stateOf s x) : PumpLaw t :=
  h.of_other (sd := .west) ht hd (fun x _ => hs x) fun _ hl _ => hl.congr ht (hs _)

theorem backOff_dark {r : SideRecord} {n : Nat} (h : n ∈ probeLit s.tab sd) :
    driveOf (zeroCommand sd (setSide sd r s)).pdu n = 0 := zeroPumps_dark _ (List.mem_reverse.mpr h) _

theorem leadsTo_lights {a b : SideState} (h : a.leadsTo b = true) (hl : a.lights = true) :
    b ∈ [SideState.ramp, .run, .stepdown] := by
  unfold SideState.leadsTo at h
  split at h
  case h_1 => exact absurd hl (by decide)
  case h_5 => exact absurd h Bool.false_ne_true
  all_goals decide

theorem leadsTo_inForce {n : Nat} {r : SideRecord} (h : (stateOf s sd).leadsTo r.state = true) (hl : Lights s sd n) :
    Lights (setSide sd r s) sd n := by
  obtain ⟨hn, hlights⟩ := hl.inForce
  refine Or.inl ⟨hn, ?_⟩
  rw [stateOf_setSide]; exact leadsTo_lights h hlights

theorem replicate_dark (n : Nat) : (List.replicate 8 (0 : Word16)).getD n 0 = 0 := by
  rw [List.getD_eq_getElem?_getD]; exact List.getElem?_getD_replicate_default_eq _ _ _

theorem PumpLaw.move (hX : X.Apart) (h : Move X s t) (hs : PumpLaw s) : PumpLaw t := by
  cases h with
  | frame h _ =>
    refine hs.of_darker h.tab (fun n => Or.inl ?_) h.state
    unfold driveOf; rw [h.drive]
  | retire _ hd =>
    refine hs.of_other rfl (Darker.refl _) (fun x hx => stateOf_setSide_ne _ _ hx) fun n hl hn => absurd ?_ hn
    exact hd hl.inForce.2 n hl.inForce.1
  | exit _ =>
    refine hs.of_other rfl (immediateCut_darker _ (setSide _ _ s)) (fun x hx => stateOf_setSide_ne _ _ hx) fun n hl hn => absurd ?_ hn
    exact immediateCut_dark _ (setSide _ _ s) hl.inForce.1
  | listen h _ _ _ _ =>
    refine hs.of_other rfl (Darker.refl _) (fun x hx => stateOf_setSide_ne _ _ hx) fun n hl _ => ?_
    have hlights := hl.inForce.2
    rw [h] at hlights; exact absurd hlights Bool.false_ne_true
  | advance h _ =>
    exact hs.of_other rfl (Darker.refl _) (fun x hx => stateOf_setSide_ne _ _ hx) fun n hl _ => leadsTo_inForce h hl
  | backOff h _ _ =>
    refine hs.of_other rfl (zeroPumps_darker _ _ _) (fun x hx => stateOf_setSide_ne _ _ hx) fun n hl hn => ?_
    rcases hl with ⟨-, hstate⟩ | ⟨hn', -⟩
    · rw [h] at hstate; exact absurd hstate (by decide)
    · exact absurd (backOff_dark hn') hn
  | zero n => exact hs.of_darker rfl (zeroPump_darker _ _ _) fun _ => rfl
  | @raise sd n level h hl =>
    intro m hm
    by_cases hmn : m = n
    · subst hmn
      rcases hl with ⟨hstate, -⟩ | ⟨hstate, hprobe, -⟩
      · exact ⟨sd, Or.inl ⟨h, by rw [show stateOf (onPdu _ s) sd = stateOf s sd from rfl, hstate]; decide⟩⟩
      · exact ⟨sd, Or.inr ⟨hprobe, hstate⟩⟩
    · rcases raisePump_others s.tab true n level s.pdu hmn with hsame | hdark
      · exact hs m fun hz => hm (hsame.trans hz)
      · exact absurd hdark hm
  | hold u _ => exact hs
  | recompute h => exact absurd hX.view h
  | latch _ => exact .of_dark replicate_dark
  | extinct n h => exact absurd hX.latch h
  | unflag _ hd =>
    refine .of_dark fun n => ?_
    by_contra hn
    obtain ⟨sd, hl⟩ := hs n hn
    exact hn (hd n (mem_pumpsUp_lt (Lights.inForce hl).1))
  | flag hv _ _ =>
    refine .of_dark fun n => ?_
    by_contra hn
    obtain ⟨sd, hl⟩ := hs n hn
    exact absurd ((mem_presentIn (Lights.inForce hl).1).1.symm.trans hv) (by decide)
  | retable h => exact .of_dark (hs.dark h.rests)
  | restart pins => exact .of_dark replicate_dark
  | loaderStart _ h _ => exact absurd hX.load h
  | loaderEnd _ _ _ h _ => exact absurd hX.load h

/-! ### Checked tables -/

theorem ChecksLaw.congr (h : ChecksLaw s) (ht : t.tab = s.tab) (hp : t.position = s.position) : ChecksLaw t := by
  unfold ChecksLaw pos; rw [ht, hp]; exact h

theorem ChecksLaw.move (hX : X.Apart) (hl : X.lawful) (h : Move X s t) (hs : ChecksLaw s) : ChecksLaw t := by
  cases h with
  | frame h _ => exact hs.congr h.tab h.position
  | recompute h => exact absurd hX.view h
  | extinct n h => exact absurd hX.latch h
  | unflag _ _ => exact fun hv => absurd hv Bool.false_ne_true
  | flag _ hc _ => exact fun _ => hc
  | retable h => exact h.checks hl
  | restart pins => exact fun hv => absurd hv Bool.false_ne_true
  | loaderStart _ h _ => exact absurd hX.load h
  | loaderEnd _ _ _ h _ => exact absurd hX.load h
  | _ => exact hs

/-- A loader run begins and ends as one atom. -/
def loaderWhole : Premises := ⟨False, False, False, True, True, False⟩

/-- The flag is clear throughout a loader run. -/
def LoadingLaw (s : State) : Prop := s.ctl.op.isLoading = true → s.tab.validated = false

theorem loaderEnd_op (origin : LoaderOrigin) (result : LoaderResult) (read : Bool) (s : State) :
    (loaderEnd origin result read s).ctl.op = .idle := by
  unfold loaderEnd endRun; dsimp only; split
  · rfl
  · rfl
  · rw [respond_ctl]; rfl

theorem LoadingLaw.loaderStart (origin : LoaderOrigin) (s : State) : LoadingLaw (loaderStart origin s) := by
  unfold Machine.loaderStart beginRead; split
  · exact fun _ => by rw [setOp_tab, popAck_tab, (clearFlag_fields _).1]
  · intro hl
    rw [loaderFault, loaderEnd_op] at hl
    exact absurd hl Bool.false_ne_true

theorem LoadingLaw.move (h : Move loaderWhole s t) (hs : LoadingLaw s) : LoadingLaw t := by
  cases h with
  | frame h hl =>
    intro hload
    rw [h.tab]
    exact hs (hl.elim (fun hfree => absurd hfree id) (fun hkept => hkept hload))
  | recompute h => exact absurd trivial h
  | extinct n h => exact absurd trivial h
  | unflag _ _ => exact fun _ => rfl
  | flag _ _ hl =>
    intro hload
    exact absurd (hl.elim (fun hfree => absurd hfree id) id) (by rw [show _ = true from hload]; decide)
  | retable h => exact fun hload => Bool.eq_false_iff.mpr fun hv => absurd ((hs hload).symm.trans (h.flag hv)) (by decide)
  | restart pins => exact fun _ => rfl
  | loaderStart origin _ _ => exact LoadingLaw.loaderStart origin s
  | loaderEnd origin result read _ _ =>
    intro hload
    rw [loaderEnd_op] at hload
    exact absurd hload Bool.false_ne_true
  | _ => exact hs

/-! ### Failure lists -/

/-- While a side is active the budget is in its range. -/
def BudgetLaw (s : State) : Prop :=
  ∀ sd, (stateOf s sd).active = true → 1 ≤ hdrBudget s.tab.tables ∧ hdrBudget s.tab.tables ≤ 15

theorem BudgetLaw.of_setSide {r : SideRecord} (h : BudgetLaw s)
    (hr : r.state.active = true → 1 ≤ hdrBudget s.tab.tables ∧ hdrBudget s.tab.tables ≤ 15) :
    BudgetLaw (setSide sd r s) :=
  forall_stateOf_setSide (P := fun x => x.active = true → _) hr fun x _ => h x

theorem BudgetLaw.move (hX : X.Apart) (h : Move X s t) (hc : ChecksLaw s) (hs : BudgetLaw s) : BudgetLaw t := by
  cases h with
  | frame h _ => intro sd; rw [h.state sd, h.tab]; exact hs sd
  | retire h _ => exact hs.of_setSide fun ha => absurd (h.inactive.symm.trans ha) Bool.false_ne_true
  | exit h => exact hs.of_setSide fun ha => absurd (h.inactive.symm.trans ha) Bool.false_ne_true
  | listen _ _ _ hv _ => exact hs.of_setSide fun _ => (pumpsChecked (hc hv)).budget
  | advance h _ => exact hs.of_setSide fun _ => hs _ (leadsTo_active h).1
  | backOff h _ _ => exact hs.of_setSide fun _ => hs _ (by rw [h]; rfl)
  | recompute h => exact absurd hX.view h
  | extinct n h => exact absurd hX.latch h
  | retable h =>
    intro sd ha
    have hrests := h.rests sd
    rw [← h.state sd] at hrests
    exact absurd (hrests.symm.trans ha) Bool.false_ne_true
  | restart pins => exact fun sd ha => by cases sd <;> exact absurd ha Bool.false_ne_true
  | loaderStart _ h _ => exact absurd hX.load h
  | loaderEnd _ _ _ h _ => exact absurd hX.load h
  | _ => exact hs

/-- What R72 says of one side's record. -/
def FailuresBelow (b : Nat) (r : SideRecord) : Prop :=
  r.failures.length ≤ 15 ∧ (r.state ≠ .lockout → b ≠ 0 → r.failures.length < b)

theorem FailureLaw.of_setSide {r : SideRecord} (h : FailureLaw s) (hr : FailuresBelow (hdrBudget s.tab.tables) r) :
    FailureLaw (setSide sd r s) := by
  intro x
  unfold stateOf
  by_cases hx : x = sd
  · subst hx; rw [setSide_side, Sides.get_set]; exact hr
  · rw [setSide_side, Sides.get_set_ne _ _ _ _ hx]; exact h x

theorem Retires.below {r : SideRecord} (h : Retires sd r s) (hs : FailureLaw s) (hb : BudgetLaw s) :
    FailuresBelow (hdrBudget s.tab.tables) r := by
  obtain ⟨hmost, hbelow⟩ := hs sd
  rcases h.failures with ⟨hkept, hempty⟩ | ⟨hactive, hgrown, hfew⟩
  · refine ⟨hkept.trans hmost, fun hr hne => ?_⟩
    by_cases hlock : stateOf s sd = .lockout
    · rw [hempty hlock hr]; exact Nat.pos_of_ne_zero hne
    · exact hkept.trans_lt (hbelow hlock hne)
  · have hup : stateOf s sd ≠ .lockout := by intro hl; rw [hl] at hactive; exact absurd hactive Bool.false_ne_true
    obtain ⟨hleast, hmost⟩ := hb sd hactive
    have hfewer := hbelow hup (Nat.ne_of_gt hleast)
    exact ⟨by omega, fun hr _ => hfew hr⟩

/-- A record with the failures of a side that is not locked out. -/
theorem FailureLaw.moved {r : SideRecord} {x : SideState} (h : FailureLaw s) (hx : stateOf s sd = x) (hne : x ≠ .lockout)
    (hf : r.failures = (s.side.get sd).failures) : FailuresBelow (hdrBudget s.tab.tables) r := by
  obtain ⟨hmost, hbelow⟩ := h sd
  unfold FailuresBelow
  rw [hf]
  exact ⟨hmost, fun _ => hbelow (by rw [hx]; exact hne)⟩

theorem FailureLaw.move (hX : X.Apart) (h : Move X s t) (hb : BudgetLaw s) (hs : FailureLaw s) : FailureLaw t := by
  cases h with
  | frame h _ =>
    intro sd
    obtain ⟨hmost, hbelow⟩ := hs sd
    rw [h.state sd, h.tab]
    exact ⟨(h.failures sd).trans hmost, fun hl hne => (h.failures sd).trans_lt (hbelow hl hne)⟩
  | retire h _ => exact hs.of_setSide (h.below hs hb)
  | exit h => exact hs.of_setSide (h.below hs hb)
  | listen h _ hf _ _ => exact hs.of_setSide (hs.moved h nofun hf)
  | advance h hf =>
    refine hs.of_setSide (hs.moved rfl (fun hl => ?_) hf)
    have hactive := (leadsTo_active h).1
    rw [hl] at hactive; exact absurd hactive Bool.false_ne_true
  | backOff h _ hf => exact hs.of_setSide (hs.moved h nofun hf)
  | recompute h => exact absurd hX.view h
  | extinct n h => exact absurd hX.latch h
  | retable h =>
    intro sd
    obtain ⟨hmost, hbelow⟩ := hs sd
    refine ⟨(h.failures sd).trans hmost, fun hl hne => ?_⟩
    have hup : stateOf s sd ≠ .lockout := by rw [← h.state sd]; exact hl
    rcases h.budget with hsame | htrim
    · rw [show hdrBudget (_ : State).tab.tables = _ from hsame] at hne ⊢
      exact (h.failures sd).trans_lt (hbelow hup hne)
    · exact htrim sd hup hne
  | restart pins => exact fun sd => by cases sd <;> exact ⟨Nat.zero_le _, fun _ hne => Nat.pos_of_ne_zero hne⟩
  | loaderStart _ h _ => exact absurd hX.load h
  | loaderEnd _ _ _ h _ => exact absurd hX.load h
  | _ => exact hs

/-! ### Prerequisites and drive levels -/

theorem PrereqLaw.of_dark (h : ∀ n, driveOf s.pdu n = 0) : PrereqLaw s := fun n _ hn => absurd (h n) hn

theorem PrereqLaw.move (hX : X.Apart) (h : Move X s t) (hc : ChecksLaw s) (hp : PumpLaw s)
    (hs : PrereqLaw s) : PrereqLaw t := by
  have hzeros : ∀ l, PrereqsLit s.tab (zeroPumps s.tab l s.pdu) := fun l => zeroPumps_prereqs hc.ordered l hp.inForce hs
  cases h with
  | frame h _ =>
    intro n q
    unfold driveOf
    rw [h.drive, h.tab]; exact hs n q
  | exit _ => exact hzeros _
  | backOff _ _ _ => exact hzeros _
  | zero n => exact zeroPump_prereqs hc.ordered hp.inForce hs
  | raise _ _ => exact raisePump_prereqs hc.ordered hp.inForce hs
  | recompute h => exact absurd hX.view h
  | extinct n h => exact absurd hX.latch h
  | latch _ => exact .of_dark replicate_dark
  | retable h => exact .of_dark (hp.dark h.rests)
  | restart pins => exact .of_dark replicate_dark
  | loaderStart _ h _ => exact absurd hX.load h
  | loaderEnd _ _ _ h _ => exact absurd hX.load h
  | _ => exact hs

theorem LevelLaw.of_dark (h : ∀ n, driveOf s.pdu n = 0) : LevelLaw s := by
  intro sd n _
  rw [h n]
  exact ⟨Nat.zero_le _, fun _ => Nat.zero_le _⟩

/-- Pumps at most as lit as before, and a side in PROBE that was in PROBE before or whose pumps are dark. -/
theorem LevelLaw.of_darker (h : LevelLaw s) (ht : t.tab = s.tab) (hd : Darker s.pdu t.pdu)
    (hs : ∀ x, stateOf t x = .probe → stateOf s x = .probe ∨ ∀ n ∈ pumpsUp s.tab x, driveOf t.pdu n = 0) : LevelLaw t := by
  intro x n hn
  rw [ht] at hn ⊢
  obtain ⟨hfull, hprobe⟩ := h x n hn
  rcases hd n with hsame | hdark
  · rw [hsame]
    refine ⟨hfull, fun hx => ?_⟩
    rcases hs x hx with hp | hz
    · exact hprobe hp
    · rw [← hsame, hz n hn]; exact Nat.zero_le _
  · rw [hdark]; exact ⟨Nat.zero_le _, fun _ => Nat.zero_le _⟩

/-- A side moved to a state that is not PROBE, or to one from which its pumps are dark. -/
theorem LevelLaw.of_setSide {r : SideRecord} (h : LevelLaw s) (ht : t.tab = s.tab) (hd : Darker s.pdu t.pdu)
    (hside : t.side = s.side.set sd r) (hr : r.state = .probe → ∀ n ∈ pumpsUp s.tab sd, driveOf t.pdu n = 0) :
    LevelLaw t := by
  refine h.of_darker ht hd fun x hx => ?_
  unfold stateOf at hx
  rw [hside] at hx
  by_cases hxs : x = sd
  · subst hxs; rw [Sides.get_set] at hx; exact Or.inr (hr hx)
  · rw [Sides.get_set_ne _ _ _ _ hxs] at hx; exact Or.inl hx

theorem not_probe_of_inactive {x : SideState} (h : x.active = false) : x ≠ .probe := by
  rintro rfl; exact absurd h (by decide)

/-- The only way to PROBE is from LISTEN. -/
theorem leadsTo_probe {a : SideState} (h : a.leadsTo .probe = true) : a = .listen := by
  revert h; cases a <;> decide

theorem PumpLaw.listen_dark (h : PumpLaw s) (hs : stateOf s sd = .listen) {n : Nat} (hn : n ∈ pumpsUp s.tab sd) :
    driveOf s.pdu n = 0 := by
  by_contra hlit
  obtain ⟨x, hl⟩ := h n hlit
  obtain ⟨hn', hlights⟩ := Lights.inForce hl
  rw [(pumpsUp_side hn').symm.trans (pumpsUp_side hn), hs] at hlights
  exact absurd hlights Bool.false_ne_true

theorem raisePump_level (t : TableMem) (n : Nat) (v : Word16) (u : PumpUnit) :
    driveOf (raisePump t true n v u) n = v ∨ driveOf (raisePump t true n v u) n = 0 := by
  unfold raisePump; split
  · by_cases hlt : n < u.drive.length
    · exact Or.inl (getD_set_eq _ _ hlt)
    · exact Or.inr (List.getD_eq_default _ _ (by rw [List.length_set]; exact Nat.le_of_not_lt hlt))
  · exact Or.inr (zeroPump_dark _ _ _)

theorem LevelLaw.raise {n : Nat} {level : Word16} (h : LevelLaw s) (hc : ChecksLaw s) (hn : n ∈ pumpsUp s.tab sd)
    (hl : (stateOf s sd = .ramp ∧ level = (planOf s.tab n).full) ∨
      (stateOf s sd = .probe ∧ n ∈ probeLit s.tab sd ∧ level = (planOf s.tab n).probe)) :
    LevelLaw (onPdu (raisePump s.tab true n level) s) := by
  intro x m hm
  by_cases hmn : m = n
  · subst hmn
    obtain rfl : x = sd := (pumpsUp_side hm).symm.trans (pumpsUp_side hn)
    obtain ⟨hv, hpresent⟩ := mem_presentIn hn
    have hlevels : (planOf s.tab m).probe.toNat ≤ (planOf s.tab m).full.toNat := (pumpsChecked (hc hv)).levels m hpresent
    rw [onPdu_pdu, onPdu_tab]
    rcases raisePump_level s.tab m level s.pdu with hraised | hdark
    · rw [hraised]
      rcases hl with ⟨hstate, rfl⟩ | ⟨-, -, rfl⟩
      · refine ⟨Nat.le_refl _, fun hprobe => ?_⟩
        rw [show stateOf (onPdu _ s) x = stateOf s x from rfl, hstate] at hprobe
        exact absurd hprobe (by decide)
      · exact ⟨hlevels, fun _ => Nat.le_refl _⟩
    · rw [hdark]; exact ⟨Nat.zero_le _, fun _ => Nat.zero_le _⟩
  · rcases raisePump_others s.tab true n level s.pdu hmn with hsame | hdark
    · rw [onPdu_pdu, hsame]; exact h x m hm
    · rw [onPdu_pdu, hdark]; exact ⟨Nat.zero_le _, fun _ => Nat.zero_le _⟩

theorem LevelLaw.move (hX : X.Apart) (h : Move X s t) (hc : ChecksLaw s) (hp : PumpLaw s) (hs : LevelLaw s) :
    LevelLaw t := by
  cases h with
  | frame h _ =>
    refine hs.of_darker h.tab (fun n => Or.inl ?_) fun x hx => Or.inl ((h.state x).symm.trans hx)
    unfold driveOf; rw [h.drive]
  | retire h _ =>
    exact hs.of_setSide rfl (Darker.refl _) rfl fun hr => absurd hr (not_probe_of_inactive h.inactive)
  | exit h =>
    exact hs.of_setSide rfl (immediateCut_darker _ (setSide _ _ s)) rfl fun hr => absurd hr (not_probe_of_inactive h.inactive)
  | listen _ hr _ _ _ => exact hs.of_setSide rfl (Darker.refl _) rfl fun hp => absurd (hr.symm.trans hp) (by decide)
  | advance h _ =>
    refine hs.of_setSide rfl (Darker.refl _) rfl fun hr n hn => ?_
    rw [hr] at h
    exact hp.listen_dark (leadsTo_probe h) hn
  | backOff _ hr _ => exact hs.of_setSide rfl (zeroPumps_darker _ _ _) rfl fun hp => absurd (hr.symm.trans hp) (by decide)
  | zero n => exact hs.of_darker rfl (zeroPump_darker _ _ _) fun x => Or.inl
  | raise h hl => exact hs.raise hc h hl
  | recompute h => exact absurd hX.view h
  | extinct n h => exact absurd hX.latch h
  | latch _ => exact .of_dark replicate_dark
  | unflag _ _ =>
    intro x n hn
    exact absurd (mem_presentIn hn).1 Bool.false_ne_true
  | flag hv _ _ =>
    refine .of_dark fun n => ?_
    by_contra hn
    obtain ⟨sd, hl⟩ := hp n hn
    exact absurd ((mem_presentIn (Lights.inForce hl).1).1.symm.trans hv) (by decide)
  | retable h => exact .of_dark (hp.dark h.rests)
  | restart pins => exact .of_dark replicate_dark
  | loaderStart _ h _ => exact absurd hX.load h
  | loaderEnd _ _ _ h _ => exact absurd hX.load h
  | _ => exact hs

/-! ### The shape of the tables -/

/-- Every atom taken apart, under a command that is well formed. -/
def wellFormed : Premises := ⟨False, True, False, True, True, True⟩

theorem TablesShaped.move (h : Move wellFormed s t) (hs : TablesShaped s.tab.tables) : TablesShaped t.tab.tables := by
  cases h with
  | frame h _ => rwa [h.tab]
  | recompute h => exact absurd trivial h
  | extinct n h => exact absurd trivial h
  | retable h => exact h.shaped trivial hs
  | restart pins => exact emptied_shaped
  | loaderStart _ h _ => exact absurd trivial h
  | loaderEnd _ _ _ h _ => exact absurd trivial h
  | _ => exact hs

/-! ### The laws together -/

/-- The laws that a step keeps under the law of the tables and the flag. -/
structure CheckedSides (s : State) : Prop where
  checks : ChecksLaw s
  budget : BudgetLaw s
  failures : FailureLaw s

theorem CheckedSides.move (h : Move lawfully s t) (hs : CheckedSides s) : CheckedSides t :=
  ⟨hs.checks.move lawfully_apart trivial h, hs.budget.move lawfully_apart h hs.checks,
    hs.failures.move lawfully_apart h hs.budget⟩

/-- The laws of lit pumps over checked tables. -/
structure CheckedPumps (s : State) : Prop where
  checks : ChecksLaw s
  pumps : PumpLaw s

theorem CheckedPumps.move (h : Move lawfully s t) (hs : CheckedPumps s) : CheckedPumps t :=
  ⟨hs.checks.move lawfully_apart trivial h, hs.pumps.move lawfully_apart h⟩

theorem FlagLaw.budget (h : FlagLaw s) (hc : ChecksLaw s) : BudgetLaw s := fun _ ha => (pumpsChecked (hc (h.validated ha))).budget

theorem step_lawfully (ht : TablesLaw s) (h : step s = .next t) : Path lawfully s t :=
  step_path False.elim (fun _ => ht) False.elim h

theorem tablesLaw_kept (h : step s = .next t) (hs : TablesLaw s) : TablesLaw t :=
  ⟨Path.keeps (fun _ _ hmove hk => ChecksLaw.move lawfully_apart trivial hmove hk) (step_lawfully hs h) hs.1,
    Path.keeps (I := LoadingLaw) (fun _ _ hmove => LoadingLaw.move hmove) (step_path_of id id id h) hs.2⟩

theorem failureLaw_kept (h : step s = .next t) (ht : TablesLaw s) (hf : FlagLaw s) (hs : FailureLaw s) : FailureLaw t :=
  (Path.keeps (fun _ _ hmove => CheckedSides.move hmove) (step_lawfully ht h) ⟨ht.1, hf.budget ht.1, hs⟩).failures

theorem prereqLaw_kept (h : step s = .next t) (ht : TablesLaw s) (hp : PumpLaw s) (hs : PrereqLaw s) : PrereqLaw t :=
  (Path.keeps (I := fun s => CheckedPumps s ∧ PrereqLaw s)
    (fun _ _ hmove ⟨hc, hk⟩ => ⟨hc.move hmove, hk.move lawfully_apart hmove hc.checks hc.pumps⟩)
    (step_lawfully ht h) ⟨⟨ht.1, hp⟩, hs⟩).2

theorem levelLaw_kept (h : step s = .next t) (ht : TablesLaw s) (hp : PumpLaw s) (hs : LevelLaw s) : LevelLaw t :=
  (Path.keeps (I := fun s => CheckedPumps s ∧ LevelLaw s)
    (fun _ _ hmove ⟨hc, hk⟩ => ⟨hc.move hmove, hk.move lawfully_apart hmove hc.checks hc.pumps⟩)
    (step_lawfully ht h) ⟨⟨ht.1, hp⟩, hs⟩).2

end

/-- Settles O27: each atom of a step keeps each law, over tables whose checks bound the budget, order the prerequisites
and set the probe drives below the full ones. -/
theorem activeSideLawsKept : Obligations.ActiveSideLawsKept := by
  intro s t h
  refine ⟨fun hs => ?_, fun hs hr => ?_, tablesLaw_kept h, failureLaw_kept h, fun ht _ hp => ?_, fun hs hw => ?_⟩
  · exact Path.keeps (fun _ _ hmove => PumpLaw.move unassumed_apart hmove) (step_path_of id id id h) hs
  · exact FlagLaw.path (step_path (fun _ hd => hr hd) False.elim False.elim h) hs
  · exact ⟨prereqLaw_kept h ht hp, levelLaw_kept h ht hp⟩
  · exact Path.keeps (I := fun s => TablesShaped s.tab.tables) (fun _ _ hmove => TablesShaped.move hmove)
      (step_path False.elim False.elim (fun _ => hw) h) hs

end Sys2Proof.Machine
end

section
/-! Admission to the queues (R144, R156 to R158, R162, R190), and the laws of the queues that every step keeps. -/

namespace Sys2Proof.Machine

/-! ### Messages -/

theorem deliver_room {v : Queued} {m : MsgEngine} (h : m.delivery.length < 16) :
    deliver v m = { m with delivery := m.delivery ++ [v] } := if_pos h

theorem releaseReset_eq (v : Queued) (m : MsgEngine) :
    releaseReset v m = { m with resetPhase := if v.resetDone then .due else m.resetPhase } := by
  unfold releaseReset; split <;> rfl

theorem deliver_full {v : Queued} {m : MsgEngine} (h : 16 ≤ m.delivery.length) :
    deliver v m = { m with
      localDrops := min 65535 (m.localDrops + 1)
      resetPhase := if v.resetDone then .due else m.resetPhase } :=
  (if_neg (Nat.not_lt.mpr h)).trans (releaseReset_eq _ _)

theorem discardMessage_eq (v : Queued) (m : MsgEngine) : discardMessage v m = { m with
    discarded := min 65535 (m.discarded + 1)
    resetPhase := if v.resetDone then .due else m.resetPhase } := releaseReset_eq _ _

theorem joinMessage_room {v : Queued} {sd : Side} {m : MsgEngine} (h : (m.out.get sd).size < 8) : joinMessage sd v m =
    { m with out := m.out.set sd { m.out.get sd with messages := (m.out.get sd).messages ++ [v] } } := if_pos h

theorem joinMessage_full {v : Queued} {sd : Side} {m : MsgEngine} (h : 8 ≤ (m.out.get sd).size) :
    joinMessage sd v m = { m with
      discarded := min 65535 (m.discarded + 1)
      resetPhase := if v.resetDone then .due else m.resetPhase } :=
  (if_neg (Nat.not_lt.mpr h)).trans (discardMessage_eq v m)

/-! ### Notices -/

/-- The notices that a notice leaves beside it in a queue: none about its subject (R157). -/
def noticesKept (n : Message) (q : OutQueue) : List Message := q.notices.filter fun a => !sameSubject a n

/-- A queue that a notice has joined. -/
def queueWithNotice (n : Message) (q : OutQueue) : OutQueue :=
  { notices := noticesKept n q ++ [n]
    messages := if (noticesKept n q).length + q.messages.length < 8 then q.messages else q.messages.dropLast }

theorem joinNotice_room {n : Message} {sd : Side} {m : MsgEngine}
    (h : (noticesKept n (m.out.get sd)).length + (m.out.get sd).messages.length < 8) :
    joinNotice n sd m = { m with out := m.out.set sd (queueWithNotice n (m.out.get sd)) } := by
  rw [queueWithNotice, if_pos h]; exact if_pos h

theorem joinNotice_full {n : Message} {sd : Side} {m : MsgEngine} {l : List Queued} {v : Queued}
    (h : 8 ≤ (noticesKept n (m.out.get sd)).length + (m.out.get sd).messages.length)
    (hl : (m.out.get sd).messages = l ++ [v]) :
    joinNotice n sd m = discardMessage v { m with out := m.out.set sd (queueWithNotice n (m.out.get sd)) } := by
  have hlast : (m.out.get sd).messages.getLast? = some v := by rw [hl, List.getLast?_concat]
  rw [queueWithNotice, if_neg (Nat.not_lt.mpr h)]
  refine (if_neg (Nat.not_lt.mpr h)).trans ?_
  rw [hlast]; rfl

theorem joinNotice_out (n : Message) (sd : Side) (m : MsgEngine) :
    (joinNotice n sd m).out = m.out.set sd (queueWithNotice n (m.out.get sd)) := by
  by_cases h : (noticesKept n (m.out.get sd)).length + (m.out.get sd).messages.length < 8
  · rw [joinNotice_room h]
  · rcases List.eq_nil_or_concat (m.out.get sd).messages with hnil | ⟨l, v, hl⟩
    · have hlast : (m.out.get sd).messages.getLast? = none := by rw [hnil]; rfl
      have hjoin : joinNotice n sd m =
          { m with out := m.out.set sd { m.out.get sd with notices := noticesKept n (m.out.get sd) ++ [n] } } := by
        refine (if_neg h).trans ?_
        rw [hlast]; rfl
      rw [hjoin, queueWithNotice, if_neg h]; dsimp only
      rw [hnil]; rfl
    · rw [joinNotice_full (Nat.not_lt.mp h) (hl.trans List.concat_eq_append), discardMessage_eq]

theorem joinNotice_local (n : Message) (sd : Side) (m : MsgEngine) :
    (joinNotice n sd m).delivery = m.delivery ∧ (joinNotice n sd m).localDrops = m.localDrops := by
  unfold joinNotice; dsimp only; split
  · exact ⟨rfl, rfl⟩
  · split
    · exact ⟨rfl, rfl⟩
    · rw [discardMessage_eq]; exact ⟨rfl, rfl⟩

theorem deliver_delivery (v : Queued) (m : MsgEngine) : (deliver v m).delivery =
      (if m.delivery.length < 16 then m.delivery ++ [v] else m.delivery) ∧
    (deliver v m).localDrops = (if m.delivery.length < 16 then m.localDrops else min 65535 (m.localDrops + 1)) := by
  by_cases h : m.delivery.length < 16
  · rw [deliver_room h, if_pos h, if_pos h]; exact ⟨rfl, rfl⟩
  · rw [deliver_full (Nat.not_lt.mp h), if_neg h, if_neg h]; exact ⟨rfl, rfl⟩

/-- The Message Engine after a notice has joined the queues of the sides that are not ABSENT. -/
def noticeQueued (westAbsent eastAbsent : Bool) (n : Message) (m : MsgEngine) : MsgEngine :=
  if eastAbsent then (if westAbsent then m else joinNotice n .west m)
  else joinNotice n .east (if westAbsent then m else joinNotice n .west m)

theorem postNotice_eq (w e : Bool) (n : Message) (m : MsgEngine) : postNotice w e n m =
    deliver { msg := n, resetDone := false }
      { noticeQueued w e n m with noticeNumber := (noticeQueued w e n m).noticeNumber + 1 } := rfl

theorem noticeQueued_out (w e : Bool) (n : Message) (m : MsgEngine) :
    (noticeQueued w e n m).out.west = (if w then m.out.west else (joinNotice n .west m).out.west) ∧
    (noticeQueued w e n m).out.east = (if e then m.out.east else (joinNotice n .east m).out.east) := by
  cases w <;> cases e <;> simp [noticeQueued, joinNotice_out, Sides.set, Sides.get]

theorem noticeQueued_local (w e : Bool) (n : Message) (m : MsgEngine) :
    (noticeQueued w e n m).delivery = m.delivery ∧ (noticeQueued w e n m).localDrops = m.localDrops := by
  cases w <;> cases e <;> simp [noticeQueued, joinNotice_local]

/-! ### Records -/

theorem replaceLock_one {sd : Side} {r old : StoreRecord} {pre post : List StoreRecord} (ho : old.locksSide sd = true)
    (h : ∀ x ∈ pre ++ post, x.locksSide sd = false) : replaceLock sd r (pre ++ old :: post) = pre ++ r :: post := by
  have hkept : ∀ l : List StoreRecord, (∀ x ∈ l, x.locksSide sd = false) →
      l.map (fun x => if x.locksSide sd then r else x) = l := by
    intro l hl
    refine (List.map_congr_left fun x hx => ?_).trans (List.map_id l)
    rw [hl x hx]; rfl
  rw [replaceLock, List.map_append, List.map_cons, if_pos ho, hkept pre fun x hx => h x (List.mem_append_left _ hx),
    hkept post fun x hx => h x (List.mem_append_right _ hx)]

theorem joinRecord_replaces {sd : Side} {r old : StoreRecord} {pre post : List StoreRecord} {c : StoreCtl}
    (hr : r.locksSide sd = true) (hq : c.queue = pre ++ old :: post) (ho : old.locksSide sd = true)
    (h : ∀ x ∈ pre ++ post, x.locksSide sd = false) : joinRecord r c = { c with queue := pre ++ r :: post } := by
  cases r with
  | trip _ => exact absurd hr Bool.false_ne_true
  | lock y l x n =>
    obtain rfl : y = sd := eq_of_beq hr
    have hany : c.queue.any (StoreRecord.locksSide y) = true :=
      List.any_eq_true.mpr ⟨old, by rw [hq]; simp, ho⟩
    refine (if_pos hany).trans ?_
    rw [hq, replaceLock_one ho h]

/-- A record that no queued one of its side stands against joins at the end. -/
theorem joinRecord_fresh {r : StoreRecord} {c : StoreCtl}
    (h : ∀ sd, r.locksSide sd = true → ∀ x ∈ c.queue, x.locksSide sd = false) : joinRecord r c = joinEnd r c := by
  cases r with
  | trip _ => rfl
  | lock y l x n =>
    refine if_neg (Bool.not_eq_true _ ▸ List.any_eq_false.mpr fun q hq => ?_)
    rw [h y (beq_self_eq_true y) q hq]; exact Bool.false_ne_true

theorem dropOldestTrip_first {t : TripRecord} {pre post : List StoreRecord} (h : ∀ x ∈ pre, x.isTrip = false) :
    dropOldestTrip (pre ++ .trip t :: post) = pre ++ post := by
  induction pre with
  | nil => rfl
  | cons r pre ih =>
    rw [List.cons_append, dropOldestTrip, h r List.mem_cons_self, if_neg Bool.false_ne_true,
      ih fun x hx => h x (List.mem_cons_of_mem r hx), List.cons_append]

/-! ### The statement -/

/-- Settles O23: each queue's admission by its branches, and the laws of the queues along the path of a step. -/
theorem queueAdmissions : Obligations.QueueAdmissions := by
  refine ⟨fun v m => ⟨deliver_room, deliver_full⟩, fun v sd m => ⟨joinMessage_room, joinMessage_full⟩,
    fun n sd m hq hn => ?notice, fun w e n m => ?post, fun r c => ?record,
    fun s t hs h => (step_blocks h).records hs, fun s t hs h => (step_blocks h).queues hs, fun q => queueLaw_notices⟩
  case notice =>
    obtain ⟨hlaw, hnotices, hother⟩ := joinNotice_law hq hn
    refine ⟨hlaw, queueLaw_notices hlaw, hnotices, hother, fun hroom => ?_, fun l v hfull hl => ?_⟩
    · have hkept : (noticesKept n (m.out.get sd)).length + (m.out.get sd).messages.length < 8 := hroom
      rw [joinNotice_room hkept, Sides.get_set, queueWithNotice, if_pos hkept]; exact ⟨rfl, rfl, rfl⟩
    · have hkept : ¬ (noticesKept n (m.out.get sd)).length + (m.out.get sd).messages.length < 8 := Nat.not_lt.mpr hfull
      rw [joinNotice_full hfull hl, discardMessage_eq, Sides.get_set, queueWithNotice, if_neg hkept, hl, List.dropLast_concat]
      exact ⟨rfl, rfl, rfl⟩
  case post =>
    obtain ⟨hwest, heast⟩ := noticeQueued_out w e n m
    obtain ⟨hdelivery, hdrops⟩ := noticeQueued_local w e n m
    obtain ⟨hdelivered, hdropped⟩ := deliver_delivery { msg := n, resetDone := false }
      { noticeQueued w e n m with noticeNumber := (noticeQueued w e n m).noticeNumber + 1 }
    refine ⟨?_, ?_, ?_, ?_, postNotice_noticeNumber w e n m⟩
    · rw [postNotice_eq, deliver_out]; exact hwest
    · rw [postNotice_eq, deliver_out]; exact heast
    · rw [postNotice_eq, hdelivered, hdelivery]
    · rw [postNotice_eq, hdropped, hdelivery, hdrops]
  case record =>
    refine ⟨fun sd pre old post => joinRecord_replaces, fun hfresh hroom => ?_, fun pre old post hfresh hfull hq hpre => ?_⟩
    · rw [joinRecord_fresh hfresh]; exact if_pos hroom
    · rw [joinRecord_fresh hfresh]
      refine (if_neg (Nat.not_lt.mpr hfull)).trans ?_
      rw [hq, dropOldestTrip_first hpre]; rfl

end Sys2Proof.Machine
end

section
/-! How a step begins and ends (R184), and the reset (R1, R25 to R28, R31, R80, R132, R142, R170, R193). -/

namespace Sys2Proof.Machine

section
variable {s t u : State} {sd : Side}

/-! ### The step and the end of a command -/

/-- Settles O1: the step by the cases of its queue. -/
theorem stepRunsFrontCommand : Obligations.StepRunsFrontCommand := by
  refine ⟨fun c s => rfl, fun c rest s h => ?_, fun s h => ?_⟩
  · unfold step; rw [h]
  · unfold step; rw [h]

/-- What keeps everything that no side event changes has changed the sides, the pumps, the messages, the records and
the choices alone. -/
theorem eq_of_still (h : still t = still s) :
    t = { s with side := t.side, pdu := t.pdu, msg := t.msg, ctl := t.ctl, choices := t.choices } := by
  cases s; cases t
  simp only [still, Still.mk.injEq] at h
  obtain ⟨rfl, rfl, rfl, rfl, rfl, rfl, rfl, rfl, rfl, rfl, rfl, rfl, rfl, -⟩ := h
  rfl

theorem settle_ctl_only (s : State) : settle s = { s with ctl := (settle s).ctl, choices := Choices.default } := by
  have hstart := eq_of_still (startIfWaiting_still s)
  rw [startIfWaiting_side, startIfWaiting_pdu, startIfWaiting_msg] at hstart
  exact congrArg (fun u : State => { u with choices := Choices.default }) hstart

/-- A controller with an operation of its own under way begins no record. -/
theorem settle_busy (h1 : s.ctl.op ≠ .idle) (h2 : s.ctl.op ≠ .recording none) :
    settle s = { s with choices := Choices.default } := by
  unfold settle; rw [startIfWaiting_busy s h1 h2]

/-- An idle controller whose access the store acknowledges begins to write its oldest record. -/
theorem settle_writes {r : StoreRecord} {q : List StoreRecord} (h : s.ctl.op = .idle) (hq : s.ctl.queue = r :: q)
    (ha : ackOf s = true) :
    (settle s).ctl = { s.ctl with op := .recording (some ⟨r, recordWrite s r⟩), queue := q } := by
  obtain ⟨u, hgoes, hsettle⟩ := settle_goesOn s (Or.inl h) (by rw [hq]; exact List.cons_ne_nil r q)
  rw [hq] at hgoes
  rw [hsettle, (hgoes.1 ha).1 none rfl]
  cases r <;> rfl

/-- Settles O2: the end of a command by the cases of its record queue. -/
theorem commandEndStartsWaitingRecord : Obligations.CommandEndStartsWaitingRecord :=
  ⟨settle_ctl_only, settle_empty, fun _ _ _ => settle_writes, settle_goesOn⟩

/-! ### The reset state -/

theorem emptied_octets : tablesOctets Tables.emptied = List.replicate 684 0 := by
  simp only [tablesOctets, Tables.emptied, List.flatten_replicate_replicate, List.replicate_append_replicate]

/-- Settles O3: the reset state evaluated field by field. -/
theorem resetStateValues : Obligations.ResetStateValues := by
  refine ⟨rfl, rfl, rfl, fun sd => ?_, fun sd => ?_, emptied_octets, rfl, rfl, fun sd => ?_, rfl, rfl, rfl, rfl, rfl, rfl, rfl,
    rfl, rfl⟩ <;> cases sd <;> rfl

theorem reset_dark (n : Nat) : driveOf State.reset.pdu n = 0 := replicate_dark n

theorem reset_state (sd : Side) : stateOf State.reset sd = .unconfigured := by cases sd <;> rfl

/-- Settles O60: at the reset every side is UNCONFIGURED, every pump dark, the queues empty and the flag clear. -/
theorem lawsHoldAtReset : Obligations.LawsHoldAtReset := by
  have hrest : NoneActive State.reset := fun sd => by rw [reset_state]; rfl
  refine ⟨reset_store_canonical, fun hl => absurd hl Bool.false_ne_true, fun sd => ?_, fun _ => hrest, fun _ => hrest,
    .of_dark reset_dark, ⟨fun hv => absurd hv Bool.false_ne_true, fun _ => rfl⟩, fun sd => ?_, .of_dark reset_dark,
    .of_dark reset_dark, ⟨Nat.zero_le _, fun _ => Nat.zero_le _, Nat.zero_le _⟩, emptied_shaped, fun sd => ?_⟩
  · cases sd <;> exact portLaw_reset
  · cases sd <;> exact ⟨Nat.zero_le _, fun _ hb => Nat.pos_of_ne_zero hb⟩
  · cases sd <;> exact queueLaw_empty

/-! ### Power-on and pin reset -/

/-- A page write cut off touches the store alone, and looks at no choices. -/
theorem cutOff_eq (left : Residue) (s : State) : cutOff left s = { s with store := (cutOff left s).store } := by
  unfold cutOff; split
  · rfl
  · split <;> rfl

theorem cutOff_store_congr (left : Residue) (hc : t.ctl = s.ctl) (hs : t.store = s.store) :
    (cutOff left t).store = (cutOff left s).store := by
  unfold cutOff; rw [hc, hs]
  cases currentWrite s.ctl.op with
  | none => exact hs
  | some w =>
    dsimp only; split
    · exact hs
    · rfl

theorem settle_startUp (pins : PinLevels) (left : Residue) (hack : s.choices.acks.headD true = true) :
    settle (startUp pins left s) = { State.reset with
      position := pins.straps.toFin
      lines := { trip := ⟨pins.tripWest, pins.tripEast⟩, hold := pins.hold }
      hold := { HoldUnit.reset with own := pins.hold, view := if pins.hold then (1 : PosSet) <<< pins.straps.toNat else 0 }
      loc := { LocalPort.reset with sent := s.loc.sent }
      store := (cutOff left s).store, free := s.free, pending := s.pending } := by
  rw [startUp_acknowledged pins left hack, settle_busy (by simp) (by simp), cutOff_eq left s]
  rfl

/-- Settles O4: the start-up as its first read is acknowledged, with the end of the command. -/
theorem powerOnAndPinResetGiveResetValues : Obligations.PowerOnAndPinResetGiveResetValues := by
  intro pins left ch s hack
  refine ⟨?_, fun hp => ?_⟩
  · rw [exec_powerOn, settle_startUp pins left hack,
      cutOff_store_congr left (s := s) (t := withChoices ch { s with powered := true }) rfl rfl]; rfl
  · rw [exec_pinReset pins left ch hp, settle_startUp pins left hack,
      cutOff_store_congr left (s := s) (t := withChoices ch s) rfl rfl]; rfl

end

end Sys2Proof.Machine
end

section
/-! The departures of a transmitter: the frame timer, what a departure is composed of, and what is sent (R13 to R22,
R152, R155, R170). -/

namespace Sys2Proof.Machine

section
variable {s t : State} {tx sd : Side}

/-- A command of a powered part whose effect under its choices is known. -/
theorem exec_settles {c : Instr} {ch : Choices} {f : State → State} (hc : exec c s = runWith ch f s)
    (hp : s.powered = true) (h : f (withChoices ch s) = t) : exec c s = .next (settle t) := by
  rw [hc, runWith_begins hp, h]

/-! ### The frame timer -/

theorem queueDeparture_sends (h : isAbsent s tx = false) (d : Departure) : queueDeparture tx d s =
    { s with tx := s.tx.set tx { s.tx.get tx with transit := (s.tx.get tx).transit ++ [d] } } := by
  unfold queueDeparture; rw [if_neg (by simp [h])]; rfl

/-- Settles O16: the timer of a transmitter that is no route end's originates. -/
theorem frameTimerGivesOriginatedDeparture : Obligations.FrameTimerGivesOriginatedDeparture := by
  intro tx s hp ht ha
  refine exec_settles (f := frameDue tx) rfl hp ?_
  unfold frameDue
  rw [if_pos (show ((withChoices Choices.default s).tx.get tx).frameTimer = true from ht)]
  exact queueDeparture_sends (s := begun s) ha .originated

/-! ### Frames as sent (R3, R19) -/

theorem setSpanOctet_length (l : List Octet) (k : Nat) (o : Octet) : (setSpanOctet l k o).length = l.length := by
  unfold setSpanOctet; split
  · rfl
  · exact List.length_set

theorem writeNibbles_length (p : Nat) (w e : SideState) (l : List Octet) : (writeNibbles p w e l).length = l.length := by
  simp only [writeNibbles, setSpanOctet_length]

theorem messageOctets_length (m : Message) : (messageOctets m).length = 28 := by
  simp [messageOctets, padTo]

theorem frameBody_length {f : Frame} (h : f.spans.length = 31) : (frameBody f).length = 78 := by
  simp [frameBody, octets32, octets16, reportOctets, h, messageOctets_length]

theorem frameOctets_length {f : Frame} (h : f.spans.length = 31) : (frameOctets f).length = 80 := by
  simp [frameOctets, frameBody_length h, octets16]

theorem frameOctets_body {f : Frame} (h : f.spans.length = 31) : (frameOctets f).take 78 = frameBody f := by
  rw [frameOctets, List.take_left' (frameBody_length h)]

theorem octetAt_append {l : List Octet} {n : Nat} (h : l.length = n) (l' : List Octet) (i : Nat) :
    octetAt (l ++ l') (n + i) = octetAt l' i := by
  unfold octetAt
  rw [List.getD_append_right _ _ _ _ (by omega), h, Nat.add_sub_cancel_left]

theorem word16At_append {l : List Octet} {n : Nat} (h : l.length = n) (l' : List Octet) (i : Nat) :
    word16At (l ++ l') (n + i) = word16At l' i := by
  unfold word16At; rw [octetAt_append h, Nat.add_assoc, octetAt_append h]

theorem word16At_octets16 (w : Word16) (l : List Octet) : word16At (octets16 w ++ l) 0 = w := word16_joined w

theorem frameOctets_check {f : Frame} (h : f.spans.length = 31) :
    crc16 ((frameOctets f).take 78) = word16At (frameOctets f) 78 := by
  rw [frameOctets_body h, frameOctets, ← List.append_nil (octets16 _)]
  exact ((word16At_append (frameBody_length h) _ 0).trans (word16At_octets16 _ [])).symm

/-! ### The report about a side (R20 to R22) -/

theorem reportAbout_validated (h : s.tab.validated = true) (sd : Side) : reportAbout s sd =
    { sender := posOctet s, state := (stateOf s sd).code, flags := reportFlags s sd
      measured := reportedInput s sd, probe := (reportedSpan s sd).probe
      launch := (reportedSpan s sd).launch, duration := (reportedSpan s sd).duration
      edition := hdrEdition s.tab.tables } := if_pos h

theorem reportAbout_clear (h : s.tab.validated = false) (sd : Side) : reportAbout s sd =
    { sender := posOctet s, state := (stateOf s sd).code, flags := reportFlags s sd
      measured := minPower, probe := 0, launch := 0, duration := 0, edition := 0 } := if_neg (by simp [h])

theorem reportAbout_flags (s : State) (sd : Side) : (reportAbout s sd).flags = reportFlags s sd := by
  unfold reportAbout; split <;> rfl

theorem reportFlags_bit (s : State) (sd : Side) (i : Nat) : (reportAbout s sd).flags.getLsbD i =
    [(s.side.get sd).ready, (s.side.get sd).verified, throughDark s sd, s.tab.validated && (reportedSpan s sd).agreed,
      (s.ports.get sd).condition == .degraded].getD i false := by
  rw [reportAbout_flags]; exact flagOctet_bit _ i (by simp)

theorem throughDark_iff (s : State) (sd : Side) : throughDark s sd = true ↔ isAbsent s sd.other = false ∧
    (stateOf s sd.other ≠ .run ∨ darkHolds s sd.other = true) := by
  simp [throughDark]

theorem reportedSpan_own (h : absentUnder (pos s) (hdrLength s.tab.tables) sd = false) : reportedSpan s sd = spanOf s sd := by
  unfold reportedSpan hasSpan; rw [h]; rfl

theorem reportedInput_of {n : Nat} (h : rxInput s sd = some n) : reportedInput s sd = clipPower (latestOf s n).toInt := by
  unfold reportedInput; rw [h]

/-- Settles O19: the layout of a frame read back, and the report by the state of the tables. -/
theorem sentFramesAndUnvalidatedReports : Obligations.SentFramesAndUnvalidatedReports := by
  refine ⟨fun f h => ⟨frameOctets_length h, rfl, rfl, frameOctets_check h⟩, fun s sd => ?_⟩
  have hbit := reportFlags_bit s sd
  have hsent : (reportAbout s sd).sender = posOctet s ∧ (reportAbout s sd).state = (stateOf s sd).code := by
    unfold reportAbout; split <;> exact ⟨rfl, rfl⟩
  refine ⟨hsent.1, hsent.2, hbit 0, hbit 1, ?_, hbit 4, hbit 5, hbit 6, hbit 7, fun hv => ?_, fun hv => ?_⟩
  · exact (Bool.coe_iff_coe.2 (hbit 2)).trans (throughDark_iff s sd)
  · have hr := reportAbout_validated hv sd
    refine ⟨by rw [hr], fun n hn => by rw [hr]; exact reportedInput_of hn, fun ha => ?_⟩
    have hs := reportedSpan_own ha
    refine ⟨by rw [hr, hs], by rw [hr, hs], by rw [hr, hs], ?_⟩
    rw [← hs]; exact (hbit 3).trans (by simp [hv])
  · have hr := reportAbout_clear hv sd
    refine ⟨by rw [hr], by rw [hr], by rw [hr], by rw [hr], by rw [hr], (hbit 3).trans (by simp [hv]), ?_⟩
    rw [Report.advertising, hr]; simp

/-! ### A departure composed, filled and sent -/

/-- The frame that a departure sends. -/
def sentFrame (s : State) (tx : Side) (d : Departure) : Frame :=
  settleSlot (offered s tx (compose s tx d)) (compose s tx d)

/-- The Message Engine after a departure. -/
def sentEngine (s : State) (tx : Side) (d : Departure) : MsgEngine :=
  afterInsert tx (offered s tx (compose s tx d)) s.msg

theorem depart_sends {d : Departure} {rest : List Departure} (h : (s.tx.get tx).transit = d :: rest)
    (ha : isAbsent s tx = false) : depart tx s =
      { s with
        tx := s.tx.set tx ((s.tx.get tx).sentOne d (frameOctets (sentFrame s tx d)))
        msg := sentEngine s tx d, free := s.free + 1 } := by
  unfold depart; rw [h]; dsimp only; rw [if_neg (by simp [ha])]; rfl

theorem settleSlot_fields (q : Option Queued) (f : Frame) : (settleSlot q f).origin = f.origin ∧
    (settleSlot q f).sequence = f.sequence ∧ (settleSlot q f).holdSet = f.holdSet ∧
    (settleSlot q f).report = f.report ∧ (settleSlot q f).spans = f.spans := by
  unfold settleSlot; split
  · exact ⟨rfl, rfl, rfl, rfl, rfl⟩
  · split <;> exact ⟨rfl, rfl, rfl, rfl, rfl⟩

theorem afterInsert_some (tx : Side) (v : Queued) (m : MsgEngine) : afterInsert tx (some v) m =
    { m with out := m.out.set tx (queueTail (m.out.get tx)), resetPhase := if v.resetDone then .due else m.resetPhase } :=
  releaseReset_eq _ _

theorem offered_empty {f : Frame} (h : f.slot.kind = 0) : offered s tx f = queueHead (s.msg.out.get tx) := if_pos h

/-- An empty slot leaves empty where the queue is. -/
theorem sent_empty {d : Departure} (h : (compose s tx d).slot.kind = 0) (hq : queueHead (s.msg.out.get tx) = none) :
    (sentFrame s tx d).slot = emptySlot ∧ sentEngine s tx d = s.msg := by
  have ho := (offered_empty h).trans hq
  refine ⟨?_, by rw [sentEngine, ho]; rfl⟩
  rw [sentFrame, ho, settleSlot, if_pos h]

/-- An empty slot takes the head of the queue. -/
theorem sent_filled {d : Departure} {v : Queued} (h : (compose s tx d).slot.kind = 0)
    (hq : queueHead (s.msg.out.get tx) = some v) :
    (sentFrame s tx d).slot = { v.msg with body := padTo 23 (v.msg.body.take v.msg.len.toNat) } ∧
      sentEngine s tx d = { s.msg with
        out := s.msg.out.set tx (queueTail (s.msg.out.get tx))
        resetPhase := if v.resetDone then .due else s.msg.resetPhase } := by
  have ho := (offered_empty h).trans hq
  exact ⟨by rw [sentFrame, ho]; rfl, by rw [sentEngine, ho, afterInsert_some]⟩

/-- A message in transit keeps its slot. -/
theorem sent_transit {d : Departure} (h : (compose s tx d).slot.kind ≠ 0) :
    (sentFrame s tx d).slot = (compose s tx d).slot ∧ sentEngine s tx d = s.msg := by
  have ho : offered s tx (compose s tx d) = none := if_neg h
  refine ⟨?_, by rw [sentEngine, ho]; rfl⟩
  rw [sentFrame, ho, settleSlot, if_neg h]

/-- Settles O17: the departure composed by this part takes the head of its queue. -/
theorem originatedDepartureSent : Obligations.OriginatedDepartureSent := by
  intro tx rest s hp ha ht
  have hb : isAbsent (begun s) tx = false := ha
  have htb : ((begun s).tx.get tx).transit = .originated :: rest := ht
  obtain ⟨horigin, hseq, hhold, hreport, hspans⟩ := settleSlot_fields
    (offered (begun s) tx (compose (begun s) tx .originated)) (compose (begun s) tx .originated)
  have hempty := sent_empty (s := begun s) (tx := tx) (d := .originated)
  have hfilled {v} := sent_filled (s := begun s) (tx := tx) (d := .originated) (v := v)
  have hlen : (sentFrame (begun s) tx .originated).spans.length = 31 := by
    rw [sentFrame, hspans]; exact (writeNibbles_length _ _ _ _).trans (by simp [unknownSpans])
  refine ⟨sentFrame (begun s) tx .originated, sentEngine (begun s) tx .originated, exec_settles (f := depart tx) rfl hp ?_,
    horigin, hseq, hhold, hreport, hspans, frameOctets_length hlen, hempty rfl,
    fun _ hv => hfilled rfl hv⟩
  refine (depart_sends htb hb).trans ?_
  simp [Transmitter.sentOne, ht, begun]

/-- Settles O18: a forwarded departure keeps its origin and a slot that is not empty. -/
theorem forwardedDepartureSent : Obligations.ForwardedDepartureSent := by
  intro tx g rest s hp ha ht
  have hb : isAbsent (begun s) tx = false := ha
  have htb : ((begun s).tx.get tx).transit = .forwarded g :: rest := ht
  obtain ⟨horigin, hseq, hhold, hreport, hspans⟩ := settleSlot_fields
    (offered (begun s) tx (compose (begun s) tx (.forwarded g))) (compose (begun s) tx (.forwarded g))
  have hempty := sent_empty (s := begun s) (tx := tx) (d := .forwarded g)
  have hfilled {v} := sent_filled (s := begun s) (tx := tx) (d := .forwarded g) (v := v)
  refine ⟨sentFrame (begun s) tx (.forwarded g), sentEngine (begun s) tx (.forwarded g),
    exec_settles (f := depart tx) rfl hp ?_, horigin, hseq, hreport, hhold, hspans,
    sent_transit (s := begun s) (tx := tx) (d := .forwarded g), hempty, fun _ hk hv => hfilled hk hv⟩
  refine (depart_sends htb hb).trans ?_
  simp [Transmitter.sentOne, ht, begun]

end

end Sys2Proof.Machine
end

section
/-! The local port octet by octet and its transmitter (R31, R160, R162, R170), and the routing of a response (R159). -/

namespace Sys2Proof.Machine

section
variable {s t : State}

/-! ### The local receiver (R160) -/

theorem abandonReception_hunting (h : s.loc.receiver = .hunting) : abandonReception s = s := by
  unfold abandonReception; rw [h]

theorem abandonReception_receiving {held : List Octet} (h : s.loc.receiver = .receiving held) : abandonReception s =
    { s with
      msg := { s.msg with framingErrors := min 65535 (s.msg.framingErrors + 1) }
      loc := { s.loc with receiver := .hunting } } := by
  unfold abandonReception; rw [h]; rfl

theorem takeOctets_last {held : List Octet} (h : s.loc.receiver = .receiving held) (hl : held.length = 29) (o : Octet) :
    takeOctets [o] s =
      if crc16 ((held ++ [o]).take 28) = word16At (held ++ [o]) 28 then
        localMessage (messageOf (held ++ [o])) { s with loc := { s.loc with receiver := .hunting } }
      else { s with
        msg := { s.msg with framingErrors := min 65535 (s.msg.framingErrors + 1) }
        loc := { s.loc with receiver := .hunting } } :=
  takeOctets_judged h (by omega) (by simp [hl])

/-- A frame judged leaves everything before the Local Port's receiver as it was. -/
theorem FrameCompleted.msg {octets frame : List Octet} (h : FrameCompleted octets frame s t) : t.msg = s.msg := by
  obtain ⟨-, ⟨held, -, -, -, rfl⟩ | ⟨noise, -, -, -, rfl⟩⟩ := h <;> rfl

/-- Settles O20: one octet, a portion of octets and a frame with a wrong check at the receiver. -/
theorem localReceptionErrorsCounted : Obligations.LocalReceptionErrorsCounted := by
  refine ⟨fun s hp => ⟨fun hr => ?_, fun held hr => ?_⟩, fun l more o x => ?_, fun octets ch s hp => ?_⟩
  · have h := abandonReception_hunting (s := begun s) hr
    exact ⟨exec_settles rfl hp h, exec_settles rfl hp h⟩
  · have h := abandonReception_receiving (s := begun s) hr
    exact ⟨exec_settles rfl hp h, exec_settles rfl hp h⟩
  · refine ⟨rfl, takeOctets_append l more x, fun hr ho => takeOctets_noise hr (by simpa using ho), takeOctet_start,
      fun held hr hl => takeOctets_stored hr (by simp; omega), fun held hr hl => takeOctets_last hr hl o⟩
  · have hx := exec_localFrameReceived (ch := ch) (h := hp)
    refine ⟨hx octets, fun hn hr => ?_, fun noise rest he hn hl hr => ?_, fun held hr hl => ?_, fun frame u more hf hc => ?_⟩
    · rw [hx octets, takeOctets_noise (s := withChoices ch s) hr hn]
    · rw [hx octets, he, takeOctets_append, takeOctets_noise (s := withChoices ch s) hr hn, takeOctets_cons,
        takeOctet_start (s := withChoices ch s) hr, takeOctets_stored (held := []) rfl (by simpa using hl)]
      rfl
    · rw [hx octets, takeOctets_stored (s := withChoices ch s) hr hl]; rfl
    · have hjudged : takeOctets octets (withChoices ch s) =
          { u with msg := { s.msg with framingErrors := min 65535 (s.msg.framingErrors + 1) } } := by
        rw [takeOctets_completed hf, if_neg hc]
        show { u with msg := { u.msg with framingErrors := satInc u.msg.framingErrors } } = _
        rw [hf.msg]; rfl
      exact ⟨by rw [hx octets, hjudged], by rw [hx (octets ++ more), takeOctets_append, hjudged]⟩

/-! ### The local transmitter (R31, R162) -/

theorem applyRate_hunting (h : s.loc.receiver = .hunting) :
    applyRate s = { s with loc := { s.loc with rateApplied := s.loc.rateInForce } } := by
  unfold applyRate; rw [h]

theorem applyRate_receiving {held : List Octet} (h : s.loc.receiver = .receiving held) : applyRate s = s := by
  unfold applyRate; rw [h]

theorem localSend_idle (h : s.msg.delivery = []) : localSend s = s := by unfold localSend; rw [h]

/-- The head of the delivery queue goes out at the rate that is then applied. -/
theorem localSend_sends {v : Queued} {rest : List Queued} {rate : Rate} (h : s.msg.delivery = v :: rest)
    (hr : applyRate s = { s with loc := { s.loc with rateApplied := rate } }) : localSend s =
    { s with
      msg := { s.msg with delivery := rest, resetPhase := if v.resetDone then .due else s.msg.resetPhase }
      loc := { s.loc with rateApplied := rate, sent := some { octets := localFrameOctets v.msg, rate := rate } } } := by
  unfold localSend; rw [h]; dsimp only; rw [hr]
  simp only [beginMessage, onMsg, releaseReset_eq]

/-- Settles O22: the transmitter's send and the change of rate, by the receiver's state. -/
theorem localTransmitterSendsAndChangesRate : Obligations.LocalTransmitterSendsAndChangesRate := by
  refine ⟨fun s hp hd => exec_settles rfl hp (localSend_idle (s := begun s) hd),
    fun v rest s hp hd => ⟨fun hr => ?_, fun held hr => ?_⟩,
    fun s hp hr => exec_settles rfl hp (applyRate_hunting (s := begun s) hr),
    fun held s hp hr => exec_settles rfl hp (applyRate_receiving (s := begun s) hr)⟩
  · exact exec_settles rfl hp (localSend_sends (s := begun s) hd (applyRate_hunting hr))
  · exact exec_settles rfl hp (localSend_sends (s := begun s) hd (applyRate_receiving hr))

/-! ### Responses (R159) -/

/-- Settles O24: the branches of the routing in their order. -/
theorem responseRoutedByDestination : Obligations.ResponseRoutedByDestination := by
  intro v s
  have hpos := pos_lt s
  have hwest (h : v.msg.dest.toNat < pos s) : routeResponse v s =
      if isAbsent s .west then onMsg (discardMessage v) s else onMsg (joinMessage .west v) s := by
    unfold routeResponse routeSide
    rw [if_neg (by omega), if_neg (by omega), if_pos h]
  have heast (h : pos s < v.msg.dest.toNat) (h' : v.msg.dest.toNat ≤ 31) : routeResponse v s =
      if isAbsent s .east then onMsg (discardMessage v) s else onMsg (joinMessage .east v) s := by
    unfold routeResponse routeSide
    rw [if_neg (by omega), if_neg (by omega), if_neg (show ¬ v.msg.dest.toNat < pos s by omega)]
  refine ⟨fun h => if_pos h, fun h => ?_, fun h ha => ?_, fun h h' ha => ?_, fun h ha => ?_, fun h ha => ?_⟩
  · unfold routeResponse; rw [if_neg (by omega), if_pos h]; rfl
  · rw [hwest h, if_neg (by simp [ha])]; rfl
  · rw [heast h h', if_neg (by simp [ha])]; rfl
  · rw [hwest h, if_pos ha]; rfl
  · by_cases h' : 31 < v.msg.dest.toNat
    · exact if_pos h'
    · rw [heast h (by omega), if_pos ha]; rfl

end

end Sys2Proof.Machine
end

section
/-! The judgments that every request passes before its rule (R163, R164, R169), and the requests that refuse, read or
begin an access (R34, R165 to R169, R187, R188, R192). -/

namespace Sys2Proof.Machine

section
variable {s t : State} {req : Request} {kind : Octet}

/-- The answer to a request as its command handles it. -/
theorem reply_begun (kind : Octet) (req : Request) (body : List Octet) (ch : Choices) (s : State) :
    reply kind (taken s req) body (withChoices ch s) = answer kind req body (withChoices ch s) :=
  reply_taken kind req body s (withChoices ch s) rfl

/-! ### The judgments by the kind of a request -/

/-- The kinds of the modifying requests (section 7.1). -/
def modifyingKinds : List Octet := [5, 6, 7, 8, 9, 10, 11, 12, 13, 14, 16]

/-- The kinds of the reading requests (section 7.1). -/
def readingKinds : List Octet := [1, 2, 3, 4, 15]

theorem modifyingKind_mem {c : Instr} (h : modifyingKind c = some (kind, req)) : kind ∈ modifyingKinds := by
  cases c <;> simp_all [modifyingKind, modifyingKinds]

theorem readingKind_mem {c : Instr} (h : readingKind c = some (kind, req)) : kind ∈ readingKinds := by
  cases c <;> simp_all [readingKind, readingKinds]

theorem handleRequest_modifying (h : kind ∈ modifyingKinds) : ∃ rule : Request → State → State, ∀ r, handleRequest kind r =
    judgeModifying kind r (fun st => refusalBody kind r st.code) (rule r) := by
  simp only [modifyingKinds, List.mem_cons, List.not_mem_nil, or_false] at h
  rcases h with rfl | rfl | rfl | rfl | rfl | rfl | rfl | rfl | rfl | rfl | rfl <;> exact ⟨_, fun _ => rfl⟩

theorem handleRequest_reading (h : kind ∈ readingKinds) : ∃ rule : Request → State → State, ∀ r, handleRequest kind r =
    judgePending kind r (fun st => refusalBody kind r st.code) (rule r) := by
  simp only [readingKinds, List.mem_cons, List.not_mem_nil, or_false] at h
  rcases h with rfl | rfl | rfl | rfl | rfl <;> exact ⟨_, fun _ => rfl⟩

theorem judgePending_busy {refusal : Status → List Octet} {rule : State → State} (h : s.msg.resetPhase ≠ .idle) :
    judgePending kind req refusal rule s = reply kind req (refusal .busy) s := if_neg h

theorem judgeModifying_denied {refusal : Status → List Octet} {rule : State → State} (h : denied s req = true) :
    judgeModifying kind req refusal rule s = reply kind req (refusal .denied) s := if_pos h

theorem judgeModifying_permitted {refusal : Status → List Octet} {rule : State → State} (h : denied s req = false) :
    judgeModifying kind req refusal rule s = judgePending kind req refusal rule s := if_neg (by simp [h])

theorem refusalBody_taken (kind : Octet) (req : Request) (st : Octet) :
    refusalBody kind (taken s req) st = refusalBody kind req st := by
  unfold refusalBody; rw [taken_body]

/-- Settles O25: an unknown kind, a missing permission and a pending route reset, in the order of R163. -/
theorem requestsJudgedBeforeTheirRule : Obligations.RequestsJudgedBeforeTheirRule := by
  refine ⟨fun kind req s hp => exec_settles rfl hp (reply_begun kind req _ _ s), fun c kind req s hp hc hn => ?_,
    fun c kind req s hp hr hc => ?_⟩
  · obtain ⟨rule, hrule⟩ := handleRequest_modifying (modifyingKind_mem hc)
    have hd : denied (withChoices (choicesOf c) s) (taken s req) = true := denied_eq_true hn
    rw [exec_handles hp (Or.inl hc), hrule, judgeModifying_denied hd, reply_begun, refusalBody_taken]; rfl
  · have hb : (withChoices (choicesOf c) s).msg.resetPhase ≠ .idle := hr
    obtain ⟨hc, hperm⟩ | hc := hc
    · obtain ⟨rule, hrule⟩ := handleRequest_modifying (modifyingKind_mem hc)
      have hd : denied (withChoices (choicesOf c) s) (taken s req) = false := denied_eq_false hperm
      rw [exec_handles hp (Or.inl hc), hrule, judgeModifying_permitted hd, judgePending_busy hb,
        reply_begun, refusalBody_taken]; rfl
    · obtain ⟨rule, hrule⟩ := handleRequest_reading (readingKind_mem hc)
      rw [exec_handles hp (Or.inr hc), hrule, judgePending_busy hb, reply_begun, refusalBody_taken]; rfl

/-! ### MONITOR-READ and ENTRY-READ (R167, R168) -/

theorem monitorOctet (v p : Bool) :
    (if (!v || p) = true then (1 : Octet) else 0) = if v = true ∧ p = false then 0 else 1 := by
  cases v <;> cases p <;> rfl

theorem monitorBody_eq (s : State) (n : Nat) : monitorBody s n = octets16 (latestOf s n) ++
    [if s.tab.validated = true ∧ (mapOf s.tab n).present = false then 0 else 1,
      octetAt (entryAt s.tab.tables.monitors n) 1, octetAt (entryAt s.tab.tables.monitors n) 2] ++
    octets16 (offsetOf s.tab n) ++
    [if (s.scan.dark.getD n ⟨false, 0⟩).holding then 1 else 0, natOctet (s.scan.dark.getD n ⟨false, 0⟩).count,
      natOctet (checksOn s.pdu n)] := by
  simp only [monitorBody, monitorOctet]

theorem reqMonitorRead_eq (h : s.msg.resetPhase = .idle) (ch : Choices) (req : Request) :
    reqMonitorRead (taken s req) (withChoices ch s) = answer 3 req
      (if req.len ≠ 1 then [4] else if 7 < (octetAt req.body 0).toNat then [3]
       else [0, octetAt req.body 0] ++ monitorBody s (octetAt req.body 0).toNat) (withChoices ch s) := by
  unfold reqMonitorRead
  rw [judgePending_idle h, taken_len, taken_body, ← reply_begun]
  split
  · rfl
  · split <;> rfl

theorem reqEntryRead_eq (h : s.msg.resetPhase = .idle) (ch : Choices) (req : Request) :
    reqEntryRead (taken s req) (withChoices ch s) = answer 4 req
      (if req.len ≠ 2 then [4]
       else if !entryExists (octetAt req.body 0) (octetAt req.body 1) then [3, octetAt req.body 0, octetAt req.body 1]
       else [0, octetAt req.body 0, octetAt req.body 1] ++
        getEntry s.tab.tables (octetAt req.body 0).toNat (octetAt req.body 1).toNat) (withChoices ch s) := by
  unfold reqEntryRead
  rw [judgePending_idle h, taken_len, taken_body, ← reply_begun]
  split
  · rfl
  · dsimp only; split <;> rfl

/-- Settles O28: the two reads by the branches of their rules. -/
theorem monitorAndEntryReads : Obligations.MonitorAndEntryReads := by
  intro req s hp hr table index
  have hmon := exec_settles (c := .monitorRead req) (f := fun t => reqMonitorRead (taken t req) t) rfl hp
    (reqMonitorRead_eq hr Choices.default req)
  have hent := exec_settles (c := .entryRead req) (f := fun t => reqEntryRead (taken t req) t) rfl hp
    (reqEntryRead_eq hr Choices.default req)
  refine ⟨fun hl => ?_, fun hl h7 => ?_, fun n hl hn h7 => ?_, fun hl => ?_, fun hl hx => ?_, fun hl hx => ?_⟩
  · rw [hmon, if_pos hl]; rfl
  · rw [hmon, if_neg (not_not.2 hl), if_pos h7]; rfl
  · rw [hmon, if_neg (not_not.2 hl), if_neg (by omega), hn, monitorBody_eq]; simp [begun]
  · rw [hent, if_pos hl]; rfl
  · rw [hent, if_neg (not_not.2 hl), if_pos (by rw [hx]; rfl)]; rfl
  · rw [hent, if_neg (not_not.2 hl), if_neg (by rw [hx]; decide)]; rfl

/-! ### The refusals of ENTRY-WRITE (R34) -/

theorem judgeEntry_refuses (ch : Choices) (st : Status) (off : Octet) : reply 5 (taken s req) (writeBody (taken s req) st off)
    (withChoices ch s) = answer 5 req [st.code, octetAt req.body 0, octetAt req.body 1, off] (withChoices ch s) := by
  rw [reply_begun, writeBody_taken]; rfl

/-- ENTRY-WRITE at a request that passes R163: the judgments of R34 in their order. -/
theorem exec_entryWrite (h : Accepted s req) (ch : Choices) : exec (.entryWrite req ch) s =
    .next (settle (judgeEntry (taken s req) (withChoices ch s))) :=
  exec_settles (f := fun t => reqEntryWrite (taken t req) t) rfl h.1 (judgeModifying_accepted h ch 5 _ _)

/-- Settles O29: the branches of the judgment in their order. -/
theorem entryWriteRefusedInOrder : Obligations.EntryWriteRefusedInOrder := by
  intro req ch s ha table index refuse
  have hx := exec_entryWrite ha ch
  unfold judgeEntry at hx
  simp only [taken_body, taken_len, withChoices_ctl, withChoices_eitherActive, judgeEntry_refuses, writtenEntry_taken] at hx
  refine ⟨fun hl => ?_, fun hl he => ?_, fun hl he hx' => ?_, fun hl he hx' hn => ?_, fun off hl he hx' hn hb => ?_⟩
  · rw [hx, if_pos hl]; rfl
  · rw [hx, if_neg (by simp [hl]), if_pos he]; rfl
  · rw [hx, if_neg (by simp [hl]), if_neg (by simp [he]), if_pos (by rw [hx']; rfl)]; rfl
  · rw [hx, if_neg (by simp [hl]), if_neg (by simp [he]), if_neg (by rw [hx']; decide), if_pos hn]; rfl
  · rw [hx, if_neg (by simp [hl]), if_neg (by simp [he]), if_neg (by rw [hx']; decide), if_neg (not_not.2 hn)]
    have hbad : firstBadField (octetAt req.body 0).toNat (writtenEntry req) = some off := hb
    rw [hbad]; rfl

/-! ### PART-RESET (R169) -/

/-- Settles O39: the branches of the request. -/
theorem partResetBecomesPending : Obligations.PartResetBecomesPending := by
  intro req s ha
  have hx : exec (.partReset req) s = _ := exec_settles (f := fun t => reqPartReset (taken t req) t) rfl ha.1
    (judgeModifying_accepted ha Choices.default 16 _ _)
  simp only [withChoices_taken, taken_len, withChoices_ctl, reply_begun] at hx
  refine ⟨fun hl => ?_, fun hl hk => ?_, fun hl hk => ?_⟩
  · rw [hx, if_pos hl]; rfl
  · rw [hx, if_neg (not_not.2 hl), if_pos hk]; rfl
  · rw [hx, if_neg (not_not.2 hl), if_neg (by simp [hk])]
    unfold acceptReset responseTo; rw [taken_tag]; rfl

end

end Sys2Proof.Machine
end

section
/-! What a Store Controller with an operation of its own takes into its queue, and the clearing of the flag under it
(R28, R113, R125, R139, R190). -/

namespace Sys2Proof.Machine

section
variable {s t u : State} {sd : Side} {l m : List StoreRecord}

/-! ### Records taken by a busy controller (R190) -/

/-- The Store Controller has an operation under way that no record waiting ends. -/
def Busy (s : State) : Prop := s.ctl.op ≠ .idle ∧ s.ctl.op ≠ .recording none

/-- A busy controller takes these records into its queue, in this order, and asks nothing of the store. -/
def Takes (l : List StoreRecord) (s t : State) : Prop :=
  Busy s → t.ctl = l.foldl (fun c r => joinRecord r c) s.ctl ∧ t.choices = s.choices

theorem foldl_joinRecord_op (l : List StoreRecord) (c : StoreCtl) : (l.foldl (fun c r => joinRecord r c) c).op = c.op := by
  induction l generalizing c with
  | nil => rfl
  | cons r l ih => rw [List.foldl_cons, ih, joinRecord_op]

theorem Takes.busy (h : Takes l s t) (hb : Busy s) : Busy t := by
  unfold Busy; rw [(h hb).1, foldl_joinRecord_op]; exact hb

theorem Takes.none (hc : t.ctl = s.ctl) (hch : t.choices = s.choices) : Takes [] s t := fun _ => ⟨hc, hch⟩

theorem Takes.trans (h : Takes l s t) (k : Takes m t u) : Takes (l ++ m) s u := fun hb => by
  obtain ⟨hc, hch⟩ := h hb
  obtain ⟨kc, kch⟩ := k (h.busy hb)
  rw [List.foldl_append, kc, hc, kch, hch]; exact ⟨rfl, rfl⟩

theorem Takes.before (k : Takes m t u) (hc : t.ctl = s.ctl) (hch : t.choices = s.choices) : Takes m s u :=
  (Takes.none hc hch).trans k

theorem Takes.after (h : Takes l s t) (hc : u.ctl = t.ctl) (hch : u.choices = t.choices) : Takes l s u :=
  fun hb => ⟨hc.trans (h hb).1, hch.trans (h hb).2⟩

theorem queueRecord_takes (r : StoreRecord) (s : State) : Takes [r] s (queueRecord r s) := fun hb => by
  rw [queueRecord_joins r s hb.1 hb.2]; exact ⟨rfl, rfl⟩

theorem enterLockout_takes (sd : Side) (c k : Cause) (s : State) :
    Takes ((if (stateOf s sd).lights then [.trip (tripRecordOf sd k s)] else []) ++
      [.lock sd true c ((s.side.get sd).lock.count + 1)]) s (enterLockout sd c k s) := by
  have hlock {u : State} (hu : u.side.get sd = (s.side.get sd).lockedOut c) :
      lockRecordOf sd u = .lock sd true c ((s.side.get sd).lock.count + 1) := by
    unfold lockRecordOf; rw [hu]; rfl
  unfold enterLockout
  by_cases hl : (stateOf s sd).lights = true
  · simp only [if_pos hl]
    rw [hlock (by simp)]
    have hcut := (queueRecord_takes (.trip (tripRecordOf sd k s))
      (immediateCut sd (modSide sd (SideRecord.lockedOut c) s))).before (s := s) rfl rfl
    exact (hcut.trans (queueRecord_takes _ _)).after rfl rfl
  · simp only [if_neg hl]
    rw [hlock (by simp)]
    exact ((queueRecord_takes _ (modSide sd (SideRecord.lockedOut c) s)).before (s := s) rfl rfl).after rfl rfl

theorem litExit_takes (sd : Side) (c : Cause) (e : SideState) (f : SideRecord → SideRecord) (s : State) :
    Takes [.trip (tripRecordOf sd c s)] s (litExit sd c e f s) :=
  ((queueRecord_takes _ (immediateCut sd (modSide sd f s))).before (s := s) rfl rfl).after rfl rfl

@[simp] theorem leadJudge_choices (s : State) : (leadJudge s).choices = s.choices := by
  have hprobe : (judgeProbe .east s).choices = s.choices := by
    unfold judgeProbe; split
    · unfold enterProbe; dsimp only; split <;> rfl
    · rfl
  unfold leadJudge
  cases stateOf s .east <;> dsimp only
  case listen => exact hprobe
  case probe =>
    split
    · rfl
    · split <;> rfl

theorem Takes.judged {f : Side → State → State} (h : Takes l s (f sd s)) : Takes l s (sideEvent f sd s) := by
  unfold sideEvent; dsimp only; split
  · exact h.after (leadJudge_ctl _) (leadJudge_choices _)
  · exact h

/-- An event of a side hands on at most this many records. -/
def HandsAtMost (n : Nat) (f : Side → State → State) : Prop := ∀ sd s, ∃ l, l.length ≤ n ∧ Takes l s (f sd s)

theorem HandsAtMost.bothSides {n : Nat} {f : Side → State → State} (h : HandsAtMost n f) (s : State) :
    ∃ l, l.length ≤ 2 * n ∧ Takes l s (bothSides (sideEvent f) s) := by
  unfold Machine.bothSides; split
  · obtain ⟨l, hl, hf⟩ := h .east s
    obtain ⟨m, hm, hg⟩ := h .west (sideEvent f .east s)
    exact ⟨l ++ m, by rw [List.length_append]; omega, hf.judged.trans hg.judged⟩
  · obtain ⟨l, hl, hf⟩ := h .west s
    obtain ⟨m, hm, hg⟩ := h .east (sideEvent f .west s)
    exact ⟨l ++ m, by rw [List.length_append]; omega, hf.judged.trans hg.judged⟩

theorem onToHold_takes (sd : Side) (s : State) : Takes [] s (onToHold sd s) := by
  unfold onToHold; split <;> exact .none rfl rfl

theorem judgeDark_takes (sd : Side) (s : State) : Takes [] s (judgeDark sd s) := by
  unfold judgeDark; split <;> exact .none rfl rfl

theorem holdBegun_hands : HandsAtMost 2 holdBegun := fun sd s => by
  unfold holdBegun
  cases hs : stateOf s sd
  case dark | listen => exact ⟨[], Nat.zero_le _, .none rfl rfl⟩
  case probe | ramp | run => exact ⟨_, by simp, litExit_takes sd _ _ _ s⟩
  case stepdown =>
    have h := enterLockout_takes sd .ordered .ordered s
    rw [if_pos (by rw [hs]; rfl)] at h
    exact ⟨_, by simp, h⟩
  all_goals exact ⟨[], Nat.zero_le _, .none rfl rfl⟩

theorem holdEnded_hands : HandsAtMost 0 holdEnded := fun sd s => ⟨[], Nat.le_refl _, by
  unfold holdEnded
  cases stateOf s sd
  case hold =>
    have hdark : Takes [] s (enterDark sd (tripRest s) s) :=
      (onToHold_takes sd (modSide sd (fun r => r.darkened r.reason (tripRest s)) s)).before rfl rfl
    exact hdark.trans (judgeDark_takes sd _)
  case dark => exact judgeDark_takes sd s
  all_goals exact .none rfl rfl⟩

theorem recomputeView_hands (s : State) : ∃ l, l.length ≤ 4 ∧ Takes l s (recomputeView s) := by
  by_cases hsame : heldView s = s.hold.view
  · rw [recomputeView_same hsame]; exact ⟨[], Nat.zero_le _, .none rfl rfl⟩
  · by_cases h0 : s.hold.view = 0
    · rw [recomputeView_begins h0 fun h => hsame (h.trans h0.symm)]
      obtain ⟨l, hl, h⟩ := holdBegun_hands.bothSides (reviewed s)
      exact ⟨l, hl, h.before rfl rfl⟩
    · by_cases h1 : heldView s = 0
      · rw [recomputeView_ends h0 h1]
        obtain ⟨l, hl, h⟩ := holdEnded_hands.bothSides (reviewed s)
        exact ⟨l, by omega, h.before rfl rfl⟩
      · rw [recomputeView_still_held ⟨fun h => absurd h h0, fun h => absurd h h1⟩]
        exact ⟨[], Nat.zero_le _, .none rfl rfl⟩

/-- Records that find room are queued behind the others, and none is lost. -/
theorem foldl_joinRecord_room (l : List StoreRecord) (c : StoreCtl) (h : c.queue.length + l.length ≤ 4) :
    l.foldl (fun c r => joinRecord r c) c =
      { c with queue := (l.foldl (fun c r => joinRecord r c) c).queue } := by
  induction l generalizing c with
  | nil => rfl
  | cons r l ih =>
    have hroom : c.queue.length < 4 := by simp only [List.length_cons] at h; omega
    have hend : joinEnd r c = { c with queue := c.queue ++ [r] } := if_pos hroom
    have hjoin : ∃ q, joinRecord r c = { c with queue := q } ∧ q.length ≤ c.queue.length + 1 := by
      cases r with
      | trip x => exact ⟨_, hend, by simp⟩
      | lock sd a b n =>
        unfold joinRecord; dsimp only; split
        · exact ⟨_, rfl, by simp [replaceLock]⟩
        · exact ⟨_, hend, by simp⟩
    obtain ⟨q, hq, hlen⟩ := hjoin
    rw [List.foldl_cons, hq, ih _ (by simp only [List.length_cons] at h ⊢; omega)]

/-! ### The clearing of the flag -/

theorem endDark_takes (held : Bool) (sd : Side) (s : State) : Takes [] s (endDark held sd s) := by
  unfold endDark; split
  · refine Takes.judged ?_
    unfold darkEnded; split <;> exact .none rfl rfl
  · exact .none rfl rfl

theorem clearFlag_hands (s : State) : ∃ l, l.length ≤ 4 ∧ Takes l s (clearFlag s) := by
  cases hv : s.tab.validated with
  | false => rw [clearFlag_of_not_validated hv]; exact ⟨[], Nat.zero_le _, .none rfl rfl⟩
  | true =>
    rw [clearFlag_of_validated hv]
    have hwest := (endDark_takes (darkHolds s .west) .west (unflagged s)).before (s := s) rfl rfl
    have heast := hwest.trans (endDark_takes (darkHolds s .east) .east _)
    obtain ⟨l, hl, h⟩ := recomputeView_hands
      (endDark (darkHolds s .east) .east (endDark (darkHolds s .west) .west (unflagged s)))
    exact ⟨l, hl, heast.trans h⟩

theorem heldView_congr (h : still s = still t) : heldView s = heldView t := by
  unfold heldView obeySet pos
  rw [show s.hold = t.hold from congrArg Still.hold h, show s.position = t.position from congrArg Still.position h,
    show s.tab = t.tab from congrArg Still.tab h]

theorem reviewed_congr (h : still s = still t) : still (reviewed s) = still (reviewed t) := by
  have hr (x : State) : still (reviewed x) =
      { still x with hold := { (still x).hold with view := heldView x } } := rfl
  rw [hr, hr, h, heldView_congr h]

theorem clearFlag_still (h : s.tab.validated = true) : still (clearFlag s) = still (reviewed (unflagged s)) := by
  rw [clearFlag_of_validated h, reviewed_still]
  exact reviewed_congr ((endDark_still _ _ _).trans (endDark_still _ _ _))

theorem unflagged_still (s : State) : still (unflagged s) =
    { still s with tab := { s.tab with validated := false }, scan := { s.scan with dark := noDark } } := by
  have h := onPdu_still_of_cuts (zeroPumps s.tab (eight.filter fun n => driveOf s.pdu n != 0)) s (zeroPumps_cuts _ _ _)
  exact congrArg (fun x : Still => { x with
    tab := { s.tab with validated := false }, scan := { s.scan with dark := noDark } }) h

/-- What the clearing leaves of everything but the sides, the pumps, the messages and the records. -/
theorem clearFlag_of_still (s : State) : ∃ view dark,
    still (clearFlag s) = { still s with
      tab := { s.tab with validated := false }, scan := { s.scan with dark := dark }
      hold := { s.hold with view := view } } ∧
    (s.tab.validated = true → view = heldView (unflagged s) ∧ dark = noDark) ∧
    (s.tab.validated = false → view = s.hold.view ∧ dark = s.scan.dark) := by
  cases hv : s.tab.validated with
  | false =>
    refine ⟨s.hold.view, s.scan.dark, ?_, fun h => absurd h Bool.false_ne_true, fun _ => ⟨rfl, rfl⟩⟩
    rw [clearFlag_of_not_validated hv]
    have htab : s.tab = { s.tab with validated := false } := by rw [← hv]
    exact congrArg (fun x => { still s with tab := x }) htab
  | true =>
    refine ⟨heldView (unflagged s), noDark, ?_, fun _ => ⟨rfl, rfl⟩, fun h => absurd h.symm Bool.false_ne_true⟩
    rw [clearFlag_still hv]
    exact congrArg (fun x : Still => { x with hold := { s.hold with view := heldView (unflagged s) } }) (unflagged_still s)

end

end Sys2Proof.Machine
end

section
/-! The Store Controller's requests (R187, R188, R192), the start of a loader run (R185, R193) and the reads before its
last (R185). -/

namespace Sys2Proof.Machine

section
variable {s t u : State} {sd : Side} {req : Request}

/-! ### The drives stay eight -/

theorem zeroOne_length (t : TableMem) (n : Nat) (u : PumpUnit) : (zeroOne t n u).drive.length = u.drive.length := by
  unfold zeroOne; split
  · rfl
  · simp

theorem foldl_drive_length {α : Type} {f : PumpUnit → α → PumpUnit}
    (h : ∀ u a, (f u a).drive.length = u.drive.length) (l : List α) (u : PumpUnit) :
    (l.foldl f u).drive.length = u.drive.length := by
  induction l generalizing u with
  | nil => rfl
  | cons a l ih => rw [List.foldl_cons, ih, h]

theorem zeroChain_length (t : TableMem) (k n : Nat) (u : PumpUnit) : (zeroChain t k n u).drive.length = u.drive.length := by
  induction k generalizing n u with
  | zero => exact zeroOne_length t n u
  | succ k ih => unfold zeroChain; rw [zeroOne_length, foldl_drive_length fun v a => ih a v]

theorem zeroPumps_length (t : TableMem) (l : List Nat) (u : PumpUnit) : (zeroPumps t l u).drive.length = u.drive.length :=
  foldl_drive_length (fun v n => zeroChain_length t 8 n v) l u

theorem raisePump_length (t : TableMem) (b : Bool) (n : Nat) (v : Word16) (u : PumpUnit) :
    (raisePump t b n v u).drive.length = u.drive.length := by
  unfold raisePump; split
  · exact List.length_set
  · exact zeroChain_length t 8 n u

theorem Move.drive_length {X : Premises} (hX : X.Apart) (h : Move X s t) (hs : s.pdu.drive.length = 8) :
    t.pdu.drive.length = 8 := by
  cases h with
  | frame h _ => rw [h.drive]; exact hs
  | exit h => exact (zeroPumps_length _ _ _).trans hs
  | backOff h _ _ => exact (zeroPumps_length _ _ _).trans hs
  | zero n => exact (zeroChain_length _ 8 _ _).trans hs
  | raise h _ => exact (raisePump_length _ _ _ _ _).trans hs
  | latch _ => exact List.length_replicate
  | restart pins => exact List.length_replicate
  | recompute h => exact absurd hX.view h
  | extinct n h => exact absurd hX.latch h
  | loaderStart _ h _ => exact absurd hX.load h
  | loaderEnd _ _ _ h _ => exact absurd hX.load h
  | retire h _ => exact hs
  | listen => exact hs
  | advance => exact hs
  | hold u _ => exact hs
  | unflag _ _ => exact hs
  | flag _ _ _ => exact hs
  | retable h => exact hs

theorem clearFlag_after (h : s.tab.validated = true) : Path unassumed (unflagged s) (clearFlag s) := by
  rw [clearFlag_of_validated h]
  exact ((endDark_path _ _ _).trans (endDark_path _ _ _)).trans (recomputeView_path _)

theorem not_inForce {t : TableMem} (h : t.validated = false) (n : Nat) : n ∉ pumpsUp t sd := fun hn => by
  simpa [assigned, h] using (mem_ascending hn).1

/-- With no pump in force the lead lights none. -/
theorem leadJudge_darker (h : s.tab.validated = false) : Darker s.pdu (leadJudge s).pdu := by
  have hnone : probeLit s.tab .east = [] :=
    List.eq_nil_iff_forall_not_mem.mpr fun n hn => not_inForce h n (mem_pumpsUp_of_probeLit hn)
  have hprobe : Darker s.pdu (judgeProbe .east s).pdu := by
    unfold judgeProbe; split
    · unfold enterProbe lightProbe probeCommand
      simp only [modSide_tab, hnone]; exact .refl _
    · exact .refl _
  unfold leadJudge
  cases stateOf s .east <;> dsimp only
  case listen => exact hprobe
  case probe =>
    split
    · exact .refl _
    · split
      · exact zeroPumps_darker _ _ _
      · exact .refl _
  all_goals exact .refl _

/-- An event of a side raises no channel while no pump is in force. -/
def RaisesNone (f : Side → State → State) : Prop :=
  ∀ sd s, s.tab.validated = false → (f sd s).tab = s.tab ∧ Darker s.pdu (f sd s).pdu

theorem RaisesNone.judged {f : Side → State → State} (h : RaisesNone f) : RaisesNone (sideEvent f) := fun sd s hv => by
  obtain ⟨htab, hdark⟩ := h sd s hv
  unfold sideEvent; dsimp only; split
  · exact ⟨(congrArg Still.tab (leadJudge_still _)).trans htab, hdark.trans (leadJudge_darker (htab ▸ hv))⟩
  · exact ⟨htab, hdark⟩

theorem RaisesNone.bothSides {f : Side → State → State} (h : RaisesNone f) (hv : s.tab.validated = false) :
    Darker s.pdu (bothSides f s).pdu := by
  unfold Machine.bothSides; split
  · obtain ⟨htab, hdark⟩ := h .east s hv
    exact hdark.trans (h .west _ (htab ▸ hv)).2
  · obtain ⟨htab, hdark⟩ := h .west s hv
    exact hdark.trans (h .east _ (htab ▸ hv)).2

theorem enterLockout_darker (sd : Side) (c k : Cause) (s : State) : Darker s.pdu (enterLockout sd c k s).pdu := by
  unfold enterLockout; dsimp only; rw [sideNotice_pdu, queueRecord_pdu]; split
  · rw [queueRecord_pdu]; exact immediateCut_darker sd (modSide sd (SideRecord.lockedOut c) s)
  · exact .refl _

theorem litExit_darker (sd : Side) (c : Cause) (e : SideState) (f : SideRecord → SideRecord) (s : State) :
    Darker s.pdu (litExit sd c e f s).pdu := by
  unfold litExit; rw [sideNotice_pdu, queueRecord_pdu]; exact immediateCut_darker sd (modSide sd f s)

theorem judgeDark_pdu (sd : Side) (s : State) : (judgeDark sd s).pdu = s.pdu := by unfold judgeDark; split <;> rfl

theorem holdBegun_raisesNone : RaisesNone holdBegun := fun sd s _ => by
  refine ⟨congrArg Still.tab (holdBegun_still sd s), ?_⟩
  unfold holdBegun
  cases stateOf s sd
  case probe | ramp | run => exact litExit_darker _ _ _ _ _
  case stepdown => exact enterLockout_darker _ _ _ _
  all_goals exact .refl _

theorem holdEnded_pdu (sd : Side) (s : State) : (holdEnded sd s).pdu = s.pdu := by
  unfold holdEnded
  cases stateOf s sd <;> dsimp only
  case hold => rw [judgeDark_pdu]; exact onToHold_pdu _ _
  case dark => exact judgeDark_pdu _ _

theorem holdEnded_raisesNone : RaisesNone holdEnded := fun sd s _ =>
  ⟨congrArg Still.tab (holdEnded_still sd s), holdEnded_pdu sd s ▸ .refl _⟩

theorem darkEnded_raisesNone : RaisesNone darkEnded := fun sd s _ => by
  unfold darkEnded; split <;> exact ⟨rfl, .refl _⟩

theorem recomputeView_darker (hv : s.tab.validated = false) : Darker s.pdu (recomputeView s).pdu := by
  unfold recomputeView; dsimp only; split
  · exact .refl _
  · split
    · exact holdBegun_raisesNone.judged.bothSides hv
    · split
      · exact holdEnded_raisesNone.judged.bothSides hv
      · exact .refl _

theorem endDark_raisesNone (held : Bool) : RaisesNone (endDark held) := fun sd s hv => by
  unfold endDark; split
  · exact darkEnded_raisesNone.judged sd s hv
  · exact ⟨rfl, .refl _⟩

/-- The clearing brings every channel to zero, and nothing that follows it raises one. -/
theorem clearFlag_dark (h : s.tab.validated = true) (n : Nat) (hn : n < 8) : driveOf (clearFlag s).pdu n = 0 := by
  rw [clearFlag_of_validated h]
  obtain ⟨hw, hwest⟩ := endDark_raisesNone (darkHolds s .west) .west (unflagged s) rfl
  obtain ⟨he, heast⟩ := endDark_raisesNone (darkHolds s .east) .east
    (endDark (darkHolds s .west) .west (unflagged s)) (by rw [hw]; rfl)
  exact ((hwest.trans heast).trans (recomputeView_darker (by rw [he, hw]; rfl))).zero (above_dark s hn)

theorem clearFlag_drive (h : s.tab.validated = true) (hlen : s.pdu.drive.length = 8) :
    (clearFlag s).pdu.drive = List.replicate 8 0 := by
  have hkept : (clearFlag s).pdu.drive.length = 8 := (clearFlag_after h).keeps
    (fun _ _ hm => Move.drive_length unassumed_apart hm) ((zeroPumps_length _ _ _).trans hlen)
  refine List.eq_replicate_iff.mpr ⟨hkept, fun b hb => ?_⟩
  obtain ⟨n, hn, rfl⟩ := List.getElem_of_mem hb
  have hdark := clearFlag_dark h n (by omega)
  unfold driveOf at hdark
  rwa [List.getD_eq_getElem _ _ hn] at hdark

/-! ### A loader run begins (R185, R193) -/

/-- A read that the store acknowledges begins, with the end of the command. -/
theorem settle_beginRead (origin : LoaderOrigin) (st : LoaderStep) (v : LoaderResult) (hack : ackOf s = true) :
    settle (beginRead origin st v s) =
      { s with ctl := { s.ctl with op := .loading origin st v }, choices := Choices.default } := by
  unfold beginRead; rw [if_pos hack, settle_busy StoreOp.noConfusion StoreOp.noConfusion]; rfl

/-- The state in which a loader run clears the flag. -/
def loadingBegun (origin : LoaderOrigin) (s : State) : State := setOp (.loading origin .header .noneYet) s

theorem loadingBegun_busy (origin : LoaderOrigin) (s : State) : Busy (loadingBegun origin s) :=
  ⟨StoreOp.noConfusion, StoreOp.noConfusion⟩

/-- The run's first read as the store acknowledges it, with the end of the command. -/
theorem settle_loaderStart (origin : LoaderOrigin) (hack : ackOf s = true) : settle (loaderStart origin s) =
    { clearFlag (loadingBegun origin s) with
      ctl := { (clearFlag (loadingBegun origin s)).ctl with op := .loading origin .header .noneYet }
      choices := Choices.default } := by
  obtain ⟨l, -, hl⟩ := clearFlag_hands (loadingBegun origin s)
  have hch := (hl (loadingBegun_busy origin s)).2
  have hacked : ackOf (clearFlag (loadingBegun origin s)) = true := by unfold ackOf; rw [hch]; exact hack
  exact settle_beginRead origin .header .noneYet hacked

/-- With room for them the clearing's records are queued, and nothing else changes at the controller. -/
theorem clearFlag_ctl (hb : Busy s) (hq : s.ctl.queue = []) :
    (clearFlag s).ctl = { s.ctl with queue := (clearFlag s).ctl.queue } := by
  obtain ⟨l, hlen, hl⟩ := clearFlag_hands s
  obtain ⟨hc, -⟩ := hl hb
  rw [hc]; exact foldl_joinRecord_room l s.ctl (by rw [hq]; simpa using hlen)

/-- Settles O6: the drain that meets another route reset, the start with a clear flag, and the start that clears it. -/
theorem drainedRouteResetStartsLoader : Obligations.DrainedRouteResetStartsLoader := by
  intro ch s hp hdrain hop hq
  have hwaits (x : State) (hx : x.msg.resetPhase ≠ .idle) : startAfterDrain x = x := by
    unfold startAfterDrain; rw [if_neg (by simp [hx])]
  have hstarts (hr : s.msg.resetPhase = .idle) : startAfterDrain (withChoices ch s) =
      loaderStart .routeReset (onCtl (fun c => { c with draining := false, lost := 0 }) (withChoices ch s)) := by
    unfold startAfterDrain; rw [if_pos (by simp [hdrain, hop, hq, hr])]
  have hexec (hr : s.msg.resetPhase = .idle) (hack : ch.acks.headD true = true) :=
    (exec_settles (c := .loaderStartAfterDrain ch) (f := startAfterDrain) rfl hp (hstarts hr)).trans
      (congrArg Host.Outcome.next (settle_loaderStart .routeReset hack))
  refine ⟨fun hr => exec_settles (f := startAfterDrain) rfl hp (hwaits _ hr), fun hr hv hack => ?_, fun hr hack => ?_⟩
  · have hclear := clearFlag_of_not_validated (s := loadingBegun .routeReset
      (onCtl (fun c => { c with draining := false, lost := 0 }) (withChoices ch s))) hv
    rw [hexec hr hack, hclear]; rfl
  · refine ⟨_, hexec hr hack, rfl, ?_⟩
    have hctl := clearFlag_ctl (loadingBegun_busy .routeReset
      (onCtl (fun c => { c with draining := false, lost := 0 }) (withChoices ch s))) hq
    obtain ⟨view, dark, hstill, hset, -⟩ := clearFlag_of_still (loadingBegun .routeReset
      (onCtl (fun c => { c with draining := false, lost := 0 }) (withChoices ch s)))
    obtain ⟨-, hpos, htime, hlines, hports, htx, htab, hscan, -, hloc, hstore, -, hpend, hlatch, hstart⟩ :=
      still_fields (t := clearFlag _) (s := { loadingBegun .routeReset
        (onCtl (fun c => { c with draining := false, lost := 0 }) (withChoices ch s)) with
        tab := { s.tab with validated := false }, scan := { s.scan with dark := dark }
        hold := { s.hold with view := view } }) hstill
    refine ⟨?_, ?_, htab, fun hv => ?_, fun hv hlen => clearFlag_drive hv hlen, hstart, hlatch, hports, htx, hloc, hlines,
      htime, hstore, hpos, hpend⟩
    · dsimp only; rw [hctl]; rfl
    · dsimp only; rw [hctl]; rfl
    · exact hscan.trans (by rw [(hset hv).2]; rfl)

/-! ### The store requests (R187, R188, R192) -/

/-- The refusals of STORE-COMMIT and STORE-RELOAD and of LOG-READ in their order, and their rule. -/
theorem exec_storeCommit (h : Accepted s req) (ch : Choices) : exec (.storeCommit req ch) s = .next (settle
    (if req.len ≠ 0 then answer 13 req [4] (withChoices ch s)
     else if s.ctl.op.isReloading then answer 13 req [1] (withChoices ch s)
     else if !s.tab.validated then answer 13 req [5] (withChoices ch s)
     else if s.ctl.op ≠ .idle then answer 13 req [1] (withChoices ch s)
     else beginCommitPage ⟨(taken s req).source, req.tag⟩ 0 (withChoices ch s))) := by
  refine exec_settles (f := fun t => reqStoreCommit (taken t req) t) rfl h.1 ?_
  have hrule := judgeModifying_accepted h ch 13 alone (fun t =>
    if (taken s req).len ≠ 0 then reply 13 (taken s req) (alone .value) t
    else if t.ctl.op.isReloading then reply 13 (taken s req) (alone .busy) t
    else if !t.tab.validated then reply 13 (taken s req) (alone .notValid) t
    else if t.ctl.op ≠ .idle then reply 13 (taken s req) (alone .busy) t
    else beginCommitPage ⟨(taken s req).source, (taken s req).tag⟩ 0 t)
  refine hrule.trans ?_
  simp only [taken_len, taken_tag, withChoices_ctl, withChoices_tab, reply_begun]
  rfl

theorem exec_storeReload (h : Accepted s req) (ch : Choices) : exec (.storeReload req ch) s = .next (settle
    (if req.len ≠ 0 then answer 14 req [4] (withChoices ch s)
     else if s.ctl.op ≠ .idle then answer 14 req [1] (withChoices ch s)
     else if eitherActive s then answer 14 req [2] (withChoices ch s)
     else loaderStart (.reload ⟨(taken s req).source, req.tag⟩) (withChoices ch s))) := by
  refine exec_settles (f := fun t => reqStoreReload (taken t req) t) rfl h.1 ?_
  have hrule := judgeModifying_accepted h ch 14 alone (fun t =>
    if (taken s req).len ≠ 0 then reply 14 (taken s req) (alone .value) t
    else if t.ctl.op ≠ .idle then reply 14 (taken s req) (alone .busy) t
    else if eitherActive t then reply 14 (taken s req) (alone .state) t
    else loaderStart (.reload ⟨(taken s req).source, (taken s req).tag⟩) t)
  refine hrule.trans ?_
  simp only [taken_len, taken_tag, withChoices_ctl, withChoices_eitherActive, reply_begun]
  rfl

theorem exec_logRead (hp : s.powered = true) (hr : s.msg.resetPhase = .idle) (ch : Choices) :
    exec (.logRead req ch) s = .next (settle
      (if req.len ≠ 2 then answer 15 req [4] (withChoices ch s)
       else if 63 < (octetAt req.body 0).toNat ∨ 1 < (octetAt req.body 1).toNat then answer 15 req [3] (withChoices ch s)
       else if s.ctl.op ≠ .idle then answer 15 req [1] (withChoices ch s)
       else beginLogRead (taken s req) (withChoices ch s))) := by
  refine exec_settles (f := fun t => reqLogRead (taken t req) t) rfl hp ?_
  have hrule := judgePending_idle hr ch 15 (taken s req) alone (fun t =>
    if (taken s req).len ≠ 2 then reply 15 (taken s req) (alone .value) t
    else if 63 < (octetAt (taken s req).body 0).toNat ∨ 1 < (octetAt (taken s req).body 1).toNat then
      reply 15 (taken s req) (alone .index) t
    else if t.ctl.op ≠ .idle then reply 15 (taken s req) (alone .busy) t
    else beginLogRead (taken s req) t)
  refine hrule.trans ?_
  simp only [taken_len, taken_body, withChoices_ctl, reply_begun]
  rfl

/-- Settles O37: the branches of the three requests. -/
theorem storeRequestRefusals : Obligations.StoreRequestRefusals := by
  intro req ch s hp hr
  refine ⟨fun hm hl => ?_, fun hm hl hn hv => ?_, fun hm hl hop => ⟨fun hor => ?_, ?_⟩, fun hm hl hop he => ?_,
    fun hl => ?_, fun hl hx => ?_, fun hl h0 h1 hop => ?_⟩
  · rw [exec_storeCommit ⟨hp, hm, hr⟩, exec_storeReload ⟨hp, hm, hr⟩, if_pos hl, if_pos hl]; exact ⟨rfl, rfl⟩
  · rw [exec_storeCommit ⟨hp, hm, hr⟩, if_neg (not_not.2 hl), if_neg (by simp [hn]), if_pos (by rw [hv]; rfl)]
  · rw [exec_storeCommit ⟨hp, hm, hr⟩, if_neg (not_not.2 hl)]
    by_cases hre : s.ctl.op.isReloading = true
    · rw [if_pos hre]
    · have hv : s.tab.validated = true := hor.resolve_right hre
      rw [if_neg hre, if_neg (by rw [hv]; decide), if_pos hop]
  · rw [exec_storeReload ⟨hp, hm, hr⟩, if_neg (not_not.2 hl), if_pos hop]
  · rw [exec_storeReload ⟨hp, hm, hr⟩, if_neg (not_not.2 hl), if_neg (not_not.2 hop), if_pos he]
  · rw [exec_logRead hp hr, if_pos hl]
  · rw [exec_logRead hp hr, if_neg (not_not.2 hl), if_pos hx]
  · rw [exec_logRead hp hr, if_neg (not_not.2 hl), if_neg (by omega), if_pos hop]

/-- Settles O38: each of the three accesses as the store acknowledges it. -/
theorem storeRequestsBeginOperation : Obligations.StoreRequestsBeginOperation := by
  intro req ch s hp hr hop hack who
  have hacked : ackOf (withChoices ch s) = true := hack
  refine ⟨fun hm hl hv => ?_, fun hm hl he => ?_, fun hl h0 h1 => ?_⟩
  · rw [exec_storeCommit ⟨hp, hm, hr⟩, if_neg (not_not.2 hl), if_neg (by rw [hop]; decide), if_neg (by rw [hv]; decide),
      if_neg (not_not.2 hop), beginCommitPage, if_pos hacked, settle_busy StoreOp.noConfusion StoreOp.noConfusion]
    rfl
  · rw [exec_storeReload ⟨hp, hm, hr⟩, if_neg (not_not.2 hl), if_neg (not_not.2 hop), if_neg (by simp [he]),
      settle_loaderStart _ hacked]
    refine ⟨_, rfl, rfl, ?_⟩
    obtain ⟨view, dark, hstill, -, -⟩ := clearFlag_of_still (loadingBegun (.reload who) (withChoices ch s))
    obtain ⟨-, -, htime, hlines, hports, -, htab, -, -, hloc, hstore, -, -, -, hstart⟩ :=
      still_fields (t := clearFlag _) (s := { loadingBegun (.reload who) (withChoices ch s) with
        tab := { s.tab with validated := false }, scan := { s.scan with dark := dark }
        hold := { s.hold with view := view } }) hstill
    exact ⟨htab, hstart, hstore, hports, hloc, hlines, htime⟩
  · rw [exec_logRead hp hr, if_neg (not_not.2 hl), if_neg (by omega), if_neg (not_not.2 hop), beginLogRead, if_pos hacked,
      settle_busy StoreOp.noConfusion StoreOp.noConfusion]
    simp [setOp, onCtl, popAck, withChoices]; rfl

/-! ### The reads of a loader run (R185) -/

theorem judgeHeader_signed {l : List Octet} (h : word16At l 0 = 0x5C3A) : judgeHeader l =
    if 692 < (word16At l 4).toNat then some .oversize
    else if (word16At l 4).toNat < 692 then some .corrupt else none := by
  unfold judgeHeader; rw [if_neg (by rw [h]; decide), if_neg (not_not.2 h)]; rfl

/-- A read completes, and the run goes on as its step says. -/
theorem exec_loaderRead {origin : LoaderOrigin} {st : LoaderStep} {v : LoaderResult} (hp : s.powered = true)
    (hop : s.ctl.op = .loading origin st v) (ch : Choices) :
    exec (.loaderReadComplete ch) s = .next (settle (loaderRead origin st v (withChoices ch s))) := by
  refine exec_settles (f := loaderProgress) rfl hp ?_
  unfold loaderProgress; rw [withChoices_ctl, hop]

/-- Settles O53: the three reads before the last, the first by the header it finds. -/
theorem loaderReadsAdvance : Obligations.LoaderReadsAdvance := by
  intro origin v ch s hp hack h go
  have hacked : ackOf (withChoices ch s) = true := hack
  have hgo (st : LoaderStep) (r : LoaderResult) : settle (beginRead origin st r (withChoices ch s)) =
      { s with ctl := { s.ctl with op := .loading origin st r }, choices := Choices.default } :=
    settle_beginRead origin st r hacked
  refine ⟨fun hop => ?_, fun hop => ?_, fun hop => ?_⟩
  · have hbad {x : LoaderResult} (hj : judgeHeader (Memory.readOctets s.store 0 8) = some x) :
        exec (.loaderReadComplete ch) s = go .lockArea x := by
      rw [exec_loaderRead hp hop, loaderRead, withChoices_store, hj]; exact congrArg _ (hgo _ _)
    have hwhole (hj : judgeHeader (Memory.readOctets s.store 0 8) = none) :
        exec (.loaderReadComplete ch) s = go .image .noneYet := by
      rw [exec_loaderRead hp hop, loaderRead, withChoices_store, hj]; exact congrArg _ (hgo _ _)
    refine ⟨fun h0 => hbad (if_pos h0), fun h0 hs => hbad ((if_neg h0).trans (if_pos hs)),
      fun hs hl => hbad ((judgeHeader_signed hs).trans (if_pos hl)), fun hs hl => hbad ?_, fun hs hl => hwhole ?_⟩
    · exact (judgeHeader_signed hs).trans ((if_neg (by omega)).trans (if_pos hl))
    · exact (judgeHeader_signed hs).trans ((if_neg (by omega)).trans (if_neg (by omega)))
  · rw [exec_loaderRead hp hop]; exact congrArg _ (hgo _ _)
  · rw [exec_loaderRead hp hop]; exact congrArg _ (hgo _ _)

end

end Sys2Proof.Machine
end

section
/-! The expiries of the side timers (R50, R54, R60, R73, R91, R101, R107, R180) and the trip lines (R63). -/

namespace Sys2Proof.Machine

section
variable {s t u : State} {sd : Side} {ch : Choices}

/-! ### Proving timer, arming and ageing -/

/-- Settles O45: each expiry stops its timer. -/
theorem provingAndArmingExpire : Obligations.ProvingAndArmingExpire := fun sd _ hp =>
  ⟨exec_settles (f := provingExpired sd) rfl hp rfl, exec_settles (f := armingExpired sd) rfl hp rfl⟩

theorem ageFailures_eq (uptime : Word32) (w : Nat) (l : List Word32) :
    ageFailures uptime w l = l.dropWhile fun x => decide (w < uptime.toNat - x.toNat) := by
  induction l with
  | nil => rfl
  | cons x l ih =>
    unfold ageFailures
    by_cases h : x.toNat + w < uptime.toNat
    · rw [if_pos h, ih, List.dropWhile_cons_of_pos (by simp; omega)]
    · rw [if_neg h, List.dropWhile_cons_of_neg (by simp; omega)]

theorem ageSide_unmarked (h : s.time.second.get sd = false) : ageSide sd s = s := by
  unfold ageSide; rw [if_neg (by simp [h])]

theorem ageSide_marked (h : s.time.second.get sd = true) : ageSide sd s =
    { s with
      time := { s.time with second := s.time.second.set sd false }
      side := s.side.set sd (if (s.side.get sd).budgetHeld then s.side.get sd
        else { s.side.get sd with failures := ageFailures s.time.uptime (60 * budgetWindow s) (s.side.get sd).failures }) } := by
  unfold ageSide; rw [if_pos h]; rfl

/-- Settles O46: the ageing as the drop of the stamps at the head that are older than the window. -/
theorem failureListAges : Obligations.FailureListAges := by
  intro sd s hp window aged rest
  have haged : ageFailures s.time.uptime (60 * budgetWindow s) (s.side.get sd).failures = aged := ageFailures_eq _ _ _
  refine ⟨fun h => exec_settles (f := ageSide sd) rfl hp (ageSide_unmarked h), fun h hl hb => ?_, fun h hn => ?_⟩
  · refine exec_settles (f := ageSide sd) rfl hp ((ageSide_marked (s := begun s) h).trans ?_)
    have hheld : (s.side.get sd).budgetHeld = true := by
      unfold SideRecord.budgetHeld; rw [show (s.side.get sd).state = .lockout from hl, hb]; rfl
    have hkept : s.side.set sd (if (s.side.get sd).budgetHeld then s.side.get sd
        else { s.side.get sd with failures := ageFailures s.time.uptime (60 * budgetWindow s) (s.side.get sd).failures }) =
        s.side := by rw [if_pos hheld, Sides.set_get]
    exact congrArg (fun p : Sides SideRecord => { rest with side := p }) hkept
  · refine exec_settles (f := ageSide sd) rfl hp ((ageSide_marked (s := begun s) h).trans ?_)
    have hheld : (s.side.get sd).budgetHeld ≠ true := fun hb => hn (by
      simpa [SideRecord.budgetHeld, stateOf] using hb)
    have hdrops : s.side.set sd (if (s.side.get sd).budgetHeld then s.side.get sd
        else { s.side.get sd with failures := ageFailures s.time.uptime (60 * budgetWindow s) (s.side.get sd).failures }) =
        s.side.set sd { s.side.get sd with failures := aged } := by rw [if_neg hheld, haged]
    exact congrArg (fun p : Sides SideRecord => { rest with side := p }) hdrops

/-! ### What a side's event leaves outside -/

theorem SameOutside.of_still (h : still t = still s) : SameOutside s t := by
  obtain ⟨h1, h2, h3, -, h5, h6, h7, h8, -, h10, h11, h12, h13, h14, h15⟩ := still_fields h
  exact ⟨h1, h2, h3, h5, h6, h7, h8, h10, h11, h12, h13, h14, h15⟩

theorem SameOutside.settle (h : SameOutside s t) : SameOutside s (settle t) := by
  obtain ⟨k1, k2, k3, -, k5, k6, k7, k8, -, k10, k11, k12, k13, k14, k15⟩ := settle_fields t
  obtain ⟨h1, h2, h3, h5, h6, h7, h8, h10, h11, h12, h13, h14, h15⟩ := h
  exact ⟨k1.trans h1, k2.trans h2, k3.trans h3, k5.trans h5, k6.trans h6, k7.trans h7, k8.trans h8, k10.trans h10,
    k11.trans h11, k12.trans h12, k13.trans h13, k14.trans h14, k15.trans h15⟩

/-- The lines and the Hold Unit after what keeps everything that no side event changes. -/
theorem lines_hold_of_still (h : still t = still s) : (settle t).lines = s.lines ∧ (settle t).hold = s.hold :=
  ⟨(settle_fields t).2.2.2.1.trans (congrArg Still.lines h),
    (settle_fields t).2.2.2.2.2.2.2.2.1.trans (congrArg Still.hold h)⟩

@[simp] theorem settle_stateOf (t : State) (sd : Side) : stateOf (settle t) sd = stateOf t sd := by
  unfold stateOf; rw [settle_side]

/-- An event that leaves its side's state as it is moves nothing else. -/
theorem sideEvent_to {f : Side → State → State} (h : f sd s = t) (hs : stateOf t sd = stateOf s sd) :
    sideEvent f sd s = t := by
  rw [sideEvent_same f sd s (by rw [h, hs]), h]

/-- An event that begins with a change that moves no state is the rest of it, taken by its side. -/
theorem sideEvent_of {f g : Side → State → State} (h : f sd s = g sd u) (hs : stateOf u sd = stateOf s sd) :
    sideEvent f sd s = sideEvent g sd u := by
  unfold sideEvent; rw [h]
  cases sd with
  | west => rw [hs]
  | east => rfl

theorem modSide_stateOf {f : SideRecord → SideRecord} (h : (f (s.side.get sd)).state = (s.side.get sd).state) (x : Side) :
    stateOf (modSide sd f s) x = stateOf s x := by
  unfold stateOf
  by_cases hx : x = sd
  · subst hx; rw [modSide_side, Sides.get_set, h]
  · rw [modSide_side, Sides.get_set_ne _ _ _ _ hx]

/-! ### The retry timer (R54, R56, R84) -/

theorem judgeDark_listens (h : MayListen sd s) :
    judgeDark sd s = modSide sd (SideRecord.listening (hdrSettle s.tab.tables)) s := if_pos ((mayListen_iff sd s).2 h)

theorem judgeDark_msg (sd : Side) (s : State) : (judgeDark sd s).msg = s.msg := by unfold judgeDark; split <;> rfl

theorem retryExpired_idle (h : (s.side.get sd).retry = none) : retryExpired sd s = s := by
  unfold retryExpired; rw [if_neg (by simp [h])]

theorem retryExpired_judges (h : (s.side.get sd).retry ≠ none) : retryExpired sd s =
    judgeDark sd (modSide sd (fun r => { r with retry := none }) s) := by
  unfold retryExpired; rw [if_pos (Option.isSome_iff_ne_none.mpr h)]

/-- Settles O42: an idle timer, one whose side may not listen, and the move to LISTEN. -/
theorem retryTimerExpiryJudgesListen : Obligations.RetryTimerExpiryJudgesListen := by
  intro sd s hp may
  have hmay : MayListen sd (modSide sd (fun r => { r with retry := none }) (begun s)) ↔ may := by
    simp [MayListen, may, stateOf, begun]
  have hjudged (h : (s.side.get sd).retry ≠ none) := retryExpired_judges (s := begun s) h
  refine ⟨fun h => ?_, fun h hn => ?_, fun h hm => ?_⟩
  · exact exec_settles (f := sideEvent retryExpired sd) rfl hp (sideEvent_to (retryExpired_idle (s := begun s) h) rfl)
  · have hto := sideEvent_to ((hjudged h).trans (judgeDark_stays fun hm => hn (hmay.1 hm))) (modSide_stateOf rfl sd)
    exact exec_settles (f := sideEvent retryExpired sd) rfl hp hto
  · refine ⟨_, exec_settles (f := sideEvent retryExpired sd) rfl hp rfl, ?_⟩
    have hlisten : sideEvent retryExpired sd (begun s) = sideEvent judgeDark sd _ :=
      sideEvent_of (hjudged h) (modSide_stateOf rfl sd)
    have hrec : (settle (sideEvent retryExpired sd (begun s))).side.get sd =
        SideRecord.listening (hdrSettle s.tab.tables) { s.side.get sd with retry := none } := by
      rw [settle_side, hlisten, sideEvent_own, judgeDark_listens (hmay.2 hm), modSide_side, Sides.get_set, modSide_side,
        Sides.get_set]; rfl
    have hstill : still (sideEvent retryExpired sd (begun s)) = still (begun s) := by
      rw [hlisten]; exact sideEvent_still _ judgeDark_still sd _
    obtain ⟨hlines, hhold⟩ := lines_hold_of_still hstill
    have hmsg : (settle (sideEvent retryExpired sd (begun s))).msg = s.msg := by
      rw [settle_msg, hlisten, sideEvent_msg, judgeDark_msg]; rfl
    have hout : SameOutside s (settle (sideEvent retryExpired sd (begun s))) :=
      SameOutside.settle (s := begun s) (.of_still hstill)
    unfold stateOf
    rw [show settle (sideEvent retryExpired sd (withChoices Choices.default s)) =
      settle (sideEvent retryExpired sd (begun s)) from rfl, hrec]
    exact ⟨rfl, rfl, rfl, rfl, rfl, rfl, rfl, rfl, hmsg, hlines, hhold, hout⟩

/-! ### The settle timer (R91, R94, R97, R98) -/

theorem pacingCount_congr (hs : ∀ x, stateOf t x = stateOf s x) (hp : t.ports = s.ports) (ht : t.tab = s.tab)
    (hpos : t.position = s.position) : pacingCount t = pacingCount s := by
  unfold pacingCount routeView routeSpans pos; rw [hs, hs, hp, ht, hpos]

theorem probeAllowed_congr {r : Report} (hs : ∀ x, stateOf t x = stateOf s x) (hp : t.ports = s.ports) (ht : t.tab = s.tab)
    (hpos : t.position = s.position) : ProbeAllowed t sd r ↔ ProbeAllowed s sd r := by
  unfold ProbeAllowed; rw [pacingCount_congr hs hp ht hpos, ht]

theorem settleExpired_idle (h : (s.side.get sd).settle = none) : settleExpired sd s = s := by
  unfold settleExpired; rw [if_neg (by simp [h])]

theorem settleExpired_judges (h : (s.side.get sd).settle ≠ none) : settleExpired sd s =
    judgeReady sd (modSide sd (fun r => { r with settle := none }) s) := by
  unfold settleExpired; rw [if_pos (Option.isSome_iff_ne_none.mpr h)]

theorem judgeReady_side (h : stateOf s sd = .listen) (hr : readyConditions s sd = true) :
    judgeReady sd s = judgeProbe sd (modSide sd (fun r => { r with ready := true }) s) := if_pos ⟨h, hr⟩

/-- Settles O43: an idle timer, a side that is not READY, and READY with the move to PROBE that its far view allows. -/
theorem settleTimerExpirySetsReady : Obligations.SettleTimerExpirySetsReady := by
  intro sd s hp ready
  let x := modSide sd (fun r => { r with settle := none }) (begun s)
  have hxs (y) : stateOf x y = stateOf s y := modSide_stateOf (s := begun s) rfl y
  have hready : (stateOf x sd = .listen ∧ (x.side.get sd).settle = none ∧ (x.side.get sd).agree.state = .settled ∧
      (x.ports.get sd).condition = .clear ∧ x.lines.trip.get sd = false) ↔ ready := by
    rw [hxs]; simp [x, ready, begun]
  have hevent (h : (s.side.get sd).settle ≠ none) : sideEvent settleExpired sd (begun s) = sideEvent judgeReady sd x :=
    sideEvent_of (settleExpired_judges (s := begun s) h) (hxs sd)
  obtain ⟨hstays, henters⟩ := judgeReady_judged sd x
  rw [hready] at hstays henters
  have hplain (h : (s.side.get sd).settle ≠ none) (hr : ready)
      (hn : ∀ r, (x.ports.get sd).report = some r → ¬ ProbeAllowed x sd r) : sideEvent settleExpired sd (begun s) =
        { begun s with side := s.side.set sd { s.side.get sd with settle := none, ready := true } } := by
    rw [hevent h, (henters hr).2.2 hn]; cases sd <;> rfl
  refine ⟨fun h => ?_, fun h hn => ?_, fun h hr hf => ?_, fun h hr => ?_⟩
  · exact exec_settles (f := sideEvent settleExpired sd) rfl hp (sideEvent_to (settleExpired_idle (s := begun s) h) rfl)
  · exact exec_settles (f := sideEvent settleExpired sd) rfl hp ((hevent h).trans (hstays hn))
  · exact exec_settles (f := sideEvent settleExpired sd) rfl hp
      (hplain h hr fun r hr' => absurd (hf.symm.trans hr') (Option.some_ne_none r).symm)
  · refine ⟨_, exec_settles (f := sideEvent settleExpired sd) rfl hp (hevent h), ?_⟩
    obtain ⟨hout, hlines, hhold⟩ : SameOutside s (settle (sideEvent judgeReady sd x)) ∧ _ ∧ _ :=
      ⟨SameOutside.settle (s := begun s) (.of_still (sideEvent_still _ judgeReady_still sd x)),
        lines_hold_of_still (sideEvent_still _ judgeReady_still sd x)⟩
    have hmsg : (settle (sideEvent judgeReady sd x)).msg = s.msg := by
      rw [settle_msg, sideEvent_msg]; unfold judgeReady; split
      · rw [judgeProbe_msg]; rfl
      · rfl
    let y := modSide sd (fun r => { r with ready := true }) x
    have hys (z) : stateOf y z = stateOf s z := (modSide_stateOf (s := x) rfl z).trans (hxs z)
    have hyr : y.side.get sd = { s.side.get sd with settle := none, ready := true } := by simp [y, x, begun]
    have hlisten : stateOf y sd = .listen := (hys sd).trans hr.1
    have hmay {r : Report} (hf : (s.ports.get sd).report = some r) : mayProbe y sd = true ↔ ProbeAllowed s sd r := by
      rw [mayProbe_of (s := y) hf, probeAllowed_congr hys rfl rfl rfl, hyr]
      exact ⟨fun h => h.2.2, fun h => ⟨hlisten, rfl, h⟩⟩
    have hrec : (settle (sideEvent judgeReady sd x)).side.get sd = (judgeProbe sd y).side.get sd := by
      obtain ⟨h1, h2, h3⟩ := hready.2 hr
      rw [settle_side, sideEvent_own, judgeReady_side h1 ((readyConditions_iff x sd).2 ⟨h2, h3⟩)]
    rw [judgeProbe_side, hyr] at hrec
    have hprobe : stateOf (settle (sideEvent judgeReady sd x)) sd = .probe ↔ mayProbe y sd = true := by
      unfold stateOf; rw [hrec]; split
      case isTrue h => exact ⟨fun _ => h, fun _ => rfl⟩
      case isFalse h =>
        have hs : (s.side.get sd).state = .listen := hr.1
        exact ⟨fun hc => absurd (hs.symm.trans hc) (by decide), fun hc => absurd hc h⟩
    refine ⟨by rw [hrec]; split <;> rfl, by rw [hrec]; split <;> rfl, ?_, fun r hf => ⟨?_, ?_⟩, fun hpr => ⟨?_, fun r hf => ?_⟩,
      fun hli => ?_, hmsg, hlines, hhold, hout⟩
    · unfold stateOf; rw [hrec]; split
      · exact List.mem_cons_of_mem _ (List.mem_singleton.mpr rfl)
      · exact (show (s.side.get sd).state = .listen from hr.1) ▸ List.mem_cons_self
    · rintro rfl; rw [hprobe, hmay hf]; rfl
    · rintro rfl; rw [hprobe, hmay hf]; rfl
    · rw [hrec, if_pos (hprobe.1 hpr)]
    · have hallowed : ProbeAllowed x sd r := (probeAllowed_congr hxs rfl rfl rfl).2 ((hmay hf).1 (hprobe.1 hpr))
      exact (((henters hr).2.1 r hf hallowed).from (s := s) rfl rfl).congr (by rw [settle_side])
        (fun _ n _ => by rw [settle_pdu]; exact SameAt.refl n _)
    · have hn : ¬ mayProbe y sd = true := fun hm => absurd (hli.symm.trans (hprobe.2 hm)) (by decide)
      have hnone (r) (hf : (x.ports.get sd).report = some r) : ¬ ProbeAllowed x sd r := fun ha =>
        hn ((hmay hf).2 ((probeAllowed_congr hxs rfl rfl rfl).1 ha))
      rw [settle_pdu, (henters hr).2.2 hnone]; rfl

/-! ### What a trip hands on, as its command ends -/

theorem tripRecordAt_settle (sd : Side) (c : Cause) (x : SideState) (t : State) :
    tripRecordAt sd c x (settle t) = tripRecordAt sd c x t := by
  obtain ⟨-, -, -, -, hports, -, htab, hscan, hhold, -⟩ := settle_fields t
  unfold tripRecordAt rxValue txReading rxInput latestOf; rw [hports, htab, hscan, hhold]

theorem NoticesMade.settle {l : List Made} (h : NoticesMade l s t) : NoticesMade l s (settle t) := h.to (settle_msg t)

theorem LockoutHandsOn.settle {before : List Made} {c k : Cause} {x : SideState}
    (h : LockoutHandsOn ch before sd c k x s t) : LockoutHandsOn ch before sd c k x s (settle t) := by
  refine ⟨?_, NoticesMade.settle h.2⟩
  rw [tripRecordAt_settle]; exact RecordsHanded.settle h.1

theorem TripHandsOn.settle {before : List Made} {c : Cause} {x : SideState}
    (h : TripHandsOn ch before sd c x s t) : TripHandsOn ch before sd c x s (settle t) := by
  refine ⟨fun hs => (h.1 hs).settle, fun hs => ⟨?_, NoticesMade.settle (h.2 hs).2⟩⟩
  rw [tripRecordAt_settle]; exact RecordsHanded.settle (h.2 hs).1

theorem Tripped.settle {c : Cause} (h : Tripped sd c s t) : Tripped sd c s (settle t) :=
  h.congr (by rw [settle_side]) (fun n _ hn => by rw [settle_pdu]; exact hn) (by rw [settle_pdu])

theorem Trips.settle {c : Cause} (h : Trips ch sd c s t) : Trips ch sd c s (settle t) :=
  ⟨Tripped.settle h.1, TripHandsOn.settle h.2⟩

theorem TookTrip.settle {c : Cause} (h : TookTrip ch sd c s t) : TookTrip ch sd c s (settle t) := by
  refine ⟨fun hs => ?_, fun hs => (h.2 hs).settle⟩
  obtain ⟨a1, a2, a3, a4, a5, a6, a7, a8⟩ := h.1 hs
  unfold RestsWith stateOf at *; rw [settle_side]
  exact ⟨a1, a2, a3, a4, a5, a6, RecordsHanded.settle a7, NoticesMade.settle a8⟩

/-- A trip makes one notice. -/
theorem TripHandsOn.noticeNumber {c : Cause} {x : SideState} (h : TripHandsOn ch [] sd c x s t) :
    t.msg.noticeNumber = s.msg.noticeNumber + 1 := by
  have hone {m : Made} (hm : NoticesMade [m] s t) : t.msg.noticeNumber = s.msg.noticeNumber + 1 :=
    (congrArg MsgEngine.noticeNumber hm).trans (postNotice_noticeNumber _ _ _ _)
  by_cases hs : (stateOf s sd ≠ .run ∨ (s.side.get sd).proving ≠ none) ∧
      hdrBudget s.tab.tables ≤ (s.side.get sd).failures.length + 1
  · exact hone (h.1 hs).2
  · exact hone (h.2 hs).2

/-- A side's event that trips it. -/
theorem sideEvent_trips {f : Side → State → State} {c : Cause} (h : f sd s = tripLit sd c s)
    (hs : stateOf s sd ∈ [.probe, .ramp, .run]) : Trips s.choices sd c s (sideEvent f sd s) := by
  have htab : (f sd s).tab = s.tab := by rw [h]; exact congrArg Still.tab (tripLit_still sd c s)
  obtain ⟨hdark, hstep⟩ := sideEvent_pumps f sd s htab
  obtain ⟨hstill, hctl, hmsg⟩ := sideEvent_hands f sd s
  rw [h] at hdark hstep hstill hctl hmsg
  exact (tripLit_trips sd c s hs).congr (by rw [sideEvent_own, h]) hdark (by rw [hstep]) hstill hctl hmsg

/-! ### The probe timer and the step window (R101, R107) -/

/-- The record a counted failure leaves: whatever the budget, the failure stands last in the list. -/
theorem Tripped.failed {c : Cause} (h : Tripped sd c s t) (hc : stateOf s sd ≠ .run) :
    (t.side.get sd).failures = (s.side.get sd).failures ++ [s.time.uptime] := by
  by_cases hb : ((s.side.get sd).failures ++ [s.time.uptime]).length < hdrBudget s.tab.tables
  · exact (h.1 (Or.inl hc) hb).2.1
  · exact (h.2.1 (Or.inl hc) (by omega)).2.2.2.1

/-- A restart that has timed out, with what its command hands on. -/
theorem timeout_trips {c : Cause} (h : Trips ch sd c s t) (hs : stateOf s sd ≠ .run) :
    let list := (s.side.get sd).failures ++ [s.time.uptime]
    (list.length < hdrBudget s.tab.tables →
      stateOf t sd = (if s.hold.view = 0 then .dark else .hold) ∧
      (t.side.get sd).reason = (if s.hold.view = 0 then c else .hold) ∧
      (t.side.get sd).retry = (if s.hold.view = 0 then some (restartInterval s) else none) ∧
      (t.side.get sd).lock = (s.side.get sd).lock) ∧
    (hdrBudget s.tab.tables ≤ list.length →
      stateOf t sd = .lockout ∧ (t.side.get sd).reason = .budget ∧ (t.side.get sd).retry = none ∧
      (t.side.get sd).lock =
        { locked := true, reason := .budget, count := (s.side.get sd).lock.count + 1, arming := none }) ∧
    (t.side.get sd).failures = list ∧ (t.side.get sd).probe = none ∧ (t.side.get sd).stepWindow = none ∧
    (t.side.get sd).step = none ∧ (t.side.get sd).ready = false ∧ (t.side.get sd).verified = false ∧
    (t.side.get sd).mismatchRun = 0 ∧
    (∀ n ∈ pumpsUp s.tab sd, driveOf t.pdu n = 0) ∧ t.pdu.stepdown.get sd = none ∧
    TripHandsOn ch [] sd c (stateOf s sd) s t ∧ t.msg.noticeNumber = s.msg.noticeNumber + 1 := by
  obtain ⟨htrip, hhands⟩ := h
  have hfailed := htrip.failed hs
  obtain ⟨hbelow, hspent, -, -, hprobe, hwindow, -, hstep, hready, hver, hrun, -, -, -, -, hdark, hdown⟩ := htrip
  refine ⟨fun hb => ?_, fun hb => ?_, hfailed, hprobe, hwindow, hstep, hready, hver, hrun, hdark, hdown, hhands,
    hhands.noticeNumber⟩
  · obtain ⟨⟨h1, h2, h3⟩, -, h4⟩ := hbelow (Or.inl hs) hb
    exact ⟨h1, h2, h3, h4⟩
  · obtain ⟨h1, h2, h3, -, h4⟩ := hspent (Or.inl hs) hb
    exact ⟨h1, h2, h3, h4⟩

theorem exec_timeout {f : Side → State → State} {cmd : Instr} {c : Cause} {st : SideState} (hp : s.powered = true)
    (hx : exec cmd s = runWith ch (sideEvent f sd) s) (hf : ∀ x v, still (f x v) = still v)
    (ht : f sd (withChoices ch s) = tripLit sd c (withChoices ch s)) (hs : stateOf s sd = st)
    (hst : st ∈ [SideState.probe, .ramp]) : ∃ t, exec cmd s = .next t ∧ Trips ch sd c s t ∧ stateOf s sd ≠ .run ∧
      t.lines = s.lines ∧ t.hold = s.hold ∧ SameOutside s t := by
  refine ⟨_, exec_settles hx hp rfl, ?_⟩
  have hstill : still (sideEvent f sd (withChoices ch s)) = still (withChoices ch s) := sideEvent_still f hf sd _
  have hmem : stateOf (withChoices ch s) sd ∈ [SideState.probe, .ramp, .run] := by
    rw [withChoices_stateOf, hs]; revert hst; cases st <;> decide
  obtain ⟨hlines, hhold⟩ := lines_hold_of_still hstill
  exact ⟨(sideEvent_trips ht hmem).settle, fun hr => by rw [hr] at hs; subst hs; exact absurd hst (by decide), hlines, hhold,
    SameOutside.settle (s := withChoices ch s) (.of_still hstill)⟩

theorem probeExpired_still (sd : Side) (s : State) : still (probeExpired sd s) = still s := by
  unfold probeExpired; split
  · exact tripLit_still _ _ _
  · rfl

theorem stepExpired_still (sd : Side) (s : State) : still (stepExpired sd s) = still s := by
  unfold stepExpired; split
  · exact tripLit_still _ _ _
  · rfl

/-- Settles O44: both timers by the same trip, in the state each of them runs in. -/
theorem restartTimeoutIsCountedFailure : Obligations.RestartTimeoutIsCountedFailure := by
  intro ramp sd ch s hp cmd timer cause list
  cases ramp with
  | false =>
    refine ⟨fun h => ?_, fun h hs => ?_⟩
    · have hidle : probeExpired sd (withChoices ch s) = withChoices ch s := by
        unfold probeExpired; refine if_neg fun hc => ?_
        exact h.elim (Option.isSome_iff_ne_none.mp hc.1) fun hn => hn hc.2
      exact exec_settles (f := sideEvent probeExpired sd) rfl hp (sideEvent_to hidle rfl)
    · obtain ⟨t, hx, htrips, hrun, hout⟩ := exec_timeout (cmd := .probeTimerExpiry sd ch) (f := probeExpired) hp rfl
        probeExpired_still (if_pos ⟨Option.isSome_iff_ne_none.mpr h, hs⟩) hs (by decide)
      obtain ⟨h1, h2, h3, h4, h5, h6, h7, h8, h9, h10, h11, h12, h13⟩ := timeout_trips htrips hrun
      exact ⟨t, hx, h1, h2, h3, h4, h5, h6, h7, h8, h9, h10, h11, h12, h13, hout⟩
  | true =>
    refine ⟨fun h => ?_, fun h hs => ?_⟩
    · have hidle : stepExpired sd (withChoices ch s) = withChoices ch s := by
        unfold stepExpired; refine if_neg fun hc => ?_
        exact h.elim (Option.isSome_iff_ne_none.mp hc.1) fun hn => hn hc.2
      exact exec_settles (f := sideEvent stepExpired sd) rfl hp (sideEvent_to hidle rfl)
    · obtain ⟨t, hx, htrips, hrun, hout⟩ := exec_timeout (cmd := .stepWindowExpiry sd ch) (f := stepExpired) hp rfl
        stepExpired_still (if_pos ⟨Option.isSome_iff_ne_none.mpr h, hs⟩) hs (by decide)
      obtain ⟨h1, h2, h3, h4, h5, h6, h7, h8, h9, h10, h11, h12, h13⟩ := timeout_trips htrips hrun
      exact ⟨t, hx, h1, h2, h3, h4, h5, h6, h7, h8, h9, h10, h11, h12, h13, hout⟩

/-! ### The trip lines (R63) -/

theorem assertTrip_asserted (h : s.lines.trip.get sd = true) : assertTrip sd s = s := if_pos h

theorem assertTrip_rises (h : s.lines.trip.get sd = false) :
    assertTrip sd s = sideEvent (tripEvent .tripLine) sd (setTripLine sd true s) := by
  unfold assertTrip; rw [if_neg (by simp [h])]

theorem releaseTrip_released (h : s.lines.trip.get sd = false) : releaseTrip sd s = s := by
  unfold releaseTrip; rw [if_neg (by simp [h])]

theorem releaseTrip_falls (h : s.lines.trip.get sd = true) :
    releaseTrip sd s = sideEvent judgeDark sd (setTripLine sd false s) := if_pos h

/-- A trip cause that is no notice acts in LISTEN, PROBE, RAMP and RUN alone. -/
theorem tripEvent_idle {c : Cause} (hc : c ≠ .notice) (h : stateOf s sd ∉ [.listen, .probe, .ramp, .run]) :
    tripEvent c sd s = s := by
  unfold tripEvent
  cases hs : stateOf s sd <;> rw [hs] at h
  case listen | probe | ramp | run => exact absurd h (by decide)
  case stepdown => exact if_neg hc

/-- Settles O40: a level that stays, a line that rises and a line that falls. -/
theorem tripLinesMoveTheirSide : Obligations.TripLinesMoveTheirSide := by
  intro sd ch s hp level may
  let fallen := setTripLine sd false (begun s)
  let risen := setTripLine sd true (withChoices ch s)
  have hmay : MayListen sd fallen ↔ may := by
    show _ ∧ _ ∧ _ ∧ _ ∧ _ ∧ _ ∧ _ ∧ fallen.lines.trip.get sd = false ↔ _
    rw [show fallen.lines.trip.get sd = false from Sides.get_set _ _ _]
    exact ⟨fun ⟨h1, h2, h3, h4, h5, h6, h7, _⟩ => ⟨h1, h2, h3, h4, h5, h6, h7⟩,
      fun ⟨h1, h2, h3, h4, h5, h6, h7⟩ => ⟨h1, h2, h3, h4, h5, h6, h7, rfl⟩⟩
  have hfalls (h : s.lines.trip.get sd = true) : releaseTrip sd (begun s) = sideEvent judgeDark sd fallen :=
    releaseTrip_falls (s := begun s) h
  have hrises (h : s.lines.trip.get sd = false) :
      assertTrip sd (withChoices ch s) = sideEvent (tripEvent .tripLine) sd risen :=
    assertTrip_rises (s := withChoices ch s) h
  refine ⟨fun h => ⟨?_, fun hn => ?_, fun hm => ?_⟩, fun h => ⟨?_, fun hs => ?_, fun hs => ?_⟩⟩
  · exact exec_settles (f := assertTrip sd) rfl hp (assertTrip_asserted (s := withChoices ch s) h)
  · have hto := (hfalls h).trans (sideEvent_to (judgeDark_stays fun hm => hn (hmay.1 hm)) rfl)
    exact exec_settles (f := releaseTrip sd) rfl hp hto
  · refine ⟨_, exec_settles (f := releaseTrip sd) rfl hp (hfalls h), ?_⟩
    have hstill : still (sideEvent judgeDark sd fallen) = still fallen := sideEvent_still _ judgeDark_still sd fallen
    have hrec : (settle (sideEvent judgeDark sd fallen)).side.get sd =
        SideRecord.listening (hdrSettle s.tab.tables) (s.side.get sd) := by
      rw [settle_side, sideEvent_own, judgeDark_listens (hmay.2 hm), modSide_side, Sides.get_set]; rfl
    obtain ⟨hlines, hhold⟩ := lines_hold_of_still hstill
    unfold stateOf; rw [hrec]
    refine ⟨rfl, rfl, rfl, hlines, ?_, hhold, SameOutside.settle (s := fallen) (.of_still hstill)⟩
    rw [settle_msg, sideEvent_msg, judgeDark_msg]; rfl
  · exact exec_settles (f := releaseTrip sd) rfl hp (releaseTrip_released (s := begun s) h)
  · have hto := (hrises h).trans (sideEvent_to (tripEvent_idle (s := risen) (by decide) hs) rfl)
    exact exec_settles (f := assertTrip sd) rfl hp hto
  · refine ⟨_, exec_settles (f := assertTrip sd) rfl hp (hrises h), ?_⟩
    have hstill : still (sideEvent (tripEvent .tripLine) sd risen) = still risen :=
      sideEvent_still _ (tripEvent_still .tripLine) sd risen
    obtain ⟨hlines, hhold⟩ := lines_hold_of_still hstill
    have htook : TookTrip ch sd .tripLine s (settle (sideEvent (tripEvent .tripLine) sd risen)) :=
      TookTrip.settle (sideEvent_took sd .tripLine risen)
    refine ⟨htook, hlines, hhold, SameOutside.settle (s := risen) (.of_still hstill), fun hl => ?_, fun hl => ?_⟩
    · obtain ⟨-, -, -, -, -, -, -, hmsg⟩ := htook.1 hl
      exact hmsg
    · exact (htook.2 hl).2.noticeNumber

end

end Sys2Proof.Machine
end

section
/-! The Notice Filter (R147 to R150), the slot of an arrival and the request it carries (R153, R161, R163), and the
immediate cut of a side (R69, R114, R115, R127). -/

namespace Sys2Proof.Machine

section
variable {s t u : State} {sd : Side} {ch : Choices}

/-! ### The Notice Filter -/

theorem filterNotice_trip {m : Message} (h : noticeAction s m = .trip) : filterNotice m s =
    deliverCopy m (sideEvent (tripEvent .notice) .east (sideEvent (tripEvent .notice) .west s)) := by
  unfold filterNotice; rw [h]

theorem filterNotice_defer {m : Message} (h : noticeAction s m = .defer) :
    filterNotice m s = deliverCopy m (bothSides (sideEvent deferEvent) s) := by
  unfold filterNotice; rw [h]

theorem filterNotice_deliver {m : Message} (h : noticeAction s m = .deliver) : filterNotice m s = deliverCopy m s := by
  unfold filterNotice; rw [h]

theorem filterNotice_discard {m : Message} (h : noticeAction s m = .discard) : filterNotice m s = s := by
  unfold filterNotice; rw [h]

theorem noticeAction_none {m : Message} (h : ∀ e ∈ acceptsInForce s, e.accepts m.source m.kind = false) :
    noticeAction s m = .deliver := by
  unfold noticeAction
  rw [List.find?_eq_none.mpr fun e he => by simp [h e he]]

theorem noticeAction_some {m : Message} {e : AcceptEntry}
    (h : (acceptsInForce s).find? (fun e => e.accepts m.source m.kind) = some e) : noticeAction s m = e.action := by
  unfold noticeAction; rw [h]

/-- Settles O14: the copy by the action of its first matching entry, and what each action does to the sides. -/
theorem noticeFilterActs : Obligations.NoticeFilterActs := by
  intro m s
  refine ⟨fun hv => ?_, fun hn => filterNotice_deliver (noticeAction_none hn), fun e he => ?_⟩
  · refine filterNotice_deliver (noticeAction_none fun e he => ?_)
    unfold acceptsInForce at he; rw [if_neg (by simp [hv])] at he
    exact absurd he List.not_mem_nil
  · have hact {a : Action} (ha : e.action = a) : noticeAction s m = a := (noticeAction_some he).trans ha
    refine ⟨fun ha => filterNotice_trip (hact ha), fun ha => ?_, fun ha => filterNotice_defer (hact ha), fun ha => ?_,
      fun ha => filterNotice_deliver (hact ha), fun ha => filterNotice_discard (hact ha)⟩
    · refine ⟨tripEvent .notice .west s, sideEvent (tripEvent .notice) .west s, _, tripEvent_noticed .west s,
        sideEvent_judged _ s, ?_, filterNotice_trip (hact ha)⟩
      rw [sideEvent_east]; exact tripEvent_noticed .east _
    · exact ⟨_, bothSides_inTurn deferEvent s deferEvent_still fun sd t _ => deferEvent_deferred sd t,
        filterNotice_defer (hact ha)⟩

/-! ### The slot of an arrival -/

theorem isNoticeKind_iff (k : Octet) : isNoticeKind k = true ↔ 112 ≤ k.toNat ∧ k.toNat ≤ 115 := by
  simp [isNoticeKind]

theorem broadcast_foreign (s : State) : (255 : Octet).toNat ≠ pos s := by
  have := pos_lt s
  rw [show (255 : Octet).toNat = 255 from rfl]; omega

section
variable {m : Message}

theorem judgeSlot_empty (h : m.kind = 0) : judgeSlot m s = s ∧ slotAfter (pos s) m = emptySlot := ⟨if_pos h, if_pos h⟩

theorem judgeSlot_own (h : m.kind ≠ 0) (hd : m.dest.toNat = pos s) : slotAfter (pos s) m = emptySlot ∧
    judgeSlot m s = if isRequestKind m.kind then
      handleRequest m.kind { via := .line, source := m.source, tag := m.tag, len := m.len, body := m.body } s
    else onMsg (deliver { msg := m, resetDone := false }) s :=
  ⟨(if_neg h).trans (if_pos hd), (if_neg h).trans (if_pos hd)⟩

theorem judgeSlot_notice (hd : m.dest = 255) (hk : isNoticeKind m.kind = true) : slotAfter (pos s) m = m ∧
    judgeSlot m s = if m.source = posOctet s then s else filterNotice m s := by
  have h : m.kind ≠ 0 := fun h => by rw [h] at hk; exact absurd hk (by decide)
  have ho : m.dest.toNat ≠ pos s := by rw [hd]; exact broadcast_foreign s
  unfold slotAfter judgeSlot
  rw [if_neg h, if_neg ho, if_neg (by rw [hk]; simp), if_neg h, if_neg ho, if_pos ⟨hd, hk⟩]
  exact ⟨rfl, rfl⟩

theorem judgeSlot_broadcast (h : m.kind ≠ 0) (hd : m.dest = 255) (hk : isNoticeKind m.kind = false) :
    slotAfter (pos s) m = emptySlot ∧ judgeSlot m s = s := by
  have ho : m.dest.toNat ≠ pos s := by rw [hd]; exact broadcast_foreign s
  unfold slotAfter judgeSlot
  rw [if_neg h, if_neg ho, if_pos ⟨hd, hk⟩, if_neg h, if_neg ho, if_neg (by rw [hk]; simp)]
  exact ⟨rfl, rfl⟩

theorem judgeSlot_transit (h : m.kind ≠ 0) (ho : m.dest.toNat ≠ pos s) (hd : m.dest ≠ 255) :
    slotAfter (pos s) m = m ∧ judgeSlot m s = s := by
  unfold slotAfter judgeSlot
  rw [if_neg h, if_neg ho, if_neg fun hc => hd hc.1, if_neg h, if_neg ho, if_neg fun hc => hd hc.1]
  exact ⟨rfl, rfl⟩

end

/-- Settles O13: the request rows and the slot by its kind and destination. -/
theorem slotJudgedByKindAndDestination : Obligations.SlotJudgedByKindAndDestination := by
  refine ⟨fun c kind req s hp h => ?_, fun kind req ch s h => handleRequest_free kind req h ch s,
    fun req s => ⟨fun h => ?_, fun h => ?_⟩, fun m s => ⟨judgeSlot_empty, judgeSlot_own, fun hd h1 h2 => ?_,
      fun h hd hk => ?_, judgeSlot_transit⟩⟩
  · obtain h | h | ⟨rfl, hk⟩ := h
    · exact exec_handles hp (Or.inl h)
    · exact exec_handles hp (Or.inr h)
    · exact exec_unknown hp hk
  · unfold taken; rw [h]
  · unfold taken; rw [h]
  · exact judgeSlot_notice hd ((isNoticeKind_iff _).2 ⟨h1, h2⟩)
  · refine judgeSlot_broadcast h hd ?_
    rw [← Bool.not_eq_true, isNoticeKind_iff]; omega

/-! ### The immediate cut -/

/-- R127: while the checks can be started, a channel that stands at zero has the given check. -/
structure CheckedWhenDark (n : Nat) (c : Check) (u : PumpUnit) : Prop where
  unlatched : u.latch = false
  length : u.checks.length = 8
  checked : driveOf u n = 0 → checkOf u n = some c

section
variable {tab : TableMem} {n : Nat} {c : Check} {u : PumpUnit}

theorem startCheck_some (h : u.latch = false) {k : Nat} {d : Check} (hd : newCheck tab k = some d) :
    startCheck tab k u = { u with checks := u.checks.set k (some d) } := by
  unfold startCheck; rw [if_neg (by simp [h]), hd]

theorem startCheck_none {k : Nat} (hd : newCheck tab k = none) : startCheck tab k u = u := by
  unfold startCheck; split
  · rfl
  · rw [hd]

theorem startCheck_kept (h : u.latch = false) (k : Nat) :
    (startCheck tab k u).latch = false ∧ (startCheck tab k u).checks.length = u.checks.length := by
  cases hd : newCheck tab k with
  | none => rw [startCheck_none hd]; exact ⟨h, rfl⟩
  | some d => rw [startCheck_some h hd]; exact ⟨h, List.length_set ..⟩

theorem startCheck_starts (h : u.latch = false) (hn : n < u.checks.length) (hc : newCheck tab n = some c) :
    checkOf (startCheck tab n u) n = some c := by
  rw [startCheck_some h hc]
  simp [checkOf, List.getD, hn]

theorem CheckedWhenDark.zeroOne (h : CheckedWhenDark n c u) (hn : n < 8) (hc : newCheck tab n = some c) (k : Nat) :
    CheckedWhenDark n c (zeroOne tab k u) := by
  obtain ⟨hl, h8, hd⟩ := h
  by_cases hk : driveOf u k = 0
  · rw [Machine.zeroOne, if_pos hk]; exact ⟨hl, h8, hd⟩
  · rw [Machine.zeroOne, if_neg hk]
    have hs := startCheck_kept (tab := tab) (u := { u with drive := u.drive.set k 0 }) hl k
    refine ⟨hs.1, hs.2.trans h8, fun h0 => ?_⟩
    by_cases hkn : k = n
    · subst hkn; exact startCheck_starts hl (by rw [h8]; exact hn) hc
    · have hat := startCheck_at tab { u with drive := u.drive.set k 0 } (Ne.symm hkn)
      rw [hat.2]
      refine hd (Eq.trans ?_ (hat.1.symm.trans h0))
      exact (getD_set_ne u.drive 0 (Ne.symm hkn)).symm

theorem CheckedWhenDark.foldl {α : Type} (f : PumpUnit → α → PumpUnit)
    (hf : ∀ v a, CheckedWhenDark n c v → CheckedWhenDark n c (f v a)) (l : List α) (h : CheckedWhenDark n c u) :
    CheckedWhenDark n c (l.foldl f u) := by
  induction l generalizing u with
  | nil => exact h
  | cons a l ih => exact ih (hf u a h)

theorem CheckedWhenDark.zeroChain (h : CheckedWhenDark n c u) (hn : n < 8) (hc : newCheck tab n = some c) (d k : Nat) :
    CheckedWhenDark n c (zeroChain tab d k u) := by
  induction d generalizing k u with
  | zero => exact h.zeroOne hn hc k
  | succ d ih => exact (CheckedWhenDark.foldl _ (fun _ m hv => ih hv m) _ h).zeroOne hn hc k

theorem CheckedWhenDark.zeroPumps (h : CheckedWhenDark n c u) (hn : n < 8) (hc : newCheck tab n = some c)
    (l : List Nat) : CheckedWhenDark n c (zeroPumps tab l u) :=
  CheckedWhenDark.foldl _ (fun _ m hv => hv.zeroChain hn hc 8 m) l h

end

theorem newCheck_of_monitor {tab : TableMem} {n m : Nat} (ha : assigned tab n = true)
    (hm : (planOf tab n).monitor = some m) : newCheck tab n = some
      { monitor := m, offset := offsetOf tab m, level := (planOf tab n).extinct, limit := (planOf tab n).limit
        last := none } := by
  unfold newCheck; rw [if_pos ha, hm]; rfl

/-- Settles O47: what the immediate cut writes, over the pumps it commands to zero in descending order. -/
theorem immediateCutDarkensSide : Obligations.ImmediateCutDarkensSide := by
  intro sd s
  have hstill := immediateCut_still sd s
  refine ⟨rfl, fun n hn => immediateCut_dark sd s hn, immediateCut_darker sd s, immediateCut_stepdown sd s,
    congrArg Still.latch hstill, congrArg Still.startCut hstill, fun n m hn h0 hl h8 hm => ?_⟩
  have hc := newCheck_of_monitor (mem_ascending hn).1 hm
  have hq : CheckedWhenDark n
      { monitor := m, offset := offsetOf s.tab m, level := (planOf s.tab n).extinct, limit := (planOf s.tab n).limit
        last := none } s.pdu := ⟨hl, h8, fun h => absurd h h0⟩
  exact (hq.zeroPumps (mem_pumpsUp_lt hn) hc (pumpsDown s.tab sd)).checked (immediateCut_dark sd s hn)

end

end Sys2Proof.Machine
end

section
/-! The steps of a stepdown and the entries to LOCKOUT (R117 to R120, R171), and the side requests (R173 to R179). -/

namespace Sys2Proof.Machine

section
variable {s t u : State} {sd : Side} {n : Nat} {ch : Choices} {req : Request}

/-! ### Stepdown steps -/

theorem setStepdown_waits (sd : Side) (d : Option Stepdown) (s : State) :
    (setStepdown sd d s).pdu.stepdown.get sd = d := Sides.get_set _ _ _

theorem beginStepdown_timed (h : (planOf s.tab n).monitor = none) : beginStepdown sd n s =
    setStepdown sd (some ⟨n, .timer (planOf s.tab n).window⟩) (onPdu (zeroPump s.tab n)
      (modSide sd (fun r => { r with step := some (planOf s.tab n).order }) s)) := by
  unfold beginStepdown; dsimp only; rw [h]

theorem beginStepdown_checked {m : Nat} (h : (planOf s.tab n).monitor = some m) : beginStepdown sd n s =
    setStepdown sd (some ⟨n, .checks (n :: sharedPumps s.tab sd n m s.pdu)⟩)
      (onPdu (stepZero s.tab n (sharedPumps s.tab sd n m s.pdu))
        (modSide sd (fun r => { r with step := some (planOf s.tab n).order }) s)) := by
  unfold beginStepdown; dsimp only; rw [h]

/-- What the step of a pump writes outside the Pump Drive Unit: the step octet of its side. -/
theorem beginStepdown_elsewhere (sd : Side) (n : Nat) (s : State) :
    (beginStepdown sd n s).side = s.side.set sd { s.side.get sd with step := some (planOf s.tab n).order } ∧
    (beginStepdown sd n s).msg = s.msg ∧ (beginStepdown sd n s).ctl = s.ctl := by
  cases h : (planOf s.tab n).monitor with
  | none => rw [beginStepdown_timed h]; exact ⟨rfl, rfl, rfl⟩
  | some m => rw [beginStepdown_checked h]; exact ⟨rfl, rfl, rfl⟩

theorem beginStepdown_dark (sd : Side) (n : Nat) (s : State) : driveOf (beginStepdown sd n s).pdu n = 0 := by
  cases h : (planOf s.tab n).monitor with
  | none => rw [beginStepdown_timed h]; exact zeroPump_dark _ _ _
  | some m => rw [beginStepdown_checked h]; exact stepZero_dark _ _ _ _

theorem beginStepdown_waits (sd : Side) (n : Nat) (s : State) :
    ((planOf s.tab n).monitor = none →
      (beginStepdown sd n s).pdu.stepdown.get sd = some ⟨n, .timer (planOf s.tab n).window⟩) ∧
    ((planOf s.tab n).monitor ≠ none → ∃ l, (beginStepdown sd n s).pdu.stepdown.get sd = some ⟨n, .checks (n :: l)⟩) := by
  refine ⟨fun h => ?_, fun h => ?_⟩
  · rw [beginStepdown_timed h]; exact setStepdown_waits _ _ _
  · obtain ⟨m, hm⟩ := Option.ne_none_iff_exists'.1 h
    rw [beginStepdown_checked hm]; exact ⟨_, setStepdown_waits _ _ _⟩

theorem beginStepdown_waiting (sd : Side) (n : Nat) (s : State) :
    ∃ w, (beginStepdown sd n s).pdu.stepdown.get sd = some ⟨n, w⟩ := by
  obtain ⟨htimed, hchecked⟩ := beginStepdown_waits sd n s
  by_cases h : (planOf s.tab n).monitor = none
  · exact ⟨_, htimed h⟩
  · obtain ⟨l, hl⟩ := hchecked h
    exact ⟨_, hl⟩

/-! ### A side locked out by its own event -/

/-- A side in the state `left` has entered LOCKOUT (R171): its record, what the entry hands on, and the rest. -/
structure LockedBy (ch : Choices) (sd : Side) (c : Cause) (left : SideState) (s u : State) : Prop where
  record : u.side.get sd = (s.side.get sd).lockedOut c
  hands : LockoutHandsOn ch [] sd c c left s u
  outside : still u = still s
  west : sd = .east → u.side.west = s.side.west

/-- An event that changes its side's record alone, and then locks the side out. -/
theorem sideEvent_locks_changed {f : Side → State → State} {c : Cause} {r : SideRecord} {v : State}
    (h : f sd s = enterLockout sd c c v) (hv : still v = still s) (hside : v.side = s.side.set sd r)
    (hctl : v.ctl = s.ctl) (hmsg : v.msg = s.msg) (hch : v.choices = s.choices)
    (hr : r.lockedOut c = (s.side.get sd).lockedOut c) (hl : r.lock = (s.side.get sd).lock)
    (ha : stateOf s sd ≠ .absent) (hra : r.state ≠ .absent) :
    LockedBy s.choices sd c r.state s (sideEvent f sd s) := by
  have hrec : v.side.get sd = r := by rw [hside, Sides.get_set]
  have hother : v.side.get sd.other = s.side.get sd.other := by rw [hside, Sides.get_set_other]
  have hstate : stateOf v sd = r.state := congrArg SideRecord.state hrec
  obtain ⟨hstill, hctl', hmsg'⟩ := sideEvent_hands f sd s
  rw [h] at hstill hctl' hmsg'
  refine ⟨by rw [sideEvent_own, h, enterLockout_own, hrec, hr], ?_, (hstill.trans (enterLockout_still sd c c v)).trans hv, ?_⟩
  · have hhands := enterLockout_handsOn (before := []) (s := s) c c (congrArg Still.time hv) (congrArg Still.tab hv)
      (congrArg Still.position hv) hctl hch (isAbsent_of hother ha (by rwa [hstate])) (by rw [hrec, hl]) (.none hmsg)
      (by rwa [hstate])
    rw [hstate] at hhands
    exact hhands.to hstill hctl' hmsg'
  · rintro rfl
    rw [sideEvent_east, h]; exact (enterLockout_other .east c c v).trans hother

theorem sideEvent_locks {f : Side → State → State} {c : Cause} (h : f sd s = enterLockout sd c c s)
    (ha : stateOf s sd ≠ .absent) : LockedBy s.choices sd c (stateOf s sd) s (sideEvent f sd s) :=
  sideEvent_locks_changed h rfl (Sides.set_get _ _).symm rfl rfl rfl rfl rfl ha ha

section
variable {c : Cause} {left : SideState}

theorem LockedBy.stateOf_eq (h : LockedBy ch sd c left s u) : stateOf u sd = .lockout :=
  congrArg SideRecord.state h.record

theorem LockedBy.cleared (h : LockedBy ch sd c left s u) : Cleared sd s u := by
  unfold Cleared; rw [h.record]; exact ⟨rfl, rfl, rfl, rfl, rfl, rfl, rfl⟩

theorem LockedBy.lock (h : LockedBy ch sd c left s u) : (u.side.get sd).reason = c ∧ (u.side.get sd).lock =
    { locked := true, reason := c, count := (s.side.get sd).lock.count + 1, arming := none } := by
  rw [h.record]; exact ⟨rfl, rfl⟩

/-- The octets of its DONE. -/
theorem LockedBy.done (h : LockedBy ch sd c left s u) :
    sideDone u sd = [0, sideOctet sd, 3] ++ octets16 ((s.side.get sd).lock.count + 1) := by
  rw [sideDone, h.stateOf_eq, h.lock.2]; rfl

end

/-- The lines, the Hold Unit and the rest after what keeps everything that no side event changes. -/
theorem outside_of_still (h : still t = still s) : SameOutside s t ∧ t.lines = s.lines ∧ t.hold = s.hold :=
  ⟨.of_still h, congrArg Still.lines h, congrArg Still.hold h⟩

/-! ### The side requests -/

/-- A modifying request about a side runs the judgments of R173 before its rule. -/
theorem exec_sideRequest {c : Instr} {kind len : Octet} {rule : Request → Side → State → State} (hp : s.powered = true)
    (hc : modifyingKind c = some (kind, req)) (hch : choicesOf c = ch)
    (hrule : handleRequest kind = fun r => sideRequest kind len r (rule r)) :
    exec c s = .next (settle (sideRequest kind len (taken s req) (rule (taken s req)) (withChoices ch s))) := by
  rw [exec_handles hp (Or.inl hc), hrule, hch]

/-- The answer of a rule that keeps everything that no side event changes. -/
theorem answers_of_still {kind : Octet} {body body' : List Octet} (h : still t = still s) (hb : body = body') :
    (Host.Outcome.next (settle (reply kind (taken s req) body t)) : Host.Outcome State Fault Refusal) =
      .next (settle (answer kind req body' t)) := by
  rw [hb, reply_taken kind req body' s t (congrArg Still.position h)]

/-- SIDE-LOCK at a side that exists (R174). -/
def lockRule (r : Request) (sd : Side) (s : State) : State :=
  reply 10 r (sideDone (sideEvent lockSide sd s) sd) (sideEvent lockSide sd s)

theorem lockSide_locked (h : stateOf s sd = .lockout) : lockSide sd s = s := by unfold lockSide; rw [h]

theorem lockSide_locks (h : stateOf s sd ≠ .lockout) (ha : stateOf s sd ≠ .absent) :
    lockSide sd s = enterLockout sd .manual .manual s := by
  unfold lockSide; split <;> simp_all

theorem present_of {s : State} (h : isAbsent s sd = false) : stateOf s sd ≠ .absent := fun ha => by
  rw [(isAbsent_eq_true_iff s sd).2 ha] at h; exact Bool.noConfusion h

/-- Settles O33: the side already locked keeps everything, every other enters LOCKOUT. -/
theorem sideLockLocksOut : Obligations.SideLockLocksOut := by
  intro sd req ch s hacc
  have hexec := exec_sideRequest (c := .sideLock req ch) (ch := ch) (rule := lockRule) hacc.1 rfl rfl rfl
  refine ⟨sideRefusals_of_sideRequest hacc hexec, fun hlen hoctet hpresent => ?_⟩
  rw [hexec, sideRequest_accepted hacc hlen hoctet hpresent, lockRule]
  refine ⟨fun h => ?_, fun h => ?_⟩
  · have hdone : sideDone (withChoices ch s) sd = [0, sideOctet sd, 3] ++ octets16 (s.side.get sd).lock.count := by
      rw [sideDone, withChoices_stateOf, h]; rfl
    rw [sideEvent_to (lockSide_locked (s := withChoices ch s) h) rfl]
    exact answers_of_still (s := withChoices ch s) rfl hdone
  · have hlocks := sideEvent_locks (lockSide_locks (s := withChoices ch s) h (present_of hpresent)) (present_of hpresent)
    obtain ⟨hout, hlines, hhold⟩ := outside_of_still hlocks.outside
    obtain ⟨hreason, hlock⟩ := hlocks.lock
    have hrec := hlocks.record
    exact ⟨sideEvent lockSide sd (withChoices ch s), answers_of_still (s := withChoices ch s) hlocks.outside hlocks.done,
      hlocks.stateOf_eq, hreason, hlock, by rw [hrec]; rfl, by rw [hrec]; rfl, hlocks.hands, by rw [hrec]; rfl,
      by rw [hrec]; rfl, by rw [hrec]; rfl, hlocks.west, hout, hlines, hhold⟩

/-! ### SIDE-SHUT -/

/-- SIDE-SHUT at a side that exists (R175). -/
def shutRule (r : Request) (sd : Side) (s : State) : State :=
  reply 9 r (shutDone s (sideEvent shutSide sd s) sd) (sideEvent shutSide sd s)

theorem shutSide_down (h : stateOf s sd = .lockout ∨ stateOf s sd = .stepdown) : shutSide sd s = s := by
  rcases h with h | h <;> (unfold shutSide; rw [h])

theorem shutSide_locks (h : stateOf s sd ≠ .lockout) (hd : stateOf s sd ≠ .stepdown) (hr : stateOf s sd ≠ .run)
    (ha : stateOf s sd ≠ .absent) : shutSide sd s = enterLockout sd .ordered .ordered s := by
  unfold shutSide; split <;> simp_all

theorem shutSide_run (h : stateOf s sd = .run) : shutSide sd s = enterStepdown sd s := by
  unfold shutSide; rw [h]

/-- The record of a side that has entered STEPDOWN (R176). -/
def SideRecord.shut (r : SideRecord) : SideRecord := { r.cleared with state := .stepdown }

theorem enterStepdown_steps {l : List Nat} (h : pumpsDown s.tab sd = n :: l) :
    enterStepdown sd s = beginStepdown sd n (modSide sd SideRecord.shut s) := by
  have hs : stateOf (modSide sd SideRecord.shut s) sd = .stepdown := by
    unfold stateOf; rw [modSide_side, Sides.get_set]; rfl
  have hp : pumpsDown (modSide sd SideRecord.shut s).tab sd = n :: l := h
  show startStepdown sd (modSide sd SideRecord.shut s) = _
  unfold startStepdown; rw [if_pos hs, hp]

theorem completeStepdown_locks (h : stateOf s sd = .stepdown) :
    completeStepdown sd s = enterLockout sd .ordered .ordered (setStepdown sd none s) := if_pos h

theorem enterStepdown_completes (h : pumpsDown s.tab sd = []) : enterStepdown sd s =
    enterLockout sd .ordered .ordered (setStepdown sd none (modSide sd SideRecord.shut s)) := by
  have hs : stateOf (modSide sd SideRecord.shut s) sd = .stepdown := by
    unfold stateOf; rw [modSide_side, Sides.get_set]; rfl
  have hp : pumpsDown (modSide sd SideRecord.shut s).tab sd = [] := h
  show startStepdown sd (modSide sd SideRecord.shut s) = _
  unfold startStepdown; rw [if_pos hs, hp]
  exact completeStepdown_locks hs

theorem shutDone_run (h : stateOf s sd = .run) :
    shutDone s t sd = [0, sideOctet sd, 10] ++ octets16 (s.side.get sd).lock.count := if_pos h

theorem shutDone_other (h : stateOf s sd ≠ .run) : shutDone s t sd = sideDone t sd := if_neg h

/-- A shut from RUN begins the first stepdown step. -/
theorem shut_steps {l : List Nat} (h : stateOf s sd = .run) (hl : pumpsDown s.tab sd = n :: l) :
    let u := sideEvent shutSide sd s
    stateOf u sd = .stepdown ∧ (u.side.get sd).reason = (s.side.get sd).reason ∧
      (u.side.get sd).step = some (planOf s.tab n).order ∧ Cleared sd s u ∧
      (u.side.get sd).lock = (s.side.get sd).lock ∧ driveOf u.pdu n = 0 ∧
      (∃ w, u.pdu.stepdown.get sd = some ⟨n, w⟩) ∧ u.msg = s.msg ∧ u.ctl = s.ctl ∧ still u = still s := by
  intro u
  have hshut := (shutSide_run h).trans (enterStepdown_steps hl)
  have hstill : still (shutSide sd s) = still s := by rw [hshut, beginStepdown_still]; rfl
  obtain ⟨hside, hmsg, hctl⟩ := beginStepdown_elsewhere sd n (modSide sd SideRecord.shut s)
  obtain ⟨hstill', hctl', hmsg'⟩ := sideEvent_hands shutSide sd s
  obtain ⟨hdark, hwait⟩ := sideEvent_pumps shutSide sd s (congrArg Still.tab hstill)
  have hrec : u.side.get sd = { (s.side.get sd).shut with step := some (planOf s.tab n).order } := by
    rw [sideEvent_own, hshut, hside, Sides.get_set, modSide_side, Sides.get_set]; rfl
  have hn : n ∈ pumpsUp s.tab sd := List.mem_reverse.1 ((show n ∈ pumpsDown s.tab sd by rw [hl]; exact List.mem_cons_self))
  refine ⟨by unfold stateOf; rw [hrec]; rfl, by rw [hrec]; rfl, by rw [hrec],
    by unfold Cleared; rw [hrec]; exact ⟨rfl, rfl, rfl, rfl, rfl, rfl, rfl⟩, by rw [hrec]; rfl,
    hdark n hn (by rw [hshut]; exact beginStepdown_dark _ _ _), ?_, ?_, ?_, hstill'.trans hstill⟩
  · obtain ⟨w, hw⟩ := beginStepdown_waiting sd n (modSide sd SideRecord.shut s)
    exact ⟨w, by rw [hwait, hshut, hw]⟩
  · rw [hmsg', hshut, hmsg]; rfl
  · rw [hctl', hshut, hctl]; rfl

/-- A shut from RUN of a side without pumps completes at once. -/
theorem shut_completes (h : stateOf s sd = .run) (hl : pumpsDown s.tab sd = []) (ha : stateOf s sd ≠ .absent) :
    LockedBy s.choices sd .ordered .stepdown s (sideEvent shutSide sd s) :=
  sideEvent_locks_changed (v := setStepdown sd none (modSide sd SideRecord.shut s)) (r := (s.side.get sd).shut)
    ((shutSide_run h).trans (enterStepdown_completes hl)) rfl rfl rfl rfl rfl rfl rfl ha
    (show SideState.stepdown ≠ .absent by decide)

/-- Settles O34: the side already down, the shut from RUN with and without pumps, and the shut from the other states. -/
theorem sideShutStepsDownOrLocksOut : Obligations.SideShutStepsDownOrLocksOut := by
  intro sd req ch s hacc
  have hexec := exec_sideRequest (c := .sideShut req ch) (ch := ch) (rule := shutRule) hacc.1 rfl rfl rfl
  refine ⟨sideRefusals_of_sideRequest hacc hexec, fun hlen hoctet hpresent => ?_⟩
  rw [hexec, sideRequest_accepted hacc hlen hoctet hpresent, shutRule]
  have hstays : stateOf (withChoices ch s) sd ≠ .absent := present_of hpresent
  refine ⟨fun h => ?_, fun n l h hl => ?_, fun h hl => ?_, fun h hd hr => ?_⟩
  · have hrun : stateOf (withChoices ch s) sd ≠ .run := by
      rw [withChoices_stateOf]; rcases h with h | h <;> rw [h] <;> decide
    rw [sideEvent_to (shutSide_down (s := withChoices ch s) h) rfl]
    exact answers_of_still (s := withChoices ch s) rfl (shutDone_other hrun)
  · obtain ⟨hs, hreason, hstep, hcleared, hlock, hdark, hwait, hmsg, hctl, hstill⟩ :=
      shut_steps (s := withChoices ch s) h hl
    obtain ⟨hout, hlines, hhold⟩ := outside_of_still hstill
    exact ⟨sideEvent shutSide sd (withChoices ch s), answers_of_still (s := withChoices ch s) hstill (shutDone_run h), hs,
      hreason, hstep, hcleared, hlock, hdark, hwait, hmsg, hctl, hout, hlines, hhold⟩
  · have hlocks := shut_completes (s := withChoices ch s) h hl hstays
    obtain ⟨hout, hlines, hhold⟩ := outside_of_still hlocks.outside
    obtain ⟨hreason, hlock⟩ := hlocks.lock
    exact ⟨sideEvent shutSide sd (withChoices ch s),
      answers_of_still (s := withChoices ch s) hlocks.outside (shutDone_run h), hlocks.hands, hlocks.stateOf_eq, hreason,
      hlock, hlocks.cleared, hout, hlines, hhold⟩
  · have hlocks := sideEvent_locks (shutSide_locks (s := withChoices ch s) h hd hr hstays) hstays
    obtain ⟨hout, hlines, hhold⟩ := outside_of_still hlocks.outside
    obtain ⟨hreason, hlock⟩ := hlocks.lock
    exact ⟨sideEvent shutSide sd (withChoices ch s), answers_of_still (s := withChoices ch s) hlocks.outside
        ((shutDone_other (s := withChoices ch s) hr).trans hlocks.done),
      hlocks.hands, hlocks.stateOf_eq, hreason, hlock, hlocks.cleared, hout, hlines, hhold⟩

/-! ### UNLOCK-CONFIRM -/

/-- UNLOCK-CONFIRM at a side that exists (R179). -/
def confirmRule (r : Request) (sd : Side) (s : State) : State :=
  if s.pdu.latch then reply 12 r (sideRefusal r .cutLatched (stateOf s sd).code) s
  else if stateOf s sd ≠ .lockout ∨ confirmMatches r (s.side.get sd).lock.arming = false then
    reply 12 r (sideRefusal r .notArmed (stateOf s sd).code) s
  else reply 12 r (sideDone (sideEvent releaseSide sd s) sd) (sideEvent releaseSide sd s)

section
variable {r : Request}

theorem confirmRule_latched (h : s.pdu.latch = true) :
    confirmRule r sd s = reply 12 r (sideRefusal r .cutLatched (stateOf s sd).code) s := if_pos h

theorem confirmRule_refused (h : s.pdu.latch = false)
    (hr : stateOf s sd ≠ .lockout ∨ confirmMatches r (s.side.get sd).lock.arming = false) :
    confirmRule r sd s = reply 12 r (sideRefusal r .notArmed (stateOf s sd).code) s :=
  (if_neg (Bool.eq_false_iff.1 h)).trans (if_pos hr)

theorem confirmRule_releases (h : s.pdu.latch = false) (hs : stateOf s sd = .lockout)
    (hm : confirmMatches r (s.side.get sd).lock.arming = true) :
    confirmRule r sd s = reply 12 r (sideDone (sideEvent releaseSide sd s) sd) (sideEvent releaseSide sd s) :=
  (if_neg (Bool.eq_false_iff.1 h)).trans (if_neg fun hc => hc.elim (fun hn => hn hs) (Bool.eq_false_iff.1 · hm))

end

theorem confirmMatches_some (r : Request) (a : Arming) :
    confirmMatches r (some a) = true ↔ r.source = a.source ∧ word16At r.body 1 = a.number := by
  simp [confirmMatches]

/-- The refusal condition of R179 step 3. -/
theorem confirmMatches_false {r : Request} {o : Option Arming}
    (h : o = none ∨ ∃ a, o = some a ∧ (r.source ≠ a.source ∨ word16At r.body 1 ≠ a.number)) :
    confirmMatches r o = false := by
  rcases h with rfl | ⟨a, rfl, h⟩
  · rfl
  · rw [← Bool.not_eq_true, confirmMatches_some]; tauto

/-- The release but for its record: what UNLOCK-CONFIRM makes of the side. -/
def releasedDark (sd : Side) (s : State) : State := enterDark sd (tripRest s) (modSide sd SideRecord.released s)

theorem releaseSide_eq (sd : Side) (s : State) :
    releaseSide sd s = queueRecord (lockRecordOf sd (releasedDark sd s)) (releasedDark sd s) := rfl

theorem enterDark_own (sd : Side) (k : Nat) (s : State) : (enterDark sd k s).side.get sd =
    if s.hold.view = 0 then (s.side.get sd).darkened (s.side.get sd).reason k
    else ((s.side.get sd).darkened (s.side.get sd).reason k).held := by
  unfold enterDark
  have hdark : stateOf (modSide sd (fun r => r.darkened r.reason k) s) sd = .dark := by
    unfold stateOf; rw [modSide_side, Sides.get_set]; rfl
  rw [onToHold_own, hdark, modSide_side, Sides.get_set]
  by_cases h : s.hold.view = 0
  · rw [if_pos h, if_neg fun hc => hc.2 h]
  · rw [if_neg h, if_pos ⟨rfl, h⟩]

theorem enterDark_elsewhere (sd : Side) (k : Nat) (s : State) : (enterDark sd k s).msg = s.msg ∧
    (enterDark sd k s).ctl = s.ctl ∧ (enterDark sd k s).choices = s.choices ∧ (enterDark sd k s).pdu = s.pdu := by
  unfold enterDark onToHold; split <;> exact ⟨rfl, rfl, rfl, rfl⟩

theorem releasedDark_still (sd : Side) (s : State) : still (releasedDark sd s) = still s := by
  unfold releasedDark; rw [enterDark_still, modSide_still]

theorem releasedDark_own (sd : Side) (s : State) : (releasedDark sd s).side.get sd =
    if s.hold.view = 0 then (s.side.get sd).released.darkened (s.side.get sd).reason (tripRest s)
    else ((s.side.get sd).released.darkened (s.side.get sd).reason (tripRest s)).held := by
  unfold releasedDark; rw [enterDark_own, modSide_side, Sides.get_set]; rfl

theorem releasedDark_lock (sd : Side) (s : State) : ((releasedDark sd s).side.get sd).lock =
    { (s.side.get sd).lock with locked := false, arming := none } := by
  rw [releasedDark_own]; split <;> rfl

/-- What a release makes of the side and hands on. -/
theorem release_releases (sd : Side) (s : State) :
    let u := sideEvent releaseSide sd s
    u.side.get sd = (releasedDark sd s).side.get sd ∧
      RecordsHanded s.choices [.lock sd false (s.side.get sd).lock.reason (s.side.get sd).lock.count] s u ∧
      u.msg = s.msg ∧ (sd = .east → u.pdu = s.pdu) ∧ still u = still s := by
  intro u
  obtain ⟨hmsg, hctl, hch, hpdu⟩ := enterDark_elsewhere sd (tripRest s) (modSide sd SideRecord.released s)
  obtain ⟨hstill', hctl', hmsg'⟩ := sideEvent_hands releaseSide sd s
  have hdark := releasedDark_still sd s
  have hrecord : lockRecordOf sd (releasedDark sd s) =
      .lock sd false (s.side.get sd).lock.reason (s.side.get sd).lock.count := by
    unfold lockRecordOf; rw [releasedDark_lock]
  have hhanded := RecordsHanded.first (s := s) (u := releasedDark sd s) (lockRecordOf sd (releasedDark sd s)) hctl hch
    (congrArg Still.time hdark) (congrArg Still.position hdark) (congrArg Still.tab hdark)
  refine ⟨?_, ?_, ?_, ?_, ?_⟩
  · rw [sideEvent_own, releaseSide_eq, queueRecord_side]
  · rw [hrecord] at hhanded
    refine hhanded.to (hctl'.trans ?_)
    rw [releaseSide_eq, hrecord]
  · rw [hmsg', releaseSide_eq, queueRecord_msg]; exact hmsg
  · rintro rfl
    show (sideEvent releaseSide .east s).pdu = _
    rw [sideEvent_east, releaseSide_eq, queueRecord_pdu]; exact hpdu
  · rw [hstill', releaseSide_eq, queueRecord_still, hdark]

/-- Settles O36: the two refusals of R179 and the release, under an empty and under another hold view. -/
theorem unlockConfirmReleases : Obligations.UnlockConfirmReleases := by
  intro sd req ch s hacc
  have hexec := exec_sideRequest (c := .unlockConfirm req ch) (ch := ch) (rule := confirmRule) hacc.1 rfl rfl rfl
  refine ⟨sideRefusals_of_sideRequest hacc hexec, fun hlen hoctet hpresent => ?_⟩
  rw [hexec, sideRequest_accepted hacc hlen hoctet hpresent]
  have hrefusal (st : Status) : sideRefusal (taken s req) st (stateOf (withChoices ch s) sd).code =
      [st.code, sideOctet sd, (stateOf s sd).code] := by rw [sideRefusal_taken, sideRefusal, hoctet]; rfl
  refine ⟨fun hl => ?_, fun hl h => ?_, fun a hl hs harm hsource hnumber => ?_⟩
  · rw [confirmRule_latched (s := withChoices ch s) hl]
    exact answers_of_still (s := withChoices ch s) rfl (hrefusal _)
  · have hrefused : stateOf s sd ≠ .lockout ∨ confirmMatches (taken s req) (s.side.get sd).lock.arming = false := by
      rcases h with h | h
      · exact Or.inl h
      · exact Or.inr (confirmMatches_false (by rw [taken_body]; exact h))
    rw [confirmRule_refused (s := withChoices ch s) hl hrefused]
    exact answers_of_still (s := withChoices ch s) rfl (hrefusal _)
  · have hmatch : confirmMatches (taken s req) (s.side.get sd).lock.arming = true := by
      rw [harm, confirmMatches_some, taken_body]; exact ⟨hsource, hnumber⟩
    rw [confirmRule_releases (s := withChoices ch s) hl hs hmatch]
    obtain ⟨hrec, hhanded, hmsg, hpdu, hstill⟩ := release_releases sd (withChoices ch s)
    obtain ⟨hout, hlines, hhold⟩ := outside_of_still hstill
    have hlock := releasedDark_lock sd (withChoices ch s)
    have hown := releasedDark_own sd (withChoices ch s)
    have hstate : stateOf (sideEvent releaseSide sd (withChoices ch s)) sd = if s.hold.view = 0 then .dark else .hold := by
      unfold stateOf; rw [hrec, hown]; exact apply_ite SideRecord.state _ _ _
    have hdone : sideDone (sideEvent releaseSide sd (withChoices ch s)) sd =
        [0, sideOctet sd, if s.hold.view = 0 then 5 else 4] ++ octets16 (s.side.get sd).lock.count := by
      rw [sideDone, hstate, hrec, hlock]
      by_cases hv : s.hold.view = 0
      · rw [if_pos hv, if_pos hv]; rfl
      · rw [if_neg hv, if_neg hv]; rfl
    refine ⟨sideEvent releaseSide sd (withChoices ch s), answers_of_still (s := withChoices ch s) hstill hdone, hstate,
      ?_, by rw [hrec]; exact hlock, fun hv => ?_, hhanded, hmsg, hpdu, hout, hlines, hhold⟩
    · rw [hrec, hown]; split <;> rfl
    · rw [hrec, hown, if_pos (show (withChoices ch s).hold.view = 0 from hv)]; exact ⟨rfl, rfl⟩

end

end Sys2Proof.Machine
end

section
/-! The own hold bit: HOLD-SET, HOLD-CLEAR and the HOLD line (R135 to R140, R58, R59). -/

namespace Sys2Proof.Machine

section
variable {s t u v : State} {sd : Side} {ch : Choices} {req : Request} {f : Side → State → State}

/-! ### What is handed on in turn -/

theorem RecordsHanded.append {ch' : Choices} {l m : List StoreRecord} (h : RecordsHanded ch l s u)
    (k : RecordsHanded ch' m u v) (hch : l = [] → ch' = ch) (ht : u.time = s.time) (hp : u.position = s.position)
    (htab : u.tab = s.tab) : RecordsHanded ch (l ++ m) s v := by
  cases l with
  | nil =>
    have hu : RecordsHanded ch [] s u := h
    refine ⟨fun h1 h2 => ?_, fun h1 h2 h3 h4 => ?_⟩
    · exact (k.congr (h.1 h1 h2) rfl ht hp htab).1 h1 h2
    · rw [hch rfl] at k
      exact (k.congr ((h.2 h1 h2 h3 h4).1 rfl) rfl ht hp htab).2 h1 h2 h3 h4
  | cons r l =>
    refine ⟨fun h1 h2 => ?_, fun h1 h2 h3 h4 => ⟨fun e => (nomatch e), fun a rest e => ?_⟩⟩
    · obtain ⟨hb1, hb2⟩ := h.busy (Or.inl ⟨h1, h2⟩)
      rw [k.1 hb1 hb2, h.1 h1 h2, List.foldl_append]
    · obtain ⟨hr, hrest⟩ : r = a ∧ l ++ m = rest := by simpa using e
      subst hr hrest
      obtain ⟨hb1, hb2⟩ := h.busy (Or.inr ⟨h1, h2, h3, h4⟩)
      rw [k.1 hb1 hb2, (h.2 h1 h2 h3 h4).2 r l rfl, foldl_joinRecord_with_op, List.foldl_append]

theorem NoticesMade.append {l m : List Made} (h : NoticesMade l s u) (k : NoticesMade m u v)
    (hp : u.position = s.position) (ha : ∀ x, isAbsent u x = isAbsent s x) : NoticesMade (l ++ m) s v := by
  unfold NoticesMade at *
  rw [List.foldl_append, ← h, k, ha, ha]
  simp only [noticeOf_congr hp]

/-! ### An event of both sides -/

theorem sideEvent_idle (h : stateOf (f sd s) .east ∉ [.listen, .probe]) : sideEvent f sd s = f sd s := by
  have hl : stateOf (f sd s) .east ≠ .listen := fun e => h (by rw [e]; simp)
  have hp : stateOf (f sd s) .east ≠ .probe := fun e => h (by rw [e]; simp)
  unfold sideEvent; dsimp only; split
  · exact leadJudge_idle _ hl hp
  · rfl

/-- The lead's judgment keeps the East side among the states it judges in. -/
theorem leadJudge_east (h : stateOf s .east ∈ [.listen, .probe]) : stateOf (leadJudge s) .east ∈ [.listen, .probe] := by
  obtain ⟨hsame, hgoes, hgives, -⟩ := leadJudge_judged s
  by_cases hgo : stateOf s .east = .listen ∧ (s.side.get .east).ready = true ∧ pacingCount s < hdrLimit s.tab.tables ∧
      ∃ f, (s.ports.get .east).report = some f ∧ f.shows .listen = true ∧ f.ready = true
  · unfold stateOf; rw [(hgoes hgo).1]; simp
  · by_cases hgive : stateOf s .east = .probe ∧ (s.side.get .east).verified = false ∧
        hdrLimit s.tab.tables ≤ lowerSpanCount s
    · unfold stateOf; rw [(hgives hgive).1]; simp
    · rw [hsame hgo hgive]; exact h

theorem bothSides_eastFirst (h : s.choices.eastFirst = true) :
    bothSides (sideEvent f) s = sideEvent f .west (f .east s) := by unfold bothSides; rw [if_pos h]; rfl

theorem bothSides_westFirst (h : s.choices.eastFirst = false) :
    bothSides (sideEvent f) s = f .east (sideEvent f .west s) := by
  unfold bothSides; rw [if_neg (Bool.eq_false_iff.1 h)]; rfl

section
variable (hf : ∀ sd s, still (f sd s) = still s)
  (ho : ∀ sd s, (f sd s).side.get (Side.other sd) = s.side.get (Side.other sd))
include hf ho

/-- The West side takes its event from its own record. -/
theorem bothSides_west (s : State) : ∃ x, (bothSides (sideEvent f) s).side.west = (f .west x).side.west ∧
    still x = still s ∧ x.side.west = s.side.west := by
  cases h : s.choices.eastFirst with
  | true => exact ⟨f .east s, by rw [bothSides_eastFirst h]; exact sideEvent_own f .west _, hf _ _, ho .east s⟩
  | false =>
    refine ⟨s, ?_, rfl, rfl⟩
    rw [bothSides_westFirst h]; exact (ho .east _).trans (sideEvent_own f .west s)

/-- The East side takes its event from its own record, but for what the lead has judged in LISTEN and PROBE. -/
theorem bothSides_east (s : State) (hidle : stateOf (f .east s) .east ∉ [.listen, .probe]) :
    ∃ x, (bothSides (sideEvent f) s).side.east = (f .east x).side.east ∧ still x = still s ∧
      (x.side.east = s.side.east ∨ stateOf s .east ∈ [.listen, .probe] ∧ stateOf x .east ∈ [.listen, .probe]) := by
  cases h : s.choices.eastFirst with
  | true =>
    have hkept : (f .west (f .east s)).side.east = (f .east s).side.east := ho .west _
    refine ⟨s, ?_, rfl, Or.inl rfl⟩
    rw [bothSides_eastFirst h, sideEvent_idle ?_, hkept]
    unfold stateOf at *; rwa [show (f .west (f .east s)).side.get .east = _ from hkept]
  | false =>
    have hkept : (f .west s).side.east = s.side.east := ho .west s
    refine ⟨sideEvent f .west s, by rw [bothSides_westFirst h], sideEvent_still f hf .west s, ?_⟩
    by_cases hj : stateOf s .east ∈ [.listen, .probe]
    · refine Or.inr ⟨hj, ?_⟩
      have hw : stateOf (f .west s) .east ∈ [.listen, .probe] := by
        unfold stateOf at *; rwa [show (f .west s).side.get .east = _ from hkept]
      unfold sideEvent; dsimp only; split
      · exact leadJudge_east hw
      · exact hw
    · left
      rw [sideEvent_idle ?_, hkept]
      unfold stateOf at *; rwa [show (f .west s).side.get .east = _ from hkept]

end

/-! ### Hold-begun and hold-ended at both sides -/

theorem holdBegun_held (h : stateOf s sd ∈ [.dark, .listen, .probe, .ramp, .run]) : InHold sd s (holdBegun sd s) := by
  obtain ⟨hrest, hlit, -⟩ := holdBegun_taken sd s
  by_cases hd : stateOf s sd ∈ [.dark, .listen]
  · exact (hrest hd).1
  · exact (hlit (by simp at h hd ⊢; tauto)).1

theorem holdBegun_not_judged (sd : Side) (s : State) : stateOf (holdBegun sd s) sd ∉ [.listen, .probe] := by
  obtain ⟨-, -, hdown, hother⟩ := holdBegun_taken sd s
  by_cases h : stateOf s sd ∈ [.dark, .listen, .probe, .ramp, .run]
  · rw [show stateOf (holdBegun sd s) sd = .hold from (holdBegun_held h).1]; decide
  · by_cases hs : stateOf s sd = .stepdown
    · rw [(hdown hs).1.1]; decide
    · rw [hother (by simp at h ⊢; tauto)]
      intro hc; apply h; simp at hc ⊢; tauto

/-- What a side becomes as the hold begins. -/
theorem holdBegun_sides (s : State) (sd : Side) :
    let u := bothSides (sideEvent holdBegun) s
    (stateOf s sd ∈ [.dark, .listen, .probe, .ramp, .run] →
      stateOf u sd = .hold ∧ (u.side.get sd).reason = .hold ∧ (u.side.get sd).retry = none) ∧
    (stateOf s sd = .stepdown → stateOf u sd = .lockout ∧ (u.side.get sd).reason = .ordered) := by
  intro u
  obtain ⟨x, hx, hstates⟩ : ∃ x, u.side.get sd = (holdBegun sd x).side.get sd ∧
      (x.side.get sd = s.side.get sd ∨ stateOf s sd ∈ [.listen, .probe] ∧ stateOf x sd ∈ [.listen, .probe]) := by
    cases sd with
    | west =>
      obtain ⟨x, hx, -, hw⟩ := bothSides_west holdBegun_still holdBegun_other s
      exact ⟨x, hx, Or.inl hw⟩
    | east =>
      obtain ⟨x, hx, -, hw⟩ := bothSides_east holdBegun_still holdBegun_other s (holdBegun_not_judged .east s)
      exact ⟨x, hx, hw⟩
  unfold stateOf at *; rw [hx]
  refine ⟨fun h => ?_, fun h => ?_⟩
  · have hin : InHold sd x (holdBegun sd x) := holdBegun_held (by
      unfold stateOf
      rcases hstates with e | ⟨-, e⟩
      · rwa [e]
      · simp at e ⊢; tauto)
    exact ⟨hin.1, hin.2.1, hin.2.2.1⟩
  · have hover := (holdBegun_taken sd x).2.2.1 (by
      unfold stateOf
      rcases hstates with e | ⟨e, -⟩
      · rwa [e]
      · rw [h] at e; exact absurd e (by decide))
    exact ⟨hover.1.1, hover.1.2.1⟩

theorem holdEnded_hold (hv : s.hold.view = 0) (h : stateOf s sd = .hold) : stateOf (holdEnded sd s) sd = .dark ∧
    ((holdEnded sd s).side.get sd).retry = some (tripRest s) := by
  obtain ⟨hs, -, hr, -⟩ := (holdEnded_taken sd s hv).1 h
  exact ⟨hs, hr⟩

/-- What a side in HOLD becomes as the hold ends. -/
theorem holdEnded_sides (hv : s.hold.view = 0) (h : stateOf s sd = .hold) :
    stateOf (bothSides (sideEvent holdEnded) s) sd = .dark ∧
      ((bothSides (sideEvent holdEnded) s).side.get sd).retry = some (tripRest s) := by
  obtain ⟨x, hx, hstill, hrec⟩ : ∃ x, (bothSides (sideEvent holdEnded) s).side.get sd = (holdEnded sd x).side.get sd ∧
      still x = still s ∧ x.side.get sd = s.side.get sd := by
    cases sd with
    | west => exact bothSides_west holdEnded_still holdEnded_other s
    | east =>
      obtain ⟨x, hx, hstill, hw⟩ := bothSides_east holdEnded_still holdEnded_other s (by
        rw [(holdEnded_hold hv h).1]; decide)
      exact ⟨x, hx, hstill, hw.resolve_right fun hj => by rw [h] at hj; exact absurd hj.1 (by decide)⟩
  have hrest : tripRest x = tripRest s := by unfold tripRest; rw [show x.tab = s.tab from congrArg Still.tab hstill]
  have hdark := holdEnded_hold (s := x) (sd := sd) (by rw [show x.hold = s.hold from congrArg Still.hold hstill]; exact hv)
    (by unfold stateOf; rw [hrec]; exact h)
  unfold stateOf at *; rw [hx, ← hrest]; exact hdark

/-! ### What the beginning of a hold hands on -/

/-- The records a side hands on at hold-begun (R76, R77). -/
def holdRecords (s t : State) (sd : Side) : List StoreRecord :=
  if stateOf s sd ∈ [.probe, .ramp, .run] then [tripRecordAt sd .hold (stateOf s sd) t]
  else if stateOf s sd = .stepdown then [tripRecordAt sd .ordered .stepdown t, lockedRecord sd .ordered s]
  else []

/-- The notices a side makes at hold-begun (R75). -/
def holdNotices (s : State) (sd : Side) : List Made :=
  if stateOf s sd ∈ [.probe, .ramp, .run] then [⟨112, some sd, .hold, .hold⟩]
  else if stateOf s sd = .stepdown then [⟨114, some sd, .ordered, .lockout⟩]
  else []

theorem holdRecords_congr (hs : u.side.get sd = s.side.get sd) (ht : still v = still t) :
    holdRecords u v sd = holdRecords s t sd := by
  unfold holdRecords lockedRecord stateOf; rw [hs, tripRecordAt_still ht, tripRecordAt_still ht]

theorem holdNotices_congr (hs : u.side.get sd = s.side.get sd) : holdNotices u sd = holdNotices s sd := by
  unfold holdNotices stateOf; rw [hs]

theorem holdBegun_handsOn (sd : Side) (s : State) :
    RecordsHanded s.choices (holdRecords s (holdBegun sd s) sd) s (holdBegun sd s) ∧
      NoticesMade (holdNotices s sd) s (holdBegun sd s) := by
  obtain ⟨hrest, hlit, hdown, hother⟩ := holdBegun_taken sd s
  unfold holdRecords holdNotices
  by_cases hl : stateOf s sd ∈ [.probe, .ramp, .run]
  · rw [if_pos hl, if_pos hl]
    exact ⟨(hlit hl).2.2.2.1, (hlit hl).2.2.2.2⟩
  · rw [if_neg hl, if_neg hl]
    by_cases hs : stateOf s sd = .stepdown
    · rw [if_pos hs, if_pos hs]
      obtain ⟨⟨-, -, -, -, -, -, hhands⟩, -⟩ := hdown hs
      exact hhands
    · rw [if_neg hs, if_neg hs]
      have hsame : (holdBegun sd s).ctl = s.ctl ∧ (holdBegun sd s).msg = s.msg := by
        by_cases hd : stateOf s sd ∈ [.dark, .listen]
        · rw [(hrest hd).2]; exact ⟨rfl, rfl⟩
        · rw [hother (by simp at hl hd ⊢; tauto)]; exact ⟨rfl, rfl⟩
      exact ⟨.none hsame.1, .none hsame.2⟩

theorem holdBegun_choices (sd : Side) (s : State) (h : holdRecords s (holdBegun sd s) sd = []) :
    (holdBegun sd s).choices = s.choices := by
  obtain ⟨hrest, -, -, hother⟩ := holdBegun_taken sd s
  by_cases hl : stateOf s sd ∈ [.probe, .ramp, .run]
  · rw [holdRecords, if_pos hl] at h; exact absurd h (List.cons_ne_nil _ _)
  · by_cases hs : stateOf s sd = .stepdown
    · rw [holdRecords, if_neg hl, if_pos hs] at h; exact absurd h (List.cons_ne_nil _ _)
    · by_cases hd : stateOf s sd ∈ [.dark, .listen]
      · rw [(hrest hd).2]
      · rw [hother (by simp at hl hd ⊢; tauto)]

theorem holdBegun_absent (sd : Side) (s : State) (x : Side) : isAbsent (holdBegun sd s) x = isAbsent s x := by
  obtain ⟨hrest, hlit, hdown, hother⟩ := holdBegun_taken sd s
  by_cases h : stateOf s sd ∈ [.dark, .listen, .probe, .ramp, .run, .stepdown]
  · refine isAbsent_of (holdBegun_other sd s) (fun e => by rw [e] at h; exact absurd h (by decide)) (fun e => ?_) x
    by_cases hs : stateOf s sd = .stepdown
    · rw [(hdown hs).1.1] at e; exact SideState.noConfusion e
    · have hin : InHold sd s (holdBegun sd s) := holdBegun_held (by simp at h hs ⊢; tauto)
      exact SideState.noConfusion (hin.1.symm.trans e)
  · rw [hother h]

/-- Both sides in turn, `x` first, with no judgment of the lead between them. -/
theorem holdBegun_bothHand (x : Side) (s : State) :
    let t := holdBegun x.other (holdBegun x s)
    RecordsHanded s.choices (holdRecords s t x ++ (holdRecords s t x.other ++ [])) s t ∧
      NoticesMade (holdNotices s x ++ (holdNotices s x.other ++ [])) s t := by
  intro t
  have hstill : still (holdBegun x s) = still s := holdBegun_still x s
  have hlast : still t = still (holdBegun x s) := holdBegun_still _ _
  have hother : (holdBegun x s).side.get x.other = s.side.get x.other := holdBegun_other x s
  obtain ⟨hrec, hnot⟩ := holdBegun_handsOn x s
  obtain ⟨hrec', hnot'⟩ := holdBegun_handsOn x.other (holdBegun x s)
  rw [holdRecords_congr hother (t := t) rfl] at hrec'
  rw [holdNotices_congr hother] at hnot'
  rw [List.append_nil, List.append_nil, ← holdRecords_congr (s := s) (u := s) (v := holdBegun x s) (t := t) rfl hlast.symm]
  exact ⟨hrec.append hrec' (holdBegun_choices x s) (congrArg Still.time hstill) (congrArg Still.position hstill)
      (congrArg Still.tab hstill), hnot.append hnot' (congrArg Still.position hstill) (holdBegun_absent x s)⟩

theorem bothSides_in_order (h : s.choices.eastFirst = true ∨ stateOf s .east ∉ [.listen, .probe]) :
    bothSides (sideEvent holdBegun) s = if s.choices.eastFirst then holdBegun .west (holdBegun .east s)
      else holdBegun .east (holdBegun .west s) := by
  cases hc : s.choices.eastFirst with
  | true =>
    have hkept : (holdBegun .west (holdBegun .east s)).side.get .east = _ := holdBegun_other .west (holdBegun .east s)
    rw [bothSides_eastFirst hc, sideEvent_idle ?_, if_pos rfl]
    have := holdBegun_not_judged .east s
    unfold stateOf at *; rwa [hkept]
  | false =>
    have hkept : (holdBegun .west s).side.get .east = _ := holdBegun_other .west s
    rw [bothSides_westFirst hc, sideEvent_idle ?_, if_neg Bool.false_ne_true]
    have := h.resolve_left (by rw [hc]; exact Bool.false_ne_true)
    unfold stateOf at *; rwa [hkept]

/-- What the beginning of a hold hands on at both sides. -/
theorem holdBegun_sidesHand (h : s.choices.eastFirst = true ∨ stateOf s .east ∉ [.listen, .probe]) :
    let t := bothSides (sideEvent holdBegun) s
    let order : List Side := if s.choices.eastFirst then [.east, .west] else [.west, .east]
    RecordsHanded s.choices (order.flatMap (holdRecords s t)) s t ∧ NoticesMade (order.flatMap (holdNotices s)) s t := by
  intro t order
  have ht : t = _ := bothSides_in_order h
  cases hc : s.choices.eastFirst with
  | true =>
    rw [hc, if_pos rfl] at ht
    rw [show order = [.east, .west] from if_pos hc, ht]; exact holdBegun_bothHand .east s
  | false =>
    rw [hc, if_neg Bool.false_ne_true] at ht
    rw [show order = [.west, .east] from if_neg (by rw [hc]; exact Bool.false_ne_true), ht]
    exact holdBegun_bothHand .west s

/-! ### The own hold bit -/

theorem recomputeOwn_same (h : (s.hold.request || s.lines.hold) = s.hold.own) : recomputeOwn s = s := if_pos h

theorem recomputeOwn_changed (h : (s.hold.request || s.lines.hold) ≠ s.hold.own) :
    recomputeOwn s = recomputeView { s with hold := { s.hold with own := s.hold.request || s.lines.hold } } := if_neg h

/-- What a recomputation of the view keeps. -/
theorem recomputeView_outside (s : State) : SameOutside s (recomputeView s) ∧ (recomputeView s).lines = s.lines :=
  ⟨.of_still (t := recomputeView s) (s := reviewed s) (reviewed_still s), congrArg Still.lines (reviewed_still s)⟩

theorem exec_holdRequest (hp : s.powered = true) (b : Bool) :
    exec (if b then .holdSet req ch else .holdClear req ch) s = .next (settle
      (holdRequest (if b then 7 else 8) b (taken s req) (withChoices ch s))) := by
  cases b with
  | true => exact exec_handles (c := .holdSet req ch) hp (Or.inl rfl)
  | false => exact exec_handles (c := .holdClear req ch) hp (Or.inl rfl)

/-- The rule of HOLD-SET and HOLD-CLEAR, accepted (R136). -/
def holdRule (kind : Octet) (b : Bool) (r : Request) (s : State) : State :=
  if r.len ≠ 0 then reply kind r (alone .value) s
  else reply kind r (holdBody (setHoldRequest b s)) (setHoldRequest b s)

theorem holdRequest_eq (kind : Octet) (b : Bool) (r : Request) :
    holdRequest kind b r = judgeModifying kind r alone (holdRule kind b r) := rfl

/-- Settles O32: a wrong length, an own bit that stays, and one that changes. -/
theorem holdRequestsSetFlagAndView : Obligations.HoldRequestsSetFlagAndView := by
  intro b req ch s hacc kind cmd own bit view
  have hexec : exec cmd s = .next (settle (holdRule kind b (taken s req) (withChoices ch s))) := by
    refine (exec_holdRequest hacc.1 b).trans ?_
    rw [holdRequest_eq, judgeModifying_accepted hacc]
  let x : State := { withChoices ch s with hold := { s.hold with request := b } }
  have hrule (h : req.len = 0) : holdRule kind b (taken s req) (withChoices ch s) =
      reply kind (taken s req) (holdBody (recomputeOwn x)) (recomputeOwn x) :=
    if_neg (by rw [taken_len]; exact not_not.2 h)
  refine ⟨fun h => ?_, fun h ho => ?_, fun h ho => ?_⟩
  · rw [hexec, holdRule, if_pos (by rw [taken_len]; exact h)]
    exact answers_of_still (s := withChoices ch s) rfl rfl
  · have hbody : holdBody x = [0, flagOctet [b, s.lines.hold, own]] ++ octets32 s.hold.view := by rw [ho]; rfl
    rw [hexec, hrule h, recomputeOwn_same (s := x) ho, reply_taken kind req _ s x rfl, hbody]
  · have hrec := recomputeOwn_recomputed (s := x) ho
    have hhold : (recomputeOwn x).hold = { request := b, own := own, sets := s.hold.sets, view := view } := by
      rw [recomputeOwn_changed (s := x) ho, recomputeView_hold]; rfl
    obtain ⟨hout, hlines⟩ : SameOutside s (recomputeOwn x) ∧ (recomputeOwn x).lines = s.lines := by
      rw [recomputeOwn_changed (s := x) ho]; exact recomputeView_outside _
    have hbody : holdBody (recomputeOwn x) = [0, flagOctet [b, s.lines.hold, own]] ++ octets32 view := by
      rw [holdBody, holdFlags, hhold, hlines]; rfl
    refine ⟨recomputeOwn x, ?_, hrec, hhold, hout, hlines⟩
    rw [hexec, hrule h, hbody, reply_taken _ _ _ s _ hout.2.1]

theorem exec_holdLine (hp : s.powered = true) (b : Bool) :
    exec (if b then .holdLineAssert ch else .holdLineRelease ch) s =
      .next (settle (setHoldLine b (withChoices ch s))) := by
  cases b with
  | true => exact exec_settles (c := .holdLineAssert ch) (f := setHoldLine true) rfl hp rfl
  | false => exact exec_settles (c := .holdLineRelease ch) (f := setHoldLine false) rfl hp rfl

/-- Settles O41: an own bit that stays and one that changes, with what both sides take and hand on. -/
theorem holdLineSetsOwnBitAndView : Obligations.HoldLineSetsOwnBitAndView := by
  intro b ch s hp cmd own order bit view
  let x : State := { withChoices ch s with lines := { s.lines with hold := b } }
  have hexec : exec cmd s = .next (settle (recomputeOwn x)) := exec_holdLine hp b
  refine ⟨fun h => by rw [hexec, recomputeOwn_same (s := x) h], fun h => ?_⟩
  let y : State := { x with hold := { s.hold with own := own } }
  have hy : recomputeOwn x = recomputeView y := recomputeOwn_changed (s := x) h
  have hhold : (recomputeView y).hold = { s.hold with own := own, view := view } := recomputeView_hold y
  obtain ⟨hout, hlines⟩ := recomputeView_outside y
  refine ⟨settle (recomputeOwn x), hexec, ⟨_, rfl, recomputeOwn_recomputed (s := x) h⟩, ?_⟩
  rw [hy]
  obtain ⟨-, -, -, hlines', -, -, -, -, hhold', -⟩ := settle_fields (recomputeView y)
  have hbegins (h0 : s.hold.view = 0) (h1 : view ≠ 0) : recomputeView y = bothSides (sideEvent holdBegun) (reviewed y) :=
    recomputeView_begins (s := y) h0 h1
  refine ⟨hlines'.trans hlines, hhold'.trans hhold, SameOutside.settle (s := s) hout, fun h0 h1 sd => ?_,
    fun h0 h1 hlead => ?_, fun h0 h1 sd hs => ?_⟩
  · rw [settle_stateOf, settle_side, hbegins h0 h1]; exact holdBegun_sides (reviewed y) sd
  · obtain ⟨hrec, hnot⟩ := holdBegun_sidesHand (s := reviewed y) hlead
    rw [← hbegins h0 h1] at hrec hnot
    have hrecords : holdRecords s (settle (recomputeView y)) = holdRecords (reviewed y) (recomputeView y) := by
      funext sd
      unfold holdRecords; rw [tripRecordAt_settle, tripRecordAt_settle]; rfl
    exact ⟨show RecordsHanded ch (order.flatMap (holdRecords s _)) s _ by rw [hrecords]; exact RecordsHanded.settle hrec,
      NoticesMade.settle hnot⟩
  · rw [settle_stateOf, settle_side, recomputeView_ends (s := y) h0 h1]
    exact holdEnded_sides (s := reviewed y) h1 hs

end

end Sys2Proof.Machine
end

section
/-! The ports: the loss timer, invalid arrivals, and the arrivals of a WITHDRAWN port (R6 to R13, R57, R61). -/

namespace Sys2Proof.Machine

section
variable {s t u : State} {sd port : Side} {ch : Choices} {c : Cause} {octets : List Octet}

/-! ### A trip, and the judgment of the lead that follows it -/

theorem tripEvent_down (hc : c ≠ .notice) (sd : Side) (s : State) :
    stateOf (tripEvent c sd s) sd ∉ [.listen, .probe, .ramp, .run] := by
  obtain ⟨hlisten, hlit⟩ := tripEvent_took sd c s
  by_cases h : stateOf s sd = .listen
  · obtain ⟨⟨hrests, -⟩, -⟩ := hlisten h
    rw [hrests]; split <;> decide
  · by_cases hl : stateOf s sd ∈ [.probe, .ramp, .run]
    · intro hj
      have hd := (hlit hl).1.down
      simp only [List.mem_cons, List.not_mem_nil, or_false] at hd
      rcases hd with e | e | e <;> rw [e] at hj <;> exact absurd hj (by decide)
    · have hout : stateOf s sd ∉ [.listen, .probe, .ramp, .run] := by simp at h hl ⊢; tauto
      rw [tripEvent_idle hc hout]; exact hout

theorem tripEvent_not_judged (hc : c ≠ .notice) (sd : Side) (s : State) :
    stateOf (tripEvent c sd s) sd ∉ [.listen, .probe] := by
  have := tripEvent_down hc sd s
  simp at this ⊢; tauto

theorem TookTrip.congr (h : TookTrip ch sd c s t) (hr : u.side.get sd = t.side.get sd)
    (hd : ∀ n ∈ pumpsUp s.tab sd, driveOf t.pdu n = 0 → driveOf u.pdu n = 0)
    (hp : u.pdu.stepdown.get sd = t.pdu.stepdown.get sd) (hs : still u = still t) (hc : u.ctl = t.ctl)
    (hm : u.msg = t.msg) : TookTrip ch sd c s u := by
  refine ⟨fun hl => ?_, fun hl => (h.2 hl).congr hr hd hp hs hc hm⟩
  have := h.1 hl
  unfold RestsWith stateOf at *; rw [hr]
  obtain ⟨a1, a2, a3, a4, a5, a6, a7, a8⟩ := this
  exact ⟨a1, a2, a3, a4, a5, a6, a7.to hc, a8.to hm⟩

/-- What a trip and the judgment of the lead after it leave of the side, and what they keep. -/
theorem trip_judged (hc : c ≠ .notice) (sd : Side) (s : State) :
    let t := leadJudge (sideEvent (tripEvent c) sd s)
    TookTrip s.choices sd c s t ∧ t.side.get sd = (tripEvent c sd s).side.get sd ∧ t.msg = (tripEvent c sd s).msg ∧
      still t = still s := by
  intro t
  let x := sideEvent (tripEvent c) sd s
  have hstill : still x = still s := sideEvent_still _ (tripEvent_still c) sd s
  have hside : t.side.get sd = x.side.get sd := by
    cases sd with
    | west => exact leadJudge_west x
    | east =>
      have hidle := tripEvent_not_judged hc .east s
      simp only [List.mem_cons, List.not_mem_nil, or_false, not_or] at hidle
      exact congrArg (fun y : State => y.side.get .east) (leadJudge_idle x hidle.1 hidle.2)
  have hdark : ∀ n ∈ pumpsUp s.tab sd, driveOf x.pdu n = 0 → driveOf t.pdu n = 0 := by
    cases sd with
    | west => exact fun n hn h0 => leadJudge_west_dark x (by rw [show x.tab = s.tab from congrArg Still.tab hstill]; exact hn) h0
    | east =>
      have hidle := tripEvent_not_judged hc .east s
      simp only [List.mem_cons, List.not_mem_nil, or_false, not_or] at hidle
      intro n _ h0
      rw [show t = x from leadJudge_idle x hidle.1 hidle.2]; exact h0
  refine ⟨(sideEvent_took sd c s).congr hside hdark (by rw [leadJudge_stepdown]) (leadJudge_still x) (leadJudge_ctl x)
    (leadJudge_msg x), hside.trans (sideEvent_own _ sd s), (leadJudge_msg x).trans (sideEvent_msg _ sd s),
    (leadJudge_still x).trans hstill⟩

/-! ### The loss timer (R9, R10) -/

theorem enterLoss_enters (ha : isAbsent s port = false) (h : (s.ports.get port).lossTimer ≠ none) : enterLoss port s =
    leadJudge (sideEvent (tripEvent .loss) port (setPort port (s.ports.get port).lost s)) := by
  unfold enterLoss; rw [if_pos (by rw [ha, Option.isSome_iff_ne_none.mpr h]; rfl)]

/-- Settles O15: the trip of the side, taken in the state whose port has gone to LOSS, and the judgment of the lead. -/
theorem lossTimerExpiryEntersLoss : Obligations.LossTimerExpiryEntersLoss := by
  intro port ch s hp ha htimer
  let x := setPort port (s.ports.get port).lost (withChoices ch s)
  let v := leadJudge (sideEvent (tripEvent .loss) port x)
  have hexec : exec (.lossTimerExpiry port ch) s = .next (settle v) :=
    exec_settles (f := enterLoss port) rfl hp (enterLoss_enters (s := withChoices ch s) ha htimer)
  obtain ⟨htook, hside, -, hstill⟩ := trip_judged (c := .loss) (by decide) port x
  obtain ⟨h1, h2, h3, h4, h5, h6, h7, h8, h9, h10, h11, -, h13, -⟩ := still_fields hstill
  obtain ⟨k1, k2, k3, k4, k5, k6, k7, k8, k9, k10, k11, -, k13, -⟩ := settle_fields v
  have hports : (settle v).ports = s.ports.set port (s.ports.get port).lost := k5.trans h5
  have htx : (settle v).tx = s.tx.set port.other
      { s.tx.get port.other with frameTimer := !isAbsent s port.other } := k6.trans h6
  refine ⟨settle v, hexec, by rw [hports, Sides.get_set]; rfl, by rw [hports, Sides.get_set_other], fun hn => ?_,
    TookTrip.settle htook, fun hs => ?_, fun he => ?_, fun hw => ?_, by rw [htx, Sides.get_set], ?_, k9.trans h9,
    k7.trans h7, k8.trans h8, k4.trans h4, k3.trans h3, k11.trans h11, k10.trans h10, k2.trans h2, k13.trans h13⟩
  · rw [htx, Sides.get_set, hn]; rfl
  · rw [settle_side, hside, tripEvent_idle (s := x) (by decide) hs]; rfl
  · subst he
    rw [settle_stateOf, stateOf, hside]; exact tripEvent_not_judged (by decide) .east x
  · subst hw
    have hu := still_fields (tripEvent_still .loss .west x)
    refine ⟨tripEvent .loss .west x, sideEvent (tripEvent .loss) .west x, v, ?_, tripEvent_other .loss .west x, ?_,
      hu.2.2.2.2.2.2.1, hu.2.2.2.1, sideEvent_judged _ x, leadJudge_judged _, rfl⟩
    · exact (Eq.trans (congrArg Sides.west (settle_side v)) hside).symm
    · rw [hports]; exact hu.2.2.2.2.1
  · rw [htx]; exact Sides.get_set_ne _ _ _ _ (Side.ne_other port)

/-! ### Arrivals that hand nothing on (R6 to R8, R12) -/

theorem setPort_kept (port : Side) (r : PortRecord) (s : State) :
    (setPort port r s).ports.get port = r ∧ (setPort port r s).ports.get port.other = s.ports.get port.other ∧
      ((setPort port r s).tx.get port.other).transit = (s.tx.get port.other).transit ∧
      (setPort port r s).tx.get port = s.tx.get port := by
  refine ⟨by rw [setPort_ports, Sides.get_set], by rw [setPort_ports, Sides.get_set_other],
    by rw [setPort_tx, Sides.get_set], ?_⟩
  rw [setPort_tx]; exact Sides.get_set_ne _ _ _ _ (Side.ne_other port)

theorem conditionFor_eq (c : PortCondition) (n : Nat) : conditionFor c n =
    if c = .withdrawn then (if n = 0 then .clear else .withdrawn)
    else if n = 255 then .withdrawn else if n < 96 then .clear else .degraded := by cases c <;> rfl

theorem conditionFor_withdraws (c : PortCondition) (n : Nat) :
    (c ≠ .withdrawn ∧ conditionFor c n = .withdrawn) ↔ c ≠ .withdrawn ∧ n = 255 := by
  rw [conditionFor_eq]
  refine and_congr_right fun hc => ?_
  rw [if_neg hc]
  by_cases h : n = 255
  · simp [h]
  · rw [if_neg h]; split <;> simp [h]

theorem conditionEvent_withdrawn {old : PortCondition} (h : old ≠ .withdrawn) :
    conditionEvent old .withdrawn = tripEvent .withdrawn := by
  cases old with
  | clear => rfl
  | degraded => rfl
  | withdrawn => exact absurd rfl h

theorem takeArrival_valid (ha : isAbsent s port = false) (h : classify (pos s) port octets = .valid) :
    takeArrival port octets s = validArrival port (frameOf octets) s := by
  unfold takeArrival; rw [if_neg (by simp [ha]), h]

theorem takeArrival_invalid (ha : isAbsent s port = false) (h : classify (pos s) port octets ≠ .valid) :
    takeArrival port octets s = invalidArrival port (classify (pos s) port octets == .neighbour) s := by
  unfold takeArrival; rw [if_neg (by simp [ha])]
  cases hk : classify (pos s) port octets with
  | corrupt => rfl
  | neighbour => rfl
  | valid => exact absurd hk h

/-- The states of an invalid arrival, after the change of condition, the NEIGHBOUR event and the lead's judgment. -/
def invalidCondition (port : Side) (w : Bool) (s : State) : State :=
  sideEvent (conditionEvent (s.ports.get port).condition ((s.ports.get port).afterInvalid w).condition) port
    (setPort port ((s.ports.get port).afterInvalid w) s)

def invalidJudged (port : Side) (w : Bool) (s : State) : State :=
  judgeWithdrawn (s.ports.get port).condition ((s.ports.get port).afterInvalid w).condition
    (if !(s.ports.get port).neighbour && ((s.ports.get port).afterInvalid w).neighbour then
      sideEvent (tripEvent .neighbour) port (invalidCondition port w s) else invalidCondition port w s)

theorem invalidArrival_eq (port : Side) (w : Bool) (s : State) : invalidArrival port w s =
    if portBlocked ((s.ports.get port).afterInvalid w) then invalidJudged port w s
    else queueDeparture port.other .originated (invalidJudged port w s) := rfl

theorem invalidJudged_still (port : Side) (w : Bool) (s : State) :
    still (invalidJudged port w s) = still (setPort port ((s.ports.get port).afterInvalid w) s) := by
  have hcondition : still (invalidCondition port w s) = still (setPort port ((s.ports.get port).afterInvalid w) s) :=
    sideEvent_still _ (conditionEvent_still _ _) _ _
  have hevent : still (if !(s.ports.get port).neighbour && ((s.ports.get port).afterInvalid w).neighbour then
      sideEvent (tripEvent .neighbour) port (invalidCondition port w s) else invalidCondition port w s) =
      still (setPort port ((s.ports.get port).afterInvalid w) s) := by
    split
    · exact (sideEvent_still _ (tripEvent_still _) _ _).trans hcondition
    · exact hcondition
  unfold invalidJudged judgeWithdrawn; split
  · exact (leadJudge_still _).trans hevent
  · exact hevent

section
variable {w : Bool}

/-- WITHDRAWN has begun: its trip, after which NEIGHBOUR finds nothing to trip. -/
theorem invalidJudged_withdraws (h : (s.ports.get port).condition ≠ .withdrawn)
    (hw : ((s.ports.get port).afterInvalid w).condition = .withdrawn) : invalidJudged port w s =
      leadJudge (sideEvent (tripEvent .withdrawn) port (setPort port ((s.ports.get port).afterInvalid w) s)) := by
  have hcondition : invalidCondition port w s =
      sideEvent (tripEvent .withdrawn) port (setPort port ((s.ports.get port).afterInvalid w) s) := by
    unfold invalidCondition; rw [hw, conditionEvent_withdrawn h]
  have hdown : stateOf (invalidCondition port w s) port ∉ [.listen, .probe, .ramp, .run] := by
    rw [hcondition]; unfold stateOf; rw [sideEvent_own]
    exact tripEvent_down (by decide) port _
  have hneighbour : sideEvent (tripEvent .neighbour) port (invalidCondition port w s) = invalidCondition port w s :=
    sideEvent_to (tripEvent_idle (by decide) hdown) rfl
  unfold invalidJudged judgeWithdrawn
  rw [hneighbour, ite_self, if_pos ⟨h, hw⟩, hcondition]

theorem invalidJudged_neighbour (h : ¬ ((s.ports.get port).condition ≠ .withdrawn ∧
      ((s.ports.get port).afterInvalid w).condition = .withdrawn))
    (hn : (s.ports.get port).neighbour = false) (hw : w = true) : invalidJudged port w s =
      sideEvent (tripEvent .neighbour) port (invalidCondition port w s) := by
  unfold invalidJudged judgeWithdrawn
  rw [if_neg h, if_pos]
  rw [show ((s.ports.get port).afterInvalid w).neighbour = ((s.ports.get port).neighbour || w) from rfl, hn, hw]; rfl

theorem invalidJudged_plain (h : ¬ ((s.ports.get port).condition ≠ .withdrawn ∧
      ((s.ports.get port).afterInvalid w).condition = .withdrawn))
    (hn : ¬ ((s.ports.get port).neighbour = false ∧ w = true)) : invalidJudged port w s = invalidCondition port w s := by
  unfold invalidJudged judgeWithdrawn
  rw [if_neg h, if_neg]
  rw [show ((s.ports.get port).afterInvalid w).neighbour = ((s.ports.get port).neighbour || w) from rfl]
  cases hr : (s.ports.get port).neighbour <;> simp_all

end

/-- The transmitters after a departure has fallen due, but on a blocked port or an absent side. -/
def departedTx (blocked : Bool) (tx : Side) (d : Departure) (s : State) : Sides Transmitter :=
  if blocked || isAbsent s tx then s.tx
  else s.tx.set tx { s.tx.get tx with transit := (s.tx.get tx).transit ++ [d] }

theorem departedTx_transit (blocked : Bool) (tx : Side) (d : Departure) (s : State) :
    ((departedTx blocked tx d s).get tx).transit =
      if blocked || isAbsent s tx then (s.tx.get tx).transit else (s.tx.get tx).transit ++ [d] := by
  unfold departedTx; split
  · rfl
  · rw [Sides.get_set]

theorem departedTx_frameTimer (blocked : Bool) (tx : Side) (d : Departure) (s : State) :
    ((departedTx blocked tx d s).get tx).frameTimer = (s.tx.get tx).frameTimer := by
  unfold departedTx; split
  · rfl
  · rw [Sides.get_set]

theorem departedTx_other {tx sd : Side} (h : sd ≠ tx) (blocked : Bool) (d : Departure) (s : State) :
    (departedTx blocked tx d s).get sd = s.tx.get sd := by
  unfold departedTx; split
  · rfl
  · exact Sides.get_set_ne _ _ _ _ h

theorem queueDeparture_eq (tx : Side) (d : Departure) (s : State) :
    queueDeparture tx d s = { s with tx := departedTx false tx d s } := by
  unfold queueDeparture departedTx; rw [Bool.false_or]; split <;> rfl

/-- An arrival that is not forwarded: the originated departure of an open port. -/
theorem invalidArrival_departs (port : Side) (w : Bool) (s : State) : invalidArrival port w s =
    { invalidJudged port w s with
      tx := departedTx (portBlocked ((s.ports.get port).afterInvalid w)) port.other .originated (invalidJudged port w s) } := by
  rw [invalidArrival_eq, queueDeparture_eq]
  cases portBlocked ((s.ports.get port).afterInvalid w) <;> rfl

/-- A trip is the same from a record that was READY in LISTEN. -/
theorem TookTrip.of_unready (h : TookTrip ch sd c { s with
    side := s.side.set sd (if stateOf s sd = .listen then { s.side.get sd with ready := false } else s.side.get sd) } t) :
    TookTrip ch sd c s t := by
  by_cases hl : stateOf s sd = .listen
  · rw [if_pos hl] at h
    refine ⟨fun _ => ?_, fun hlit => absurd hlit (by rw [hl]; decide)⟩
    have hlisten := h.1 (by unfold stateOf; dsimp only; rw [Sides.get_set]; exact hl)
    dsimp only at hlisten
    rw [Sides.get_set] at hlisten
    exact hlisten
  · rw [if_neg hl, Sides.set_get] at h; exact h

theorem TookTrip.retransmitted {y : Sides Transmitter} (h : TookTrip ch sd c s t) :
    TookTrip ch sd c s { t with tx := y } := h

/-- The NEIGHBOUR event after a condition that stays, or after DEGRADED begun, is its trip in the state before. -/
theorem invalidJudged_tripped {w : Bool} (hw : w = true) (hn : (s.ports.get port).neighbour = false)
    (hcond : ((s.ports.get port).afterInvalid w).condition = (s.ports.get port).condition ∨
      (s.ports.get port).condition = .clear ∧ ((s.ports.get port).afterInvalid w).condition = .degraded) :
    TookTrip s.choices port .neighbour s (invalidJudged port w s) := by
  have hnot : ¬ ((s.ports.get port).condition ≠ .withdrawn ∧
      ((s.ports.get port).afterInvalid w).condition = .withdrawn) := by
    rintro ⟨h1, h2⟩
    rcases hcond with e | ⟨-, e⟩
    · exact h1 (e.symm.trans h2)
    · rw [e] at h2; exact PortCondition.noConfusion h2
  obtain ⟨hsame, hdegrades, -⟩ := conditionEvent_taken port (s.ports.get port).condition
    ((s.ports.get port).afterInvalid w).condition (setPort port ((s.ports.get port).afterInvalid w) s)
  rw [invalidJudged_neighbour hnot hn hw]
  unfold invalidCondition
  rcases hcond with e | ⟨e, e'⟩
  · rw [hsame e.symm]
    exact sideEvent_took port .neighbour (setPort port ((s.ports.get port).afterInvalid w) s)
  · rw [hdegrades e e']
    exact TookTrip.of_unready (s := setPort port ((s.ports.get port).afterInvalid w) s) (sideEvent_took port .neighbour _)

/-- Settles O10: the port record, the three ways the side takes the arrival, and the departure it leaves. -/
theorem invalidArrivalEffect : Obligations.InvalidArrivalEffect := by
  intro port octets ch s hp ha hk r score withdraws begins
  let w := classify (pos s) port octets == .neighbour
  let r1 := r.afterInvalid w
  let x := setPort port r1 (withChoices ch s)
  let u := invalidJudged port w (withChoices ch s)
  let v := invalidArrival port w (withChoices ch s)
  have hexec : exec (.arrival port octets ch) s = .next (settle v) :=
    exec_settles (f := takeArrival port octets) rfl hp (takeArrival_invalid (s := withChoices ch s) ha hk)
  have hv : v = { u with tx := departedTx (portBlocked r1) port.other .originated u } := invalidArrival_departs port w _
  have hstill : still u = still x := invalidJudged_still port w _
  obtain ⟨u1, u2, u3, u4, u5, u6, u7, u8, u9, u10, u11, -, u13, -⟩ := still_fields hstill
  obtain ⟨k1, k2, k3, k4, k5, k6, k7, k8, k9, k10, k11, -, k13, -⟩ := settle_fields v
  obtain ⟨hown, hother, htransit, htx⟩ := setPort_kept port r1 (withChoices ch s)
  have hports : (settle v).ports = x.ports := k5.trans ((congrArg State.ports hv).trans u5)
  have hport : (settle v).ports.get port = r1 := by rw [hports]; exact hown
  have hside : (settle v).side = u.side := by rw [settle_side, hv]
  have hcond : r1.condition = conditionFor r.condition score := rfl
  have hscore : score ≠ 0 := by show min 255 (r.score + 8) ≠ 0; omega
  have hwithdraws : (r.condition ≠ .withdrawn ∧ r1.condition = .withdrawn) ↔ withdraws := conditionFor_withdraws _ _
  have hbegins : (r.neighbour = false ∧ w = true) ↔ begins := and_congr_right fun _ => beq_iff_eq
  have hevent : ConditionTaken port r.condition r1.condition x (invalidCondition port w (withChoices ch s)) :=
    conditionEvent_taken _ _ _ _
  have htrip {c : Cause} (h : TookTrip ch port c s u) : TookTrip ch port c s (settle v) := by
    rw [hv]; exact TookTrip.settle h.retransmitted
  refine ⟨settle v, hexec, by rw [hport]; rfl, fun h => ?_, fun h => ?_, by rw [hport]; rfl, by rw [hport]; rfl,
    by rw [hport]; rfl, by rw [hport]; rfl, by rw [hport]; rfl, by rw [hport]; rfl, fun h => ?_, fun h => ?_, fun h => ?_,
    fun h hb hd => ?_, fun h hb hc => ?_, fun h hb hc hs => ?_, by rw [hports]; exact hother, ?_, ?_,
    k2.trans ((congrArg State.position hv).trans u2), k3.trans ((congrArg State.time hv).trans u3),
    k4.trans ((congrArg State.lines hv).trans u4), k7.trans ((congrArg State.tab hv).trans u7),
    k8.trans ((congrArg State.scan hv).trans u8), k9.trans ((congrArg State.hold hv).trans u9),
    k10.trans ((congrArg State.loc hv).trans u10), k11.trans ((congrArg State.store hv).trans u11),
    k13.trans ((congrArg State.pending hv).trans u13)⟩
  · rw [hport, hcond, conditionFor_eq, if_pos h]
  · rw [hport, hcond, conditionFor_eq, if_neg h]
  · rw [hport]; exact if_pos (hwithdraws.2 h)
  · rw [hport]; exact if_neg fun hc => h (hwithdraws.1 hc)
  · obtain ⟨h1, h2⟩ := hwithdraws.2 h
    refine htrip ?_
    show TookTrip ch port .withdrawn s (invalidJudged port w (withChoices ch s))
    rw [invalidJudged_withdraws (s := withChoices ch s) h1 h2]
    exact (trip_judged (by decide) port x).1
  · refine htrip (invalidJudged_tripped (s := withChoices ch s) (hbegins.2 hb).2 (hbegins.2 hb).1 ?_)
    show conditionFor r.condition score = r.condition ∨ r.condition = .clear ∧ conditionFor r.condition score = .degraded
    rw [conditionFor_eq]
    cases hr : r.condition with
    | withdrawn => left; rw [if_pos rfl, if_neg hscore]
    | clear =>
      have h255 : score ≠ 255 := fun e => h ⟨by rw [hr]; decide, e⟩
      by_cases h96 : score < 96
      · left; rw [if_neg (by decide), if_neg h255, if_pos h96]
      · right; exact ⟨rfl, by rw [if_neg (by decide), if_neg h255, if_neg h96]⟩
    | degraded =>
      have h255 : score ≠ 255 := fun e => h ⟨by rw [hr]; decide, e⟩
      have h96 : ¬ score < 96 := Nat.not_lt.2 (hd.resolve_left fun hne => hne hr)
      left; rw [if_neg (by decide), if_neg h255, if_neg h96]
  · have hu : u = x := (invalidJudged_plain (s := withChoices ch s) (fun hc => h (hwithdraws.1 hc))
      fun hc => hb (hbegins.1 hc)).trans (hevent.1 (hc.symm.trans (by rw [hport])))
    rw [hside, hu]; rfl
  · have h255 : score ≠ 255 := fun e => h ⟨by rw [hc]; decide, e⟩
    have hdegraded : r1.condition = .degraded := by
      rw [hcond, conditionFor_eq, hc, if_neg (by decide), if_neg h255, if_neg (Nat.not_lt.2 hs)]
    have hu : u = _ := (invalidJudged_plain (s := withChoices ch s) (fun hc => h (hwithdraws.1 hc))
      fun hc => hb (hbegins.1 hc)).trans (hevent.2.1 hc hdegraded)
    refine ⟨by rw [hside, hu]; rfl, ?_, ?_⟩
    · rw [settle_pdu, hv]; show u.pdu = _; rw [hu]; rfl
    · rw [settle_msg, hv]; show u.msg = _; rw [hu]; rfl
  · have habsent : isAbsent (settle v) port.other = isAbsent u port.other := by
      unfold isAbsent; rw [hside]
    rw [k6, hport, habsent, hv]
    refine (departedTx_transit _ _ _ u).trans ?_
    rw [u6, htransit]; rfl
  · rw [k6, hv]
    exact (departedTx_other (Side.ne_other port) _ _ u).trans ((congrArg (Sides.get · port) u6).trans htx)

/-! ### A valid arrival that leaves its port WITHDRAWN (R11) -/

theorem scoreValid_eq (r : PortRecord) (octets : List Octet) :
    scoreValid r.last (frameOf octets).origin (frameOf octets).sequence r.score =
      if scoreSkips r octets then min 255 (r.score + 4) else r.score - 1 := by
  unfold scoreValid scoreSkips
  cases r.last with
  | none => rfl
  | some l =>
    obtain ⟨o, q⟩ := l
    refine if_congr ?_ rfl rfl
    rw [Bool.and_eq_true, beq_iff_eq, bne_iff_ne]
    exact and_congr eq_comm ne_comm

/-- The port record after a valid arrival that leaves it WITHDRAWN. -/
theorem afterValid_withdrawn {r : PortRecord} {octets : List Octet} {k score : Nat}
    (hs : (if scoreSkips r octets then min 255 (r.score + 4) else r.score - 1) = score)
    (h : conditionFor r.condition score = .withdrawn) : r.afterValid k (frameOf octets) =
      { r with
        score := score, condition := .withdrawn, loss := false, neighbour := false
        last := some (octetAt octets 1, octetAt octets 2), lossTimer := some k
        spans := if r.condition ≠ .withdrawn then unknownSpans else r.spans } := by
  unfold PortRecord.afterValid; dsimp only
  rw [scoreValid_eq, hs, if_pos h, h]; rfl

/-- The states of a valid arrival after the change of condition, and after LOSS and NEIGHBOUR have ended. -/
def validCondition (port : Side) (r1 : PortRecord) (s : State) : State :=
  sideEvent (conditionEvent (s.ports.get port).condition r1.condition) port (setPort port r1 s)

def validCleared (port : Side) (r1 : PortRecord) (s : State) : State :=
  if (s.ports.get port).loss || (s.ports.get port).neighbour then
    sideEvent judgeDark port (validCondition port r1 s) else validCondition port r1 s

section
variable {r1 : PortRecord} {f : Frame}

theorem validArrival_withdrawn (hr : (s.ports.get port).afterValid (lossThreshold s) f = r1) (h : r1.condition = .withdrawn) :
    validArrival port f s =
      judgeWithdrawn (s.ports.get port).condition .withdrawn (validCleared port r1 s) := by
  subst hr
  rw [← h]
  exact if_pos h

theorem validArrival_open (hr : (s.ports.get port).afterValid (lossThreshold s) f = r1) (h : r1.condition ≠ .withdrawn) :
    validArrival port f s = queueDeparture port.other (.forwarded { f with slot := slotAfter (pos s) f.slot })
      (handAll port f (validCleared port r1 s)) := by
  subst hr; exact if_neg h

theorem validCondition_still (port : Side) (r1 : PortRecord) (s : State) :
    still (validCondition port r1 s) = still (setPort port r1 s) := sideEvent_still _ (conditionEvent_still _ _) _ _

theorem validCleared_still (port : Side) (r1 : PortRecord) (s : State) :
    still (validCleared port r1 s) = still (setPort port r1 s) := by
  unfold validCleared; split
  · exact (sideEvent_still _ judgeDark_still _ _).trans (validCondition_still port r1 s)
  · exact validCondition_still port r1 s

/-- A WITHDRAWN port lets its side listen no more. -/
theorem validCleared_withdrawn (h : r1.condition = .withdrawn) : validCleared port r1 s = validCondition port r1 s := by
  have hports : ((validCondition port r1 s).ports.get port).condition = .withdrawn := by
    rw [show (validCondition port r1 s).ports = _ from congrArg Still.ports (validCondition_still port r1 s)]
    exact (congrArg PortRecord.condition (setPort_kept port r1 s).1).trans h
  have hdark : judgeDark port (validCondition port r1 s) = validCondition port r1 s :=
    judgeDark_stays fun hm => hm.2.2.1 hports
  unfold validCleared
  rw [sideEvent_to hdark rfl, ite_self]

end

/-- Settles O12: the arrival of a port that was WITHDRAWN, and the trip of WITHDRAWN begun. -/
theorem withdrawnPortTakesNothing : Obligations.WithdrawnPortTakesNothing := by
  intro port octets ch s hp ha hk r score record tx
  have hexec : exec (.arrival port octets ch) s = .next (settle (validArrival port (frameOf octets) (withChoices ch s))) :=
    exec_settles (f := takeArrival port octets) rfl hp (takeArrival_valid (s := withChoices ch s) ha hk)
  have hafter (h : conditionFor r.condition score = .withdrawn) :
      r.afterValid (lossThreshold (withChoices ch s)) (frameOf octets) =
        { record with spans := if r.condition ≠ .withdrawn then unknownSpans else r.spans } := afterValid_withdrawn rfl h
  refine ⟨fun hw h0 => ?_, fun hw h255 => ?_⟩
  · have hcond : conditionFor r.condition score = .withdrawn := by rw [conditionFor_eq, if_pos hw, if_neg h0]
    have hr1 := hafter hcond
    rw [if_neg (not_not.2 hw)] at hr1
    have hsame : validCondition port record (withChoices ch s) = setPort port record (withChoices ch s) :=
      (conditionEvent_taken port r.condition .withdrawn _).1 hw
    rw [hexec, validArrival_withdrawn (s := withChoices ch s) hr1 rfl, validCleared_withdrawn rfl, hsame]
    exact congrArg (Host.Outcome.next ∘ settle) (if_neg fun hc => hc.1 hw)
  · have hcond : conditionFor r.condition score = .withdrawn := by rw [conditionFor_eq, if_neg hw, if_pos h255]
    have hr1 := hafter hcond
    rw [if_pos hw] at hr1
    let r1 : PortRecord := { record with spans := unknownSpans }
    let x := setPort port r1 (withChoices ch s)
    let v := leadJudge (sideEvent (tripEvent .withdrawn) port x)
    have hevent : validCondition port r1 (withChoices ch s) = sideEvent (tripEvent .withdrawn) port x := by
      unfold validCondition
      rw [show r1.condition = .withdrawn from rfl, conditionEvent_withdrawn (old := ((withChoices ch s).ports.get port).condition) hw]
    have hv : validArrival port (frameOf octets) (withChoices ch s) = v := by
      rw [validArrival_withdrawn (s := withChoices ch s) hr1 rfl, validCleared_withdrawn rfl, hevent]
      exact if_pos ⟨hw, rfl⟩
    obtain ⟨htook, hside, hmsg, hstill⟩ := trip_judged (c := .withdrawn) (by decide) port x
    obtain ⟨h1, h2, h3, h4, h5, h6, h7, h8, h9, h10, h11, -, h13, -⟩ := still_fields hstill
    obtain ⟨k1, k2, k3, k4, k5, k6, k7, k8, k9, k10, k11, -, k13, -⟩ := settle_fields v
    refine ⟨settle v, by rw [hexec, hv], k5.trans h5, k6.trans h6, TookTrip.settle htook, fun hs => ?_, fun hs => ?_,
      k9.trans h9, k7.trans h7, k11.trans h11, k8.trans h8, k10.trans h10, k4.trans h4, k3.trans h3, k2.trans h2,
      k13.trans h13⟩
    · rw [settle_side, hside, tripEvent_idle (s := x) (by decide) hs]; rfl
    · rw [settle_msg, hmsg]
      by_cases hl : stateOf s port = .listen
      · obtain ⟨-, -, -, -, -, -, -, hnone⟩ := htook.1 hl
        exact hmsg.symm.trans hnone
      · rw [tripEvent_idle (s := x) (by decide) (by
          show stateOf s port ∉ _
          simp at hs hl ⊢; tauto)]; rfl

end

end Sys2Proof.Machine
end

section
/-! A valid arrival of an open port: what it hands on (R11, R151, R138 to R140, R153). -/

namespace Sys2Proof.Machine

section
variable {s t u : State} {port : Side} {ch : Choices} {octets : List Octet} {f : Frame} {l : List HandOn}

/-! ### The hold set among what is handed on -/

/-- The state with the port's hold set taken, its view not yet recomputed (R138). -/
def takenSet (port : Side) (s : State) : State :=
  { s with hold := { s.hold with sets := s.hold.sets.set port (s.ports.get port).holdSet } }

theorem takeHoldSet_still (port : Side) (s : State) : still (takeHoldSet port s) = still (reviewed (takenSet port s)) :=
  reviewed_still (takenSet port s)

theorem takenSet_congr (h : still t = still s) : still (takenSet port t) = still (takenSet port s) := by
  have hr (x : State) : still (takenSet port x) = { still x with hold := { (still x).hold with
      sets := (still x).hold.sets.set port ((still x).ports.get port).holdSet } } := rfl
  rw [hr, hr, h]

theorem takenSet_twice (port : Side) (s : State) :
    reviewed (takenSet port (reviewed (takenSet port s))) = reviewed (takenSet port s) := by
  cases port <;> rfl

/-- Everything that no side event changes, after one of the four things is handed on with an empty slot. -/
theorem handOne_still (hk : f.slot.kind = 0) (h : HandOn) (s : State) : still (handOne port f h s) =
    still (if h = .holdSet then reviewed (takenSet port s) else s) := by
  cases h with
  | report => exact sideEvent_still _ (farReport_still _) _ _
  | view => exact leadJudge_still s
  | holdSet => exact takeHoldSet_still port s
  | slot => rw [handOne, (judgeSlot_empty hk).1]; rfl

theorem handFold_still (hk : f.slot.kind = 0) (l : List HandOn) (s : State) :
    still (l.foldl (fun s h => handOne port f h s) s) =
      still (if .holdSet ∈ l then reviewed (takenSet port s) else s) := by
  induction l generalizing s with
  | nil => rfl
  | cons a l ih =>
    have ha := handOne_still (port := port) hk a s
    rw [List.foldl_cons, ih]
    by_cases hl : .holdSet ∈ l
    · rw [if_pos hl, if_pos (List.mem_cons_of_mem _ hl), reviewed_congr (takenSet_congr ha)]
      split
      · rw [takenSet_twice]
      · rfl
    · rw [if_neg hl, ha]
      by_cases he : a = .holdSet
      · rw [if_pos he, if_pos (he ▸ List.mem_cons_self)]
      · rw [if_neg he, if_neg fun hm => (List.mem_cons.1 hm).elim (fun e => he e.symm) hl]

/-- An arrival whose slot is empty takes its hold set, whatever the order. -/
theorem handAll_still (hk : f.slot.kind = 0) (s : State) :
    still (handAll port f s) = still (reviewed (takenSet port s)) := by
  have hmem : HandOn.holdSet ∈ handOrder s.choices.handOn := by unfold handOrder; simp
  unfold handAll; rw [handFold_still hk, if_pos hmem]

theorem handAll_default (h : s.choices.handOn = []) : handAll port f s =
    judgeSlot f.slot (takeHoldSet port (leadJudge (sideEvent (farReport f.report) port s))) := by
  unfold handAll; rw [h]; rfl

/-! ### The arrival -/

/-- The port record after a valid arrival that leaves it open. -/
theorem afterValid_open {r : PortRecord} {k score : Nat}
    (hs : (if scoreSkips r octets then min 255 (r.score + 4) else r.score - 1) = score)
    (h : conditionFor r.condition score ≠ .withdrawn) : r.afterValid k (frameOf octets) =
      { score := score, condition := conditionFor r.condition score, loss := false, neighbour := false
        last := some (octetAt octets 1, octetAt octets 2), report := some (frameOf octets).report
        spans := (frameOf octets).spans, holdSet := word32At octets 3, lossTimer := some k } := by
  unfold PortRecord.afterValid; dsimp only
  rw [scoreValid_eq, hs, if_neg h]; rfl

theorem slot_kind (octets : List Octet) : (frameOf octets).slot.kind = octetAt octets 50 := by
  simp [frameOf, messageOf, octetAt]

/-- An arrival with an empty slot, from the state after its port record and what that has moved at the sides. -/
theorem forward_empty {record : PortRecord} {d : Departure} {x : State}
    (hx : still x = still (setPort port record s)) (hempty : f.slot.kind = 0) (hopen : portBlocked record = false) :
    let hold := { s.hold with sets := s.hold.sets.set port record.holdSet }
    let t := settle (queueDeparture port.other d (handAll port f x))
    t.ports.get port = record ∧ t.ports.get port.other = s.ports.get port.other ∧
      t.hold = { hold with view := heldView { s with hold := hold } } ∧
      (t.tx.get port.other).transit = (if isAbsent t port.other then (s.tx.get port.other).transit
        else (s.tx.get port.other).transit ++ [d]) ∧
      (t.tx.get port.other).frameTimer = false ∧ t.tx.get port = s.tx.get port ∧
      t.position = s.position ∧ t.time = s.time ∧ t.lines = s.lines ∧ t.tab = s.tab ∧ t.scan = s.scan ∧
      t.loc = s.loc ∧ t.store = s.store ∧ t.pending = s.pending := by
  intro hold t
  let w := handAll port f x
  have hw : still w = still (reviewed (takenSet port (setPort port record s))) :=
    (handAll_still hempty x).trans (reviewed_congr (takenSet_congr hx))
  obtain ⟨w1, w2, w3, w4, w5, w6, w7, w8, w9, w10, w11, -, w13, -⟩ := still_fields hw
  have hv : queueDeparture port.other d w = { w with tx := departedTx false port.other d w } := queueDeparture_eq _ _ _
  have ht : t = settle { w with tx := departedTx false port.other d w } := congrArg settle hv
  obtain ⟨k1, k2, k3, k4, k5, k6, k7, k8, k9, k10, k11, -, k13, -⟩ :=
    settle_fields { w with tx := departedTx false port.other d w }
  rw [← ht] at k1 k2 k3 k4 k5 k6 k7 k8 k9 k10 k11 k13
  obtain ⟨hown, hother, htransit, htx⟩ := setPort_kept port record s
  have hset : takenSet port (setPort port record s) = { setPort port record s with hold := hold } := by
    unfold takenSet; rw [hown]; rfl
  have habsent : isAbsent t port.other = isAbsent w port.other := by unfold isAbsent; rw [ht, settle_side]
  refine ⟨?_, ?_, ?_, ?_, ?_, ?_, k2.trans w2, k3.trans w3, k4.trans w4, k7.trans w7, k8.trans w8, k10.trans w10,
    k11.trans w11, k13.trans w13⟩
  · exact (congrArg (Sides.get · port) (k5.trans w5)).trans hown
  · exact (congrArg (Sides.get · port.other) (k5.trans w5)).trans hother
  · refine (k9.trans w9).trans ?_
    rw [hset]; rfl
  · rw [k6, habsent]
    refine (departedTx_transit false _ d w).trans ?_
    rw [Bool.false_or, w6]
    exact congrArg (fun x => if isAbsent w port.other then x else x ++ [d]) htransit
  · rw [k6]
    refine (departedTx_frameTimer false _ d w).trans ?_
    rw [w6]
    show ((setPort port record s).tx.get port.other).frameTimer = false
    rw [setPort_tx, Sides.get_set, hopen]; rfl
  · rw [k6]
    exact (departedTx_other (Side.ne_other port) _ d w).trans ((congrArg (Sides.get · port) w6).trans htx)

/-- Settles O11: the record, the change of condition and the end of LOSS and NEIGHBOUR, the four things handed on, and
the forwarded departure. -/
theorem validArrivalEffect : Obligations.ValidArrivalEffect := by
  intro port octets ch s hp ha hk r f score condition record s1 s2 act hold hopen
  have hcond : condition = conditionFor r.condition score := (conditionFor_eq _ _).symm
  have hr1 : r.afterValid (lossThreshold (withChoices ch s)) f = record := by
    rw [afterValid_open (score := score) rfl (by rw [← hcond]; exact hopen), ← hcond]; rfl
  have hs2 : s2 = validCleared port record (withChoices ch s) := rfl
  have hexec : exec (.arrival port octets ch) s = .next (settle (queueDeparture port.other
      (.forwarded { f with slot := slotAfter (pos s) f.slot }) (handAll port f s2))) :=
by
    have htaken := validArrival_open (port := port) (s := withChoices ch s) hr1 hopen
    rw [← hs2] at htaken
    exact exec_settles (f := takeArrival port octets) rfl hp
      ((takeArrival_valid (s := withChoices ch s) ha hk).trans htaken)
  have hstill : still s2 = still (setPort port record (withChoices ch s)) := by
    rw [hs2]; exact validCleared_still port record (withChoices ch s)
  have hports : s2.ports.get port = record :=
    (congrArg (fun x : Still => x.ports.get port) hstill).trans (setPort_kept port record _).1
  have hfar : farView s2 port = some f.report := congrArg PortRecord.report hports
  have hhand : s2.choices.handOn = ch.handOn := congrArg Still.handOn hstill
  have hact (h : HandOn) (x : State) : handOne port f h x = act h x := by cases h <;> rfl
  refine ⟨conditionEvent_taken _ _ _ _, fun hclears => ?_, hexec, fun h => handAll_default (hhand.trans h),
    fun h1 h2 h3 h4 h hn => ?_, fun x hx => ?_, hfar, sideEvent_farReport port f.report s2 hfar, leadJudge_judged _,
    fun hslot => ?_⟩
  · have hcleared : s2 = sideEvent judgeDark port s1 := if_pos (Bool.or_eq_true_iff.2 hclears)
    rw [hcleared]; exact judgeDark_judged port s1
  · rw [handAll_nodup port f (hhand.trans h) (by rwa [h] at hn)]
    simp only [hact]
  · have htaken := takeHoldSet_recomputed port x
    rw [hx] at htaken; exact htaken
  · have hempty : f.slot.kind = 0 := (slot_kind octets).trans hslot
    have hblocked : portBlocked record = false := by
      show (false || condition == .withdrawn) = false
      rw [Bool.false_or, beq_eq_false_iff_ne]; exact hopen
    have hemptied : slotAfter (pos s) f.slot = emptySlot := (judgeSlot_empty (s := s) hempty).2
    rw [hemptied] at hexec
    exact ⟨_, hexec, forward_empty (s := withChoices ch s) hstill hempty hblocked⟩

end

end Sys2Proof.Machine
end

section
/-! STATUS-READ and SIDE-READ (R165, R166, R136). -/

namespace Sys2Proof.Machine

section
variable {s : State} {sd : Side} {req : Request} {page : Octet}

/-! ### STATUS-READ -/

theorem exec_statusRead (hp : s.powered = true) (hr : s.msg.resetPhase = .idle) : exec (.statusRead req) s =
    .next (settle (if req.len ≠ 1 then answer 1 req [4] (begun s)
      else if 3 < (octetAt req.body 0).toNat then answer 1 req [3] (begun s)
      else answer 1 req ([0, octetAt req.body 0] ++ statusPage (begun s) (octetAt req.body 0))
        { begun s with free := s.free + 2 })) := by
  refine exec_settles (f := fun t => reqStatusRead (taken t req) t) rfl hp ?_
  show reqStatusRead (taken s req) (withChoices Choices.default s) = _
  unfold reqStatusRead
  rw [judgePending_idle hr, taken_len, taken_body]
  split
  · exact reply_taken _ _ _ s _ rfl
  · split
    · exact reply_taken _ _ _ s _ rfl
    · exact reply_taken _ _ _ s _ rfl

theorem statusPage_drives (h : (octetAt req.body 0) = 3) : statusPage s (octetAt req.body 0) = driveOctets s (assigned s.tab) := by
  rw [h]; rfl

/-! ### SIDE-READ -/

theorem exec_sideRead (hp : s.powered = true) (hr : s.msg.resetPhase = .idle) : exec (.sideRead req) s =
    .next (settle (if req.len ≠ 2 then answer 2 req [4] (begun s)
      else match sideOf (octetAt req.body 0) with
      | none => answer 2 req [3] (begun s)
      | some sd =>
        if 7 < (octetAt req.body 1).toNat then answer 2 req [3] (begun s)
        else answer 2 req ([0, octetAt req.body 0, octetAt req.body 1] ++ sidePage (begun s) sd (octetAt req.body 1))
          { begun s with free := s.free + 11 })) := by
  refine exec_settles (f := fun t => reqSideRead (taken t req) t) rfl hp ?_
  show reqSideRead (taken s req) (withChoices Choices.default s) = _
  unfold reqSideRead
  rw [judgePending_idle hr, taken_len, taken_body]
  split
  · exact reply_taken _ _ _ s _ rfl
  · cases sideOf (octetAt req.body 0) with
    | none => exact reply_taken _ _ _ s _ rfl
    | some sd =>
      dsimp only
      split
      · exact reply_taken _ _ _ s _ rfl
      · exact reply_taken _ _ _ s _ rfl

theorem sideOf_some {o : Octet} {sd : Side} (h : sideOf o = some sd) : o.toNat ≤ 1 := by
  unfold sideOf at h
  by_cases h0 : o = 0
  · subst h0; decide
  · by_cases h1 : o = 1
    · subst h1; decide
    · rw [if_neg h0, if_neg h1] at h; exact absurd h (Option.some_ne_none sd).symm

theorem sidePage_failures (h3 : 3 ≤ page.toNat) (h6 : page.toNat ≤ 6) : sidePage s sd page =
    natOctet (s.side.get sd).failures.length :: failureOctets (s.side.get sd).failures page.toNat := by
  have hne (n : Octet) (hn : n.toNat < 3 ∨ 6 < n.toNat) : page ≠ n := fun e => by rw [e] at h3 h6; omega
  unfold sidePage
  rw [if_neg (hne 0 (by decide)), if_neg (hne 1 (by decide)), if_neg (hne 2 (by decide)), if_neg (hne 7 (by decide))]

theorem freeOctets_length (s : State) (n : Nat) : (freeOctets s n).length = n := by simp [freeOctets]

theorem armingSeconds_eq (s : State) (a : Arming) : ∃ left,
    (left = 10 - (s.time.uptime - a.since).toNat ∨ left = 11 - (s.time.uptime - a.since).toNat) ∧
      armingSeconds s a = natOctet (max 1 (min 10 left)) := by
  unfold armingSeconds; dsimp only
  split
  · exact ⟨_, Or.inr rfl, rfl⟩
  · exact ⟨_, Or.inl rfl, rfl⟩

theorem stepdownWaiting_eq (s : State) (sd : Side) : stepdownWaiting s sd =
    match s.pdu.stepdown.get sd with | some ⟨_, .timer _⟩ => true | _ => false := by
  unfold stepdownWaiting
  cases s.pdu.stepdown.get sd with
  | none => rfl
  | some d => obtain ⟨n, w⟩ := d; cases w <;> rfl

/-- Settles O26: the two reads by the branches of their rules, and their pages. -/
theorem statusAndSideReadsReturnPages : Obligations.StatusAndSideReadsReturnPages := by
  refine ⟨flagOctet_bit, by decide, by decide, ?_, ?_⟩
  · intro req s hp hr port
    rw [exec_statusRead hp hr]
    have hport (x : Side) (n : Nat) : portOctets (begun s) x n = port x (Config.absentOctet n) := rfl
    refine ⟨fun hl => by rw [if_pos hl], fun hl h3 => by rw [if_neg (not_not.2 hl), if_pos h3], fun hl h3 =>
      ⟨statusPage (begun s) (octetAt req.body 0), by rw [if_neg (not_not.2 hl), if_neg (Nat.not_lt.2 h3)], fun h => ?_,
        fun h => ?_, fun h => ?_, fun h => ?_⟩⟩
    · rw [h]; rfl
    · rw [h]; exact ⟨_, _, rfl⟩
    · rw [h]; rfl
    · rw [statusPage_drives h]; rfl
  · intro req sd s hp hr
    rw [exec_sideRead hp hr]
    refine ⟨fun hl => by rw [if_pos hl], fun hl h => ?_, fun hl ho h7 => ?_⟩
    · rw [if_neg (not_not.2 hl)]
      cases hs : sideOf (octetAt req.body 0) with
      | none => rfl
      | some x =>
        dsimp only
        rw [if_pos (h.resolve_left (Nat.not_lt.2 (sideOf_some hs)))]
    · refine ⟨sidePage (begun s) sd (octetAt req.body 1), ?_, fun h => ?_, fun h => ?_, fun h => ?_, fun h3 h6 => ?_,
        fun h => ?_⟩
      · rw [if_neg (not_not.2 hl), ho, sideOf_sideOctet]
        dsimp only
        rw [if_neg (Nat.not_lt.2 h7)]
      · have hwait := stepdownWaiting_eq s sd
        rw [h]
        show sidePage0 s sd = _
        unfold sidePage0 timerFlags; rw [hwait]; rfl
      · rw [h]; rfl
      · rw [h]
        refine ⟨advertOctets (begun s) (s.side.get sd).agree.far, armingOctets (begun s) (s.side.get sd).lock.arming, rfl,
          fun a ha => by rw [ha]; rfl, fun ha => ⟨freeOctets (begun s) 8, freeOctets_length _ _, by rw [ha]; rfl⟩,
          fun a ha => ?_, fun ha => ⟨(freeOctets (begun s) 11).drop 8, ?_, by rw [ha]; rfl⟩⟩
        · obtain ⟨left, hleft, hseconds⟩ := armingSeconds_eq (begun s) a
          exact ⟨left, hleft, by rw [ha, ← hseconds]; rfl⟩
        · rw [List.length_drop, freeOctets_length]
      · rw [sidePage_failures h3 h6]; rfl
      · rw [h]; rfl

end

end Sys2Proof.Machine
end

section
/-! An accepted ENTRY-WRITE (R35, R36, R28): the clearing of the flag with both sides at rest. -/

namespace Sys2Proof.Machine

section
variable {s t u : State} {sd : Side} {req : Request} {ch : Choices}

/-! ### Events of both sides at rest -/

theorem NoneActive.not_judged (h : NoneActive s) : stateOf s .east ∉ [.listen, .probe] := fun hm => by
  have := h .east
  simp only [List.mem_cons, List.not_mem_nil, or_false] at hm
  rcases hm with e | e <;> rw [e] at this <;> exact Bool.noConfusion this

/-- A change of one record that keeps an inactive state inactive. -/
def KeepsRest (g : SideRecord → SideRecord) : Prop := ∀ r : SideRecord, r.state.active = false → (g r).state.active = false

theorem NoneActive.modSide {g : SideRecord → SideRecord} (h : NoneActive s) (hg : KeepsRest g) (sd : Side) :
    NoneActive (modSide sd g s) := fun x => by
  unfold stateOf
  by_cases hx : x = sd
  · subst hx; rw [modSide_side, Sides.get_set]; exact hg _ (h x)
  · rw [modSide_side, Sides.get_set_ne _ _ _ _ hx]; exact h x

/-- Both sides with their records changed alike. -/
def modBoth (g : SideRecord → SideRecord) (s : State) : State := { s with side := ⟨g s.side.west, g s.side.east⟩ }

theorem modBoth_get (g : SideRecord → SideRecord) (s : State) (sd : Side) :
    (modBoth g s).side.get sd = g (s.side.get sd) := by cases sd <;> rfl

/-- An event that at rest changes its side's record alone reaches both records, and the lead judges nothing. -/
theorem bothSides_rest {f : Side → State → State} {g : SideRecord → SideRecord} (hg : KeepsRest g)
    (hf : ∀ sd x, still x = still s → NoneActive x → f sd x = modSide sd g x) (h : NoneActive s) :
    bothSides (sideEvent f) s = modBoth g s := by
  have hevent (sd : Side) {x : State} (hx : still x = still s) (hr : NoneActive x) :
      sideEvent f sd x = modSide sd g x := by
    rw [sideEvent_idle, hf sd x hx hr]
    rw [hf sd x hx hr]; exact (hr.modSide hg sd).not_judged
  unfold bothSides; split
  · rw [hevent .east rfl h, hevent .west (x := modSide .east g s) rfl (h.modSide hg .east)]; rfl
  · rw [hevent .west rfl h, hevent .east (x := modSide .west g s) rfl (h.modSide hg .west)]; rfl

/-- Hold-begun at a side at rest: DARK goes to HOLD. -/
def restHeld (r : SideRecord) : SideRecord := if r.state = .dark then r.held else r

/-- Hold-ended at a side at rest: HOLD goes to DARK. -/
def restDarkened (rest : Nat) (r : SideRecord) : SideRecord := if r.state = .hold then r.darkened r.reason rest else r

theorem restHeld_rest : KeepsRest restHeld := fun r h => by
  unfold restHeld; split
  · rfl
  · exact h

theorem restDarkened_rest (rest : Nat) : KeepsRest (restDarkened rest) := fun r h => by
  unfold restDarkened; split
  · rfl
  · exact h

theorem modSide_same {g : SideRecord → SideRecord} (h : g (s.side.get sd) = s.side.get sd) : modSide sd g s = s := by
  show { s with side := s.side.set sd (g (s.side.get sd)) } = s
  rw [h, Sides.set_get]

theorem modSide_congr {f g : SideRecord → SideRecord} (h : f (s.side.get sd) = g (s.side.get sd)) :
    modSide sd f s = modSide sd g s := by
  show { s with side := s.side.set sd (f (s.side.get sd)) } = { s with side := s.side.set sd (g (s.side.get sd)) }
  rw [h]

theorem holdBegun_rest (h : NoneActive s) (sd : Side) : holdBegun sd s = modSide sd restHeld s := by
  have ha := h sd
  by_cases hd : stateOf s sd = .dark
  · have hheld : restHeld (s.side.get sd) = (s.side.get sd).held := if_pos hd
    unfold holdBegun; rw [hd]; exact modSide_congr hheld.symm
  · have hkept : restHeld (s.side.get sd) = s.side.get sd := if_neg hd
    rw [modSide_same hkept]
    refine (holdBegun_taken sd s).2.2.2 fun hm => ?_
    simp only [List.mem_cons, List.not_mem_nil, or_false] at hm
    rcases hm with e | e | e | e | e | e
    · exact hd e
    all_goals rw [e] at ha; exact Bool.noConfusion ha

theorem not_mayListen_unflagged (hf : s.tab.validated = false) : ¬ MayListen sd s := fun hm => by
  obtain ⟨-, -, -, -, -, hv, -⟩ := hm
  rw [hf] at hv; exact Bool.noConfusion hv

theorem judgeDark_unflagged (hf : s.tab.validated = false) : judgeDark sd s = s :=
  judgeDark_stays (not_mayListen_unflagged hf)

theorem holdEnded_rest (hv : s.hold.view = 0) (hf : s.tab.validated = false) (sd : Side) :
    holdEnded sd s = modSide sd (restDarkened (tripRest s)) s := by
  obtain ⟨hhold, hdark, hother⟩ := holdEnded_taken sd s hv
  by_cases hh : stateOf s sd = .hold
  · have hrec : restDarkened (tripRest s) (s.side.get sd) = (s.side.get sd).darkened (s.side.get sd).reason (tripRest s) :=
      if_pos hh
    have hdarkened : enterDark sd (tripRest s) s = modSide sd (fun r => r.darkened r.reason (tripRest s)) s :=
      if_neg fun hc => hc.2 hv
    unfold holdEnded; rw [hh]; dsimp only
    rw [hdarkened, judgeDark_unflagged (s := modSide sd (fun r => r.darkened r.reason (tripRest s)) s) hf]
    exact modSide_congr hrec.symm
  · have hkept : restDarkened (tripRest s) (s.side.get sd) = s.side.get sd := if_neg hh
    rw [modSide_same hkept]
    by_cases hd : stateOf s sd = .dark
    · exact (hdark hd).1 (not_mayListen_unflagged hf)
    · exact hother (by simp [hh, hd])

/-- A recomputation of the view under the clear flag, both sides at rest. -/
theorem recomputeView_rest (h : NoneActive s) (hf : s.tab.validated = false) :
    ∃ g, recomputeView s = modBoth g (reviewed s) ∧ (∀ r, r.state ∉ [.dark, .hold] → g r = r) ∧
      ((s.hold.view = 0 ↔ heldView s = 0) → g = id) ∧ (s.hold.view = 0 → heldView s ≠ 0 → g = restHeld) := by
  by_cases h0 : s.hold.view = 0
  · by_cases h1 : heldView s = 0
    · refine ⟨id, ?_, fun _ _ => rfl, fun _ => rfl, fun _ hn => absurd h1 hn⟩
      rw [recomputeView_still_held ⟨fun _ => h1, fun _ => h0⟩]; rfl
    · refine ⟨restHeld, ?_, fun r hr => if_neg fun e => hr (by rw [e]; exact List.mem_cons_self), fun hi =>
        absurd (hi.1 h0) h1, fun _ _ => rfl⟩
      rw [recomputeView_begins h0 h1]
      exact bothSides_rest restHeld_rest (fun sd x _ hr => holdBegun_rest hr sd) h
  · by_cases h1 : heldView s = 0
    · refine ⟨restDarkened (tripRest s), ?_, fun r hr => if_neg fun e => hr (by rw [e]; simp), fun hi =>
        absurd (hi.2 h1) h0, fun h => absurd h h0⟩
      rw [recomputeView_ends h0 h1]
      refine bothSides_rest (restDarkened_rest _) (fun sd x hx _ => ?_) h
      have htab : x.tab = s.tab := congrArg Still.tab hx
      have hrest : tripRest x = tripRest s := by unfold tripRest; rw [htab]
      rw [holdEnded_rest ((congrArg (fun y : Still => y.hold.view) hx).trans h1) (by rw [htab]; exact hf) sd, hrest]
    · refine ⟨id, ?_, fun _ _ => rfl, fun _ => rfl, fun h => absurd h h0⟩
      rw [recomputeView_still_held ⟨fun e => absurd e h0, fun e => absurd e h1⟩]; rfl

/-! ### The clearing of the flag -/

theorem endDark_rest (held : Bool) (h : NoneActive s) (sd : Side) : endDark held sd s = s := by
  have hr : stateOf s sd ≠ .run := fun e => by
    have := h sd
    rw [e] at this; exact Bool.noConfusion this
  unfold endDark; split
  · exact sideEvent_to (if_neg hr) rfl
  · rfl

theorem clearFlag_rest (h : NoneActive s) (hf : s.tab.validated = true) : clearFlag s = recomputeView (unflagged s) := by
  have hu : NoneActive (unflagged s) := h
  rw [clearFlag_of_validated hf, endDark_rest _ hu, endDark_rest _ hu]

/-- The flag still set and cleared, both sides at rest: what is left of everything. -/
theorem clearFlag_at_rest (h : NoneActive s) (hf : s.tab.validated = true) :
    ∃ g, clearFlag s = modBoth g (reviewed (unflagged s)) ∧ (∀ r, r.state ∉ [.dark, .hold] → g r = r) ∧
      ((s.hold.view = 0 ↔ heldView (unflagged s) = 0) → g = id) ∧
      (s.hold.view = 0 → heldView (unflagged s) ≠ 0 → g = restHeld) := by
  rw [clearFlag_rest h hf]
  exact recomputeView_rest (s := unflagged s) h rfl

theorem heldView_unflagged (s : State) : heldView (unflagged s) =
    ((s.hold.sets.west ||| s.hold.sets.east) &&& ~~~((1 : PosSet) <<< pos s)) |||
      (if s.hold.own then (1 : PosSet) <<< pos s else 0) := by
  show (_ : PosSet) &&& obeySet (unflagged s) = _
  rw [show obeySet (unflagged s) = BitVec.allOnes 32 from rfl, BitVec.and_allOnes]; rfl

/-! ### The write -/

/-- A record as an accepted ENTRY-WRITE trims it (R36). -/
def trimmedBy (table : Octet) (entry : List Octet) (r : SideRecord) : SideRecord :=
  if table = 1 ∧ ¬ (r.state = .lockout ∧ r.reason = .budget) then
    { r with failures := trimFailures (octetAt entry 9).toNat r.failures }
  else r

theorem budgetHeld_iff (r : SideRecord) : r.budgetHeld = true ↔ r.state = .lockout ∧ r.reason = .budget := by
  simp [SideRecord.budgetHeld]

/-- The write of an entry, from the state after the clearing. -/
theorem acceptEntry_eq {table : Octet} {k : Nat} {entry : List Octet} (s : State) :
    acceptEntry table.toNat k entry s = modBoth (trimmedBy table entry)
      { clearFlag s with tab := { (clearFlag s).tab with tables := setEntry (clearFlag s).tab.tables table.toNat k entry } } := by
  by_cases h : table = 1
  · subst h
    have htrim : trimmedBy 1 entry = fun r : SideRecord => if r.budgetHeld then r
        else { r with failures := trimFailures (octetAt entry 9).toNat r.failures } := by
      funext r
      unfold trimmedBy
      by_cases hb : r.budgetHeld = true
      · rw [if_pos hb, if_neg fun hc => hc.2 ((budgetHeld_iff r).1 hb)]
      · rw [if_neg hb, if_pos ⟨rfl, fun hc => hb ((budgetHeld_iff r).2 hc)⟩]
    rw [htrim]
    rfl
  · have hkept : trimmedBy table entry = id := by
      funext r; exact if_neg fun hc => h hc.1
    have hn : table.toNat ≠ 1 := fun e => h (BitVec.eq_of_toNat_eq e)
    rw [hkept]
    exact if_neg hn

theorem acceptEntry_position (table : Octet) (k : Nat) (entry : List Octet) (s : State) :
    (acceptEntry table.toNat k entry s).position = s.position := by
  rw [acceptEntry_eq]; exact (clearFlag_fields s).2.1

theorem trimmedBy_keeps {α : Type} (p : SideRecord → α) (table : Octet) (entry : List Octet) (r : SideRecord)
    (h : ∀ (x : SideRecord) (l : List Word32), p { x with failures := l } = p x) : p (trimmedBy table entry r) = p r := by
  unfold trimmedBy; split
  · exact h r _
  · rfl

/-- What a write leaves of everything but the sides and the pumps. -/
theorem acceptEntry_keeps {table : Octet} {k : Nat} {entry : List Octet} (h : NoneActive s) :
    let u := acceptEntry table.toNat k entry s
    u.tab = { tables := setEntry s.tab.tables table.toNat k entry, validated := false, loadCheck := s.tab.loadCheck } ∧
      u.ports = s.ports ∧ u.tx = s.tx ∧ u.position = s.position ∧ u.time = s.time ∧ u.lines = s.lines ∧
      u.loc = s.loc ∧ u.store = s.store ∧ u.hold.sets = s.hold.sets ∧ u.hold.own = s.hold.own ∧
      u.hold.request = s.hold.request ∧ u.pdu.latch = s.pdu.latch ∧ u.scan.latest = s.scan.latest ∧
      u.msg = s.msg ∧ u.ctl = s.ctl := by
  intro u
  have hu : u = _ := acceptEntry_eq s
  obtain ⟨view, dark, hstill, -, -⟩ := clearFlag_of_still s
  have hmsg : (clearFlag s).msg = s.msg ∧ (clearFlag s).ctl = s.ctl := by
    cases hf : s.tab.validated with
    | false => rw [clearFlag_of_not_validated hf]; exact ⟨rfl, rfl⟩
    | true =>
      obtain ⟨g, hg, -⟩ := clearFlag_at_rest h hf
      rw [hg]; exact ⟨rfl, rfl⟩
  have htab : (clearFlag s).tab = { s.tab with validated := false } := congrArg Still.tab hstill
  refine ⟨?_, ?_, ?_, ?_, ?_, ?_, ?_, ?_, ?_, ?_, ?_, ?_, ?_, ?_, ?_⟩ <;> rw [hu]
  · show TableMem.mk (setEntry (clearFlag s).tab.tables _ _ _) (clearFlag s).tab.validated (clearFlag s).tab.loadCheck = _
    rw [htab]
  · exact congrArg Still.ports hstill
  · exact congrArg Still.tx hstill
  · exact congrArg Still.position hstill
  · exact congrArg Still.time hstill
  · exact congrArg Still.lines hstill
  · exact congrArg Still.loc hstill
  · exact congrArg Still.store hstill
  · exact congrArg (fun x : Still => x.hold.sets) hstill
  · exact congrArg (fun x : Still => x.hold.own) hstill
  · exact congrArg (fun x : Still => x.hold.request) hstill
  · exact congrArg Still.latch hstill
  · exact congrArg (fun x : Still => x.scan.latest) hstill
  · exact hmsg.1
  · exact hmsg.2

theorem acceptEntry_side {table : Octet} {k : Nat} {entry : List Octet} {g : SideRecord → SideRecord} {x : State}
    (h : clearFlag s = modBoth g x) (sd : Side) :
    (acceptEntry table.toNat k entry s).side.get sd = trimmedBy table entry (g (x.side.get sd)) := by
  rw [acceptEntry_eq, modBoth_get]
  show trimmedBy table entry ((clearFlag s).side.get sd) = _
  rw [h, modBoth_get]

/-- A side in DARK that the write takes to HOLD. -/
theorem trimmedBy_held {table : Octet} {entry : List Octet} {r : SideRecord} (h : r.state = .dark) :
    let q := trimmedBy table entry r.held
    q.state = .hold ∧ q.reason = .hold ∧ q.retry = none ∧ q.failures = (trimmedBy table entry r).failures ∧
      q.lock = r.lock := by
  refine ⟨trimmedBy_keeps SideRecord.state _ _ _ fun _ _ => rfl, trimmedBy_keeps SideRecord.reason _ _ _ fun _ _ => rfl,
    trimmedBy_keeps SideRecord.retry _ _ _ fun _ _ => rfl, ?_, trimmedBy_keeps SideRecord.lock _ _ _ fun _ _ => rfl⟩
  unfold trimmedBy
  rw [show r.held.state = .hold from rfl, h]
  by_cases ht : table = 1
  · rw [if_pos ⟨ht, by simp⟩, if_pos ⟨ht, by simp⟩]; rfl
  · rw [if_neg fun hc => ht hc.1, if_neg fun hc => ht hc.1]; rfl

theorem exec_entryWrite_accepts (hacc : Accepted s req) (hlocks : s.ctl.op.locksTables = false)
    (hactive : eitherActive s = false) (hexists : entryExists (octetAt req.body 0) (octetAt req.body 1) = true)
    (hlen : req.len.toNat = 2 + entrySize (octetAt req.body 0))
    (hbad : firstBadField (octetAt req.body 0).toNat (writtenEntry req) = none) : exec (.entryWrite req ch) s =
      .next (settle (answer 5 req [0, octetAt req.body 0, octetAt req.body 1, 0]
        (acceptEntry (octetAt req.body 0).toNat (octetAt req.body 1).toNat (writtenEntry req) (withChoices ch s)))) := by
  rw [exec_entryWrite hacc]
  unfold judgeEntry
  simp only [taken_body, taken_len, withChoices_ctl, withChoices_eitherActive, writtenEntry_taken]
  rw [if_neg (by rw [hlocks]; decide), if_neg (by rw [hactive]; decide), if_neg (by rw [hexists]; decide),
    if_neg (not_not.2 hlen), hbad]
  dsimp only
  rw [writeBody_taken, reply_taken _ _ _ s _ (acceptEntry_position _ _ _ (withChoices ch s))]; rfl

/-- Settles O30: the flag clear before, and the flag that the write clears with both sides at rest. -/
theorem entryWriteReplacesEntry : Obligations.EntryWriteReplacesEntry := by
  intro req ch s hacc table index entry hlocks hactive hexists hlen hbad trimmed bit view
  have hrest : NoneActive (withChoices ch s) := noneActive_of_eitherActive (s := s) (by rw [hactive]; exact Bool.false_ne_true)
  have hexec := exec_entryWrite_accepts (ch := ch) hacc hlocks hactive hexists hlen hbad
  obtain ⟨u1, u2, u3, u4, u5, u6, u7, u8, u9, u10, u11, u12, u13, u14, u15⟩ :=
    acceptEntry_keeps (table := table) (k := index.toNat) (entry := entry) hrest
  have heq := acceptEntry_eq (table := table) (k := index.toNat) (entry := entry) (withChoices ch s)
  refine ⟨acceptEntry table.toNat index.toNat entry (withChoices ch s), hexec, u1, u2, u3, u4, u5, u6, u7, u8, u9, u10, u11,
    u12, u13, u14, u15, fun hf => ?_, fun hf => ?_⟩
  · have hclear : clearFlag (withChoices ch s) = modBoth id (withChoices ch s) := clearFlag_of_not_validated hf
    refine ⟨?_, ?_, ?_, fun sd => acceptEntry_side hclear sd⟩
    all_goals rw [heq, hclear]; rfl
  · obtain ⟨g, hclear, hkept, hid, hheld⟩ := clearFlag_at_rest (s := withChoices ch s) hrest hf
    have hview : heldView (unflagged (withChoices ch s)) = view := heldView_unflagged (withChoices ch s)
    have hside (sd : Side) := acceptEntry_side (table := table) (k := index.toNat) (entry := entry) hclear sd
    rw [hview] at hid hheld
    refine ⟨?_, fun n hn => ?_, ?_, fun sd h0 h1 hs => ?_, fun sd hs => ?_⟩
    · rw [heq, hclear]; exact congrArg (fun v => { s.hold with view := v }) hview
    · rw [heq]; exact clearFlag_dark (s := withChoices ch s) hf n hn
    · rw [heq, hclear]; rfl
    · have hdark : g (s.side.get sd) = (s.side.get sd).held := by rw [hheld h0 h1]; exact if_pos hs
      unfold stateOf
      rw [(hside sd).trans (congrArg (trimmedBy table entry) hdark)]
      exact trimmedBy_held hs
    · have hsame : g (s.side.get sd) = s.side.get sd := by
        rcases hs with h | h
        · rw [hid h]; rfl
        · exact hkept _ h
      exact (hside sd).trans (congrArg (trimmedBy table entry) hsame)

end

end Sys2Proof.Machine
end

section
/-! The end of a stepdown step (R118 to R120, R176) and the extinction fault (R129, R130, R78). -/

namespace Sys2Proof.Machine

section
variable {s t u : State} {sd : Side} {n : Nat} {ch : Choices} {f : Side → State → State}

/-! ### The end of a stepdown step -/

/-- The pump of the next lower order. -/
def nextDown (s : State) (sd : Side) (n : Nat) : Option Nat :=
  (pumpsDown s.tab sd).find? fun k => decide ((planOf s.tab k).order < (planOf s.tab n).order)

theorem nextDown_none (h : ∀ k ∈ pumpsDown s.tab sd, (planOf s.tab n).order ≤ (planOf s.tab k).order) :
    nextDown s sd n = none :=
  List.find?_eq_none.2 fun k hk => by simpa using h k hk

theorem nextStepdown_steps {k : Nat} (h : nextDown s sd n = some k) : nextStepdown sd n s = beginStepdown sd k s := by
  unfold nextDown at h
  unfold nextStepdown; rw [h]

theorem nextStepdown_completes (h : nextDown s sd n = none) (hs : stateOf s sd = .stepdown) :
    nextStepdown sd n s = enterLockout sd .ordered .ordered (setStepdown sd none s) := by
  unfold nextDown at h
  unfold nextStepdown; rw [h]
  exact completeStepdown_locks hs

theorem beginStepdown_stateOf (sd : Side) (k : Nat) (s : State) : stateOf (beginStepdown sd k s) sd = stateOf s sd := by
  unfold stateOf; rw [(beginStepdown_elsewhere sd k s).1, Sides.get_set]

/-- An event by which the stepdown step of a side ends. -/
theorem sideEvent_stepEnds (hf : f sd s = nextStepdown sd n s) (hs : stateOf s sd = .stepdown) :
    StepdownStepEnded True s.choices sd n s (sideEvent f sd s) := by
  refine ⟨fun k hk => ?_, fun hlast => ?_⟩
  · have hstep : sideEvent f sd s = beginStepdown sd k s :=
      sideEvent_to (hf.trans (nextStepdown_steps hk)) (beginStepdown_stateOf sd k s)
    obtain ⟨hside, hmsg, hctl⟩ := beginStepdown_elsewhere sd k s
    obtain ⟨htimed, hchecked⟩ := beginStepdown_waits sd k s
    rw [hstep]
    exact ⟨(beginStepdown_stateOf sd k s).trans hs, by rw [hside, Sides.get_set], beginStepdown_dark sd k s, htimed,
      hchecked, fun _ => ⟨.none hctl, .none hmsg⟩⟩
  · have hlock := hf.trans (nextStepdown_completes (nextDown_none hlast) hs)
    have hstays : stateOf s sd ≠ .absent := by rw [hs]; decide
    have hlocks := sideEvent_locks_changed (f := f) (v := setStepdown sd none s) (r := s.side.get sd) hlock rfl
      (Sides.set_get _ _).symm rfl rfl rfl rfl rfl hstays hstays
    have hlit : (stateOf (setStepdown sd none s) sd).lights = true := by
      rw [show stateOf (setStepdown sd none s) sd = .stepdown from hs]; rfl
    have htab : (f sd s).tab = s.tab := by
      rw [hlock]; exact congrArg Still.tab (enterLockout_still sd _ _ (setStepdown sd none s))
    obtain ⟨hdark, hstep⟩ := sideEvent_pumps f sd s htab
    obtain ⟨hreason, hlockrec⟩ := hlocks.lock
    refine ⟨hlocks.stateOf_eq, hreason, ?_, hlockrec, fun k hk => hdark k hk ?_, fun _ => ?_⟩
    · rw [hstep, hlock]; exact enterLockout_stepdown sd _ _ _ hlit
    · rw [hlock]; exact enterLockout_dark sd _ _ (setStepdown sd none s) hlit hk
    · have hhands := hlocks.hands
      rw [show (s.side.get sd).state = .stepdown from hs] at hhands
      exact hhands

theorem StepdownStepEnded.settle {alone : Prop} (h : StepdownStepEnded alone ch sd n s t) :
    StepdownStepEnded alone ch sd n s (settle t) := by
  unfold StepdownStepEnded at *
  rw [settle_stateOf, settle_side, settle_pdu]
  exact ⟨fun k hk => by
      obtain ⟨h1, h2, h3, h4, h5, h6⟩ := h.1 k hk
      exact ⟨h1, h2, h3, h4, h5, fun ha => ⟨(h6 ha).1.settle, (h6 ha).2.settle⟩⟩,
    fun hl => by
      obtain ⟨h1, h2, h3, h4, h5, h6⟩ := h.2 hl
      exact ⟨h1, h2, h3, h4, h5, fun ha => (h6 ha).settle⟩⟩

theorem stepdownWaited_idle (h : ∀ n ms, s.pdu.stepdown.get sd ≠ some ⟨n, .timer ms⟩) : stepdownWaited sd s = s := by
  unfold stepdownWaited
  cases hd : s.pdu.stepdown.get sd with
  | none => rfl
  | some d =>
    obtain ⟨n, w⟩ := d
    cases w with
    | timer ms => exact absurd hd (h n ms)
    | checks l => rfl

theorem stepdownWaited_ends {ms : Nat} (h : s.pdu.stepdown.get sd = some ⟨n, .timer ms⟩) :
    stepdownWaited sd s = nextStepdown sd n s := by unfold stepdownWaited; rw [h]

/-- Settles O51: an idle timer, and the end of the step. -/
theorem stepdownWaitEndsStep : Obligations.StepdownWaitEndsStep := by
  intro sd ch s hp
  refine ⟨fun h => ?_, fun n ms h hs => ?_⟩
  · exact exec_settles (f := sideEvent stepdownWaited sd) rfl hp
      (sideEvent_to (stepdownWaited_idle (s := withChoices ch s) h) rfl)
  · have hended := sideEvent_stepEnds (s := withChoices ch s) (stepdownWaited_ends (s := withChoices ch s) h) hs
    have hstill : still (sideEvent stepdownWaited sd (withChoices ch s)) = still (withChoices ch s) :=
      sideEvent_still _ stepdownWaited_still _ _
    obtain ⟨hlines, hhold⟩ := lines_hold_of_still hstill
    refine ⟨_, exec_settles (f := sideEvent stepdownWaited sd) rfl hp rfl, hended.settle,
      SameOutside.settle (s := withChoices ch s) (.of_still hstill), hhold, hlines, fun k hk => ?_⟩
    exact (settle_msg _).trans ((hended.1 k hk).2.2.2.2.2 trivial).2

/-! ### The extinction fault -/

theorem zeroPumps_of_dark (tab : TableMem) (l : List Nat) {v : PumpUnit} (h : ∀ n, driveOf v n = 0) : zeroPumps tab l v = v := by
  have hchain (d k : Nat) : zeroChain tab d k v = v := by
    cases d with
    | zero => exact if_pos (h k)
    | succ d =>
      have hnone : dependents tab k v = [] := by unfold dependents; simp [h]
      unfold zeroChain; rw [hnone]; exact if_pos (h k)
  induction l with
  | nil => rfl
  | cons k l ih => exact (congrArg (zeroPumps tab l) (hchain 8 k)).trans ih

/-- The Pump Drive Unit after the site cut: every channel dark, both sequences idle. -/
structure SiteCut (v : PumpUnit) : Prop where
  dark : ∀ n, driveOf v n = 0
  idle : v.stepdown = ⟨none, none⟩

theorem SiteCut.cut (v : PumpUnit) : SiteCut v.cut :=
  ⟨fun n => by
    show (List.replicate 8 (0 : Word16)).getD n 0 = 0
    rw [List.getD_eq_getElem?_getD, List.getElem?_replicate]
    split <;> rfl, rfl⟩

theorem SiteCut.immediateCut (h : SiteCut s.pdu) (sd : Side) : (immediateCut sd s).pdu = s.pdu := by
  show { zeroPumps s.tab (pumpsDown s.tab sd) s.pdu with
    stepdown := (zeroPumps s.tab (pumpsDown s.tab sd) s.pdu).stepdown.set sd none } = s.pdu
  rw [zeroPumps_of_dark _ _ h.dark, h.idle]
  have hset : (⟨none, none⟩ : Sides (Option Stepdown)).set sd none = s.pdu.stepdown := by
    rw [h.idle]; cases sd <;> rfl
  rw [hset]

theorem SiteCut.enterLockout (h : SiteCut s.pdu) (sd : Side) (c r : Cause) : (enterLockout sd c r s).pdu = s.pdu := by
  unfold Machine.enterLockout; dsimp only
  rw [sideNotice_pdu, queueRecord_pdu]
  split
  · rw [queueRecord_pdu]; exact SiteCut.immediateCut (s := modSide sd (SideRecord.lockedOut c) s) h sd
  · rfl

theorem newLockout_pdu (sd : Side) (c : Cause) (s : State) : (newLockout sd c s).pdu = s.pdu := by
  unfold newLockout; dsimp only; rw [sideNotice_pdu, queueRecord_pdu]; rfl

theorem cutEvent_absent (h : isAbsent s sd = true) : cutEvent sd s = s := by
  unfold cutEvent; rw [(isAbsent_eq_true_iff s sd).1 h]

theorem cutEvent_locked (h : stateOf s sd = .lockout) : cutEvent sd s = newLockout sd .cut s := by
  unfold cutEvent; rw [h]

theorem cutEvent_locks (h : stateOf s sd ≠ .lockout) (ha : isAbsent s sd = false) :
    cutEvent sd s = enterLockout sd .cut .cut s := by
  have habsent := present_of ha
  unfold cutEvent
  cases hs : stateOf s sd
  case lockout => exact absurd hs h
  case absent => exact absurd hs habsent
  all_goals rfl

theorem SiteCut.cutEvent (h : SiteCut s.pdu) (sd : Side) : (cutEvent sd s).pdu = s.pdu := by
  cases ha : isAbsent s sd with
  | true => rw [cutEvent_absent ha]
  | false =>
    by_cases hl : stateOf s sd = .lockout
    · rw [cutEvent_locked hl, newLockout_pdu]
    · rw [cutEvent_locks hl ha]; exact h.enterLockout sd _ _

/-- The record of a side after the cut event (R78). -/
theorem cutEvent_own (ha : isAbsent s sd = false) :
    let r := (cutEvent sd s).side.get sd
    r.state = .lockout ∧ r.reason = .cut ∧ r.failures = (s.side.get sd).failures ∧
      r.lock = { locked := true, reason := .cut, count := (s.side.get sd).lock.count + 1, arming := none } := by
  intro r
  by_cases hl : stateOf s sd = .lockout
  · have hr : r = _ := (congrArg (fun x : State => x.side.get sd) (cutEvent_locked hl)).trans (newLockout_own sd .cut s)
    rw [hr]; exact ⟨hl, rfl, rfl, rfl⟩
  · have hr : r = _ := (congrArg (fun x : State => x.side.get sd) (cutEvent_locks hl ha)).trans
      (enterLockout_own sd .cut .cut s)
    rw [hr]; exact ⟨rfl, rfl, rfl, rfl⟩

theorem cutEvent_stays (sd : Side) (s : State) (x : Side) : isAbsent (cutEvent sd s) x = isAbsent s x := by
  cases ha : isAbsent s sd with
  | true => rw [cutEvent_absent ha]
  | false =>
    refine isAbsent_of (cutEvent_other sd s) (present_of ha) ?_ x
    unfold stateOf; rw [(cutEvent_own ha).1]; decide

/-- The records a side hands on at the cut event (R76, R77). -/
def cutRecords (s t : State) (sd : Side) : List StoreRecord :=
  (if (stateOf s sd).lights then [tripRecordAt sd .cut (stateOf s sd) t] else []) ++ [lockedRecord sd .cut s]

theorem cutRecords_congr {v : State} (hs : u.side.get sd = s.side.get sd) (ht : still v = still t) :
    cutRecords u v sd = cutRecords s t sd := by
  unfold cutRecords lockedRecord stateOf; rw [hs, tripRecordAt_still ht]

theorem newLockout_handsOn (sd : Side) (s : State) :
    RecordsHanded s.choices [lockedRecord sd .cut s] s (newLockout sd .cut s) ∧
      NoticesMade [⟨114, some sd, .cut, .lockout⟩] s (newLockout sd .cut s) := by
  let x := modSide sd (fun r => { r with reason := .cut, lock := r.lock.entered .cut }) s
  have hrecord : lockRecordOf sd x = lockedRecord sd .cut s := by
    unfold lockRecordOf; rw [show x.side.get sd = _ from Sides.get_set _ _ _]; rfl
  have habsent (y : Side) : isAbsent (queueRecord (lockRecordOf sd x) x) y = isAbsent s y := by
    have hstate (z : Side) : stateOf (queueRecord (lockRecordOf sd x) x) z = stateOf s z := by
      unfold stateOf; rw [queueRecord_side]; exact modSide_stateOf (s := s) rfl z
    unfold isAbsent; exact congrArg (· == SideState.absent) (hstate y)
  have hhanded := RecordsHanded.first (s := s) (u := x) (lockRecordOf sd x) rfl rfl rfl rfl rfl
  have hmade : NoticesMade [] s (queueRecord (lockRecordOf sd x) x) := .none (queueRecord_msg _ _)
  rw [hrecord] at hhanded hmade habsent
  have hlockout : newLockout sd .cut s = sideNotice 114 sd .cut .lockout (queueRecord (lockedRecord sd .cut s) x) := by
    rw [← hrecord]; rfl
  rw [hlockout]
  exact ⟨hhanded.to rfl, hmade.next 114 sd .cut .lockout (congrArg Still.position (queueRecord_still _ _)) habsent⟩

theorem cutEvent_handsOn (ha : isAbsent s sd = false) :
    RecordsHanded s.choices (cutRecords s (cutEvent sd s) sd) s (cutEvent sd s) ∧
      NoticesMade [⟨114, some sd, .cut, .lockout⟩] s (cutEvent sd s) := by
  by_cases hl : stateOf s sd = .lockout
  · have hrecords : cutRecords s (cutEvent sd s) sd = [lockedRecord sd .cut s] := by
      unfold cutRecords; rw [hl]; rfl
    rw [hrecords, cutEvent_locked hl]; exact newLockout_handsOn sd s
  · rw [cutEvent_locks hl ha]
    exact enterLockout_handsOn (before := []) .cut .cut rfl rfl rfl rfl rfl (fun _ => rfl) rfl (.none rfl) (present_of ha)

/-- What a cut event adds to what the site cut, or a side before, has handed on. -/
theorem cutEvent_adds {l : List StoreRecord} {m : List Made} {u : State} (hl : l ≠ [])
    (hrec : RecordsHanded ch l s u) (hnot : NoticesMade m s u) (ht : u.time = s.time) (hp : u.position = s.position)
    (htab : u.tab = s.tab) (ha : ∀ x, isAbsent u x = isAbsent s x) (sd : Side) :
    RecordsHanded ch (l ++ if isAbsent u sd then [] else cutRecords u (cutEvent sd u) sd) s (cutEvent sd u) ∧
      NoticesMade (m ++ if isAbsent u sd then [] else [⟨114, some sd, .cut, .lockout⟩]) s (cutEvent sd u) := by
  cases hs : isAbsent u sd with
  | true =>
    rw [cutEvent_absent hs, if_pos rfl, if_pos rfl, List.append_nil, List.append_nil]; exact ⟨hrec, hnot⟩
  | false =>
    rw [if_neg Bool.false_ne_true, if_neg Bool.false_ne_true]
    obtain ⟨hrec', hnot'⟩ := cutEvent_handsOn hs
    exact ⟨hrec.append hrec' (fun e => absurd e hl) ht hp htab, hnot.append hnot' hp ha⟩

/-- The sides that take the cut event, in turn. -/
def cutOrder (s : State) (x : Side) : List Side := [x, x.other].filter fun sd => !isAbsent s sd

theorem cutOrder_flatMap {α : Type} (g : Side → List α) (s : State) (x : Side) : (cutOrder s x).flatMap g =
    (if isAbsent s x then [] else g x) ++ (if isAbsent s x.other then [] else g x.other) := by
  unfold cutOrder
  cases hx : isAbsent s x <;> cases hy : isAbsent s x.other <;> simp [hx, hy]

/-- The cut events of both sides, `x` first, after what the site cut has handed on. -/
theorem cutEvents_hand {l : List StoreRecord} {m : List Made} (hl : l ≠ []) (hrec : RecordsHanded ch l s u)
    (hnot : NoticesMade m s u) (ht : u.time = s.time) (hp : u.position = s.position) (htab : u.tab = s.tab)
    (hside : u.side = s.side) (x : Side) :
    let t := cutEvent x.other (cutEvent x u)
    RecordsHanded ch (l ++ (cutOrder s x).flatMap (cutRecords s t)) s t ∧
      NoticesMade (m ++ (cutOrder s x).map fun sd => ⟨114, some sd, .cut, .lockout⟩) s t := by
  intro t
  have habs (y : Side) : isAbsent u y = isAbsent s y := by unfold isAbsent; rw [hside]
  have hw : still (cutEvent x u) = still u := cutEvent_still x u
  have hlast : still t = still (cutEvent x u) := cutEvent_still x.other (cutEvent x u)
  have hother : (cutEvent x u).side.get x.other = s.side.get x.other := (cutEvent_other x u).trans (by rw [hside])
  obtain ⟨hrec1, hnot1⟩ := cutEvent_adds hl hrec hnot ht hp htab habs x
  obtain ⟨hrec2, hnot2⟩ := cutEvent_adds (u := cutEvent x u) (fun e => hl (List.append_eq_nil_iff.1 e).1) hrec1 hnot1
    ((congrArg Still.time hw).trans ht) ((congrArg Still.position hw).trans hp) ((congrArg Still.tab hw).trans htab)
    (fun y => (cutEvent_stays x u y).trans (habs y)) x.other
  rw [habs, cutEvent_stays, habs, List.append_assoc] at hrec2 hnot2
  rw [List.map_eq_flatMap, cutOrder_flatMap, cutOrder_flatMap,
    ← cutRecords_congr (s := s) (u := u) (v := cutEvent x u) (by rw [hside]) hlast.symm,
    ← cutRecords_congr (s := s) (u := cutEvent x u) (v := t) (t := t) hother rfl]
  exact ⟨hrec2, hnot2⟩

/-- What both cut events leave of a side. -/
theorem cutEvents_side (x sd : Side) (s : State) :
    let t := cutEvent x.other (cutEvent x s)
    (isAbsent s sd = true → t.side.get sd = s.side.get sd) ∧
    (isAbsent s sd = false → stateOf t sd = .lockout ∧ (t.side.get sd).reason = .cut ∧
      (t.side.get sd).failures = (s.side.get sd).failures ∧
      (t.side.get sd).lock =
        { locked := true, reason := .cut, count := (s.side.get sd).lock.count + 1, arming := none }) := by
  intro t
  have hfirst : t.side.get x = (cutEvent x s).side.get x := by
    have := cutEvent_other x.other (cutEvent x s)
    rwa [show x.other.other = x by cases x <;> rfl] at this
  by_cases hx : sd = x
  · subst hx
    unfold stateOf; rw [hfirst]
    exact ⟨fun ha => by rw [cutEvent_absent ha], fun ha => cutEvent_own ha⟩
  · have hsd : sd = x.other := by
      cases sd with
      | west => cases x with
        | west => exact absurd rfl hx
        | east => rfl
      | east => cases x with
        | west => rfl
        | east => exact absurd rfl hx
    subst hsd
    have hkept : (cutEvent x s).side.get x.other = s.side.get x.other := cutEvent_other x s
    have habs : isAbsent (cutEvent x s) x.other = isAbsent s x.other := cutEvent_stays x s x.other
    refine ⟨fun ha => ?_, fun ha => ?_⟩
    · rw [show t = cutEvent x s from cutEvent_absent (habs.trans ha), hkept]
    · have hown := cutEvent_own (habs.trans ha)
      rw [hkept] at hown; exact hown

/-- The state after the site cut, before the cut events of the sides. -/
def siteCut (own : Word16) (s : State) : State :=
  sendNotice 115 255 0 .cut .lockout
    (queueRecord (.trip (siteCutRecord own s.hold.view)) (onPdu PumpUnit.cut (nextFree s)))

theorem extinctionFault_cuts {c : Check} (h : checkOf s.pdu n = some c) :
    extinctionFault n s = bothSides cutEvent (siteCut (c.last.getD (Config.unjudgedReading s.free)) s) := by
  unfold extinctionFault; rw [h]; rfl

theorem siteCut_still (own : Word16) (s : State) : still (siteCut own s) =
    still (onPdu PumpUnit.cut (nextFree s)) := by
  unfold siteCut; rw [sendNotice_still, queueRecord_still]

theorem siteCut_pdu (own : Word16) (s : State) : (siteCut own s).pdu = s.pdu.cut := by
  show (queueRecord _ _).pdu = _
  rw [queueRecord_pdu]; rfl

theorem siteCut_side (own : Word16) (s : State) : (siteCut own s).side = s.side := by
  unfold siteCut; rw [sendNotice_side, queueRecord_side]; rfl

theorem siteCut_hands (own : Word16) (s : State) :
    RecordsHanded s.choices [.trip (siteCutRecord own s.hold.view)] s (siteCut own s) ∧
      NoticesMade [⟨115, none, .cut, .lockout⟩] s (siteCut own s) := by
  let x := onPdu PumpUnit.cut (nextFree s)
  let r : StoreRecord := .trip (siteCutRecord own s.hold.view)
  have hrec : RecordsHanded s.choices [r] s (queueRecord r x) := RecordsHanded.first r rfl rfl rfl rfl rfl
  refine ⟨hrec.to rfl, ?_⟩
  have hmsg : (queueRecord r x).msg = s.msg := queueRecord_msg r x
  have hside : (queueRecord r x).side = s.side := queueRecord_side r x
  have hpos : (queueRecord r x).position = s.position := congrArg Still.position (queueRecord_still r x)
  show postNotice (isAbsent (queueRecord r x) .west) (isAbsent (queueRecord r x) .east)
    (makeMessage 115 255 (posOctet (queueRecord r x)) (queueRecord r x).msg.noticeNumber [255, 0, causeCode .cut,
      SideState.lockout.code]) (queueRecord r x).msg = _
  have habs (y : Side) : isAbsent (queueRecord r x) y = isAbsent s y := by unfold isAbsent; rw [hside]
  have hoctet : posOctet (queueRecord r x) = posOctet s := by
    unfold posOctet; rw [hpos]
  rw [habs, habs, hoctet, hmsg]; rfl

/-- Settles O50: an idle check, and the site cut with the cut events of both sides after it. -/
theorem extinctionFaultCutsSite : Obligations.ExtinctionFaultCutsSite := by
  intro n ch s hp
  refine ⟨fun h => ?_, ?_⟩
  · refine exec_settles (f := extinctionFault n.val) rfl hp ?_
    unfold extinctionFault; rw [show checkOf (withChoices ch s).pdu n.val = none from h]
  intro order hc
  obtain ⟨c, hc⟩ := Option.ne_none_iff_exists'.1 hc
  let s0 := withChoices ch s
  let own := c.last.getD (Config.unjudgedReading s.free)
  let x : Side := if ch.eastFirst then .east else .west
  let u := siteCut own s0
  let t := cutEvent x.other (cutEvent x u)
  have hxorder : cutOrder s x = order := by
    have hboth : [x, x.other] = if ch.eastFirst then [Side.east, .west] else [.west, .east] := by
      show [if ch.eastFirst then Side.east else .west, (if ch.eastFirst then Side.east else .west).other] = _
      cases ch.eastFirst <;> rfl
    unfold cutOrder; rw [hboth]
  have hboth : bothSides cutEvent u = t := by
    have hfirst : u.choices.eastFirst = ch.eastFirst := congrArg Still.eastFirst (siteCut_still own s0)
    show (if u.choices.eastFirst then _ else _) = cutEvent (if ch.eastFirst then Side.east else .west).other
      (cutEvent (if ch.eastFirst then .east else .west) u)
    rw [hfirst]; cases ch.eastFirst <;> rfl
  have hexec : exec (.extinctionFault n ch) s = .next (settle t) :=
    exec_settles (f := extinctionFault n.val) rfl hp ((extinctionFault_cuts (s := s0) hc).trans hboth)
  have hcut : SiteCut u.pdu := by rw [siteCut_pdu]; exact SiteCut.cut _
  have hpdu : t.pdu = s.pdu.cut := by
    have hfirst := SiteCut.cutEvent (s := u) hcut x
    have hsecond := SiteCut.cutEvent (s := cutEvent x u) (by rw [hfirst]; exact hcut) x.other
    exact (hsecond.trans hfirst).trans (siteCut_pdu own s0)
  have hstill : still t = still (onPdu PumpUnit.cut (nextFree s0)) :=
    ((cutEvent_still _ _).trans (cutEvent_still _ _)).trans (siteCut_still own s0)
  obtain ⟨-, k2, k3, k4, k5, k6, k7, k8, k9, k10, k11, -, k13, -⟩ := settle_fields t
  obtain ⟨-, h2, h3, h4, h5, h6, h7, h8, h9, h10, h11, -, h13, -⟩ := still_fields hstill
  obtain ⟨hrec, hnot⟩ := siteCut_hands own s0
  have hu := siteCut_still own s0
  have hside := siteCut_side own s0
  obtain ⟨hrecs, hnots⟩ := cutEvents_hand (s := s0) (u := u) (List.cons_ne_nil _ _) hrec hnot (congrArg Still.time hu)
    (congrArg Still.position hu) (congrArg Still.tab hu) hside x
  rw [show cutOrder s0 x = order from hxorder] at hrecs hnots
  have hpdu' : (settle t).pdu = s.pdu.cut := (settle_pdu t).trans hpdu
  have habs (sd : Side) : isAbsent u sd = isAbsent s sd := by unfold isAbsent; rw [hside]; rfl
  refine ⟨settle t, hexec, by rw [hpdu']; rfl, by unfold cutAsserted; rw [hpdu']; rfl, by rw [hpdu']; rfl,
    by rw [hpdu']; rfl, by rw [hpdu']; rfl, fun sd ha => ?_, fun sd ha => ?_, ⟨own, fun c' v hc' hv => ?_, ?_⟩,
    hnots.settle, k5.trans h5, k6.trans h6, k7.trans h7, k8.trans h8, k9.trans h9, k10.trans h10, k11.trans h11,
    k3.trans h3, k4.trans h4, k2.trans h2, k13.trans h13⟩
  · rw [settle_side, (cutEvents_side x sd u).1 ((habs sd).trans ha), hside]; rfl
  · have hlocked := (cutEvents_side x sd u).2 ((habs sd).trans ha)
    rw [hside] at hlocked
    rw [settle_stateOf, settle_side]; exact hlocked
  · have hsame : c = c' := Option.some.inj (hc.symm.trans hc')
    show c.last.getD _ = v
    rw [hsame, hv]; rfl
  · have hrecords (sd : Side) : cutRecords s (settle t) sd = cutRecords s0 t sd := by
      unfold cutRecords; rw [tripRecordAt_settle]; rfl
    show RecordsHanded ch (_ :: order.flatMap (cutRecords s (settle t))) s (settle t)
    rw [funext hrecords]
    exact hrecs.settle

end

end Sys2Proof.Machine
end

section
/-! The Store Controller's writes and reads as they complete (R188, R189, R191, R192): the image of a commit, the
completed form of a record, and how the records of the queue go on. -/

namespace Sys2Proof.Machine

section
variable {s t u x : State} {sd : Side}

/-! ### The image of a commit (R188, section 9.1) -/

/-- The body of section 9.1 as it is composed, with its header and checksum before it. -/
theorem imageOctets_composed (t : Tables) : imageOctets t =
    [0x5C, 0x3A] ++ (octets16 (word16At t.header 0) ++ [0x02, 0xB4]) ++
      octets16 (crc16 ((octets16 (word16At t.header 0) ++ [0x02, 0xB4]) ++ tablesOctets t)) ++ tablesOctets t ++
      List.replicate 12 0 := by
  rw [imageOctets_eq, List.append_assoc _ (tablesOctets t)]; rfl

theorem commitPage_last (t : Tables) : commitPage t 11 = newWrite 0 ((imageOctets t).take 64) := rfl

theorem commitPage_between (t : Tables) {k : Nat} (h1 : 1 ≤ k) (h2 : k ≤ 10) :
    commitPage t k = newWrite (64 * k) (((imageOctets t).drop (64 * k)).take 64) := by
  rw [commitPage, if_neg (by omega), if_neg (by omega)]

/-- Before its last page write a commit has left the signature 0000. -/
theorem commitStored_unsigned {t : Tables} (ht : TablesShaped t) {m : Memory} (h : Memory.wf m = true) {n : Nat}
    (h1 : 1 ≤ n) (h2 : n ≤ 11) : word16At (Memory.readOctets (commitStored t m n) 0 8) 0 = 0 := by
  obtain ⟨k, rfl⟩ : ∃ k, n = k + 1 := ⟨n - 1, by omega⟩
  have hread (y : Nat) (hy : y < 2) : Memory.read (commitStored t m (k + 1)) y = 0 := by
    rw [read_commitStored ht h k y (by omega), if_pos hy]
  show Memory.read (commitStored t m (k + 1)) 0 ++ Memory.read (commitStored t m (k + 1)) 1 = (0 : Word16)
  rw [hread 0 (by omega), hread 1 (by omega)]; decide

/-- A committed image is read back whole. -/
theorem readOctets_image {t : Tables} (ht : TablesShaped t) {m : Memory} (h : Memory.wf m = true) :
    Memory.readOctets (commitStored t m 12) 0 704 = imageOctets t := by
  rw [readOctets_commitStored ht h 0 704 (by omega), List.drop_zero, ← imageOctets_length ht, List.take_length]

/-- A loader run goes from a committed image's header to its image, and finds it LOADED (R185). -/
theorem loaderReads_commitStored {t : Tables} (ht : TablesShaped t) {m : Memory} (h : Memory.wf m = true)
    (origin : LoaderOrigin) (v : LoaderResult) (ch : Choices) (hp : s.powered = true)
    (hack : ch.acks.headD true = true) (hs : s.store = commitStored t m 12) :
    (s.ctl.op = .loading origin .header v → exec (.loaderReadComplete ch) s = .next { s with
      ctl := { s.ctl with op := .loading origin .image .noneYet }, choices := Choices.default }) ∧
    (s.ctl.op = .loading origin .image v → exec (.loaderReadComplete ch) s = .next { s with
      ctl := { s.ctl with op := .loading origin .lockArea .loaded }, choices := Choices.default }) := by
  obtain ⟨hheader, himage, -⟩ := loaderReadsAdvance origin v ch s hp hack
  obtain ⟨h0, h2, h4, h6⟩ := imageHeader_fields (hdrEdition t) (imageChecksum (hdrEdition t) t)
  rw [← header_commitStored ht h, ← hs] at h0 h2 h4 h6
  refine ⟨fun hop => ?_, fun hop => ?_⟩
  · obtain ⟨-, -, -, -, hwhole⟩ := hheader hop
    exact hwhole h0 (by rw [h4]; rfl)
  · rw [himage hop, h2, h6, hs, storedTables_commitStored ht h, if_pos rfl]

/-! ### Records in their completed form (R191) -/

theorem octetSum_withCheckOctet (l : List Octet) : octetSum (withCheckOctet l) = 255 := by
  rw [octetSum, withCheckOctet, List.foldl_append, List.foldl_cons, List.foldl_nil]
  show octetSum l + (255 - octetSum l) = 255
  bv_omega

theorem octets16_length (w : Word16) : (octets16 w).length = 2 := rfl
theorem octets32_length (w : Word32) : (octets32 w).length = 4 := rfl

/-- The span of a record's side is the one below the part's position at West and the one at it at East. -/
theorem recordSpan_eq (s : State) (side : Option Side) : recordSpan s side =
    match side with | none => 0 | some .west => natOctet (pos s) | some .east => natOctet (pos s + 1) := by
  rcases side with _ | _ | _ <;> rfl

theorem completeRecord_trip (r : TripRecord) (c : StoreCtl) : completeRecord (.trip r) c = { c with
    nextSlot := (c.nextSlot + 1) % 64
    nextNumber := if c.nextNumber = 4294967295 then 1 else c.nextNumber + 1
    lastFault := false } := rfl

/-- What a record's write holds does not hang on the operation, the queue or the choices. -/
theorem recordWrite_congr (r : StoreRecord) (h1 : t.ctl.nextSlot = s.ctl.nextSlot) (h2 : t.ctl.nextNumber = s.ctl.nextNumber)
    (h3 : t.ctl.notes = s.ctl.notes) (h4 : t.time = s.time) (h5 : t.tab = s.tab) (h6 : t.position = s.position) :
    recordWrite t r = recordWrite s r := by
  cases r with
  | trip r => simp only [recordWrite, recordSpan_eq, pos, h1, h2, h4, h5, h6]
  | lock => simp only [recordWrite, h3]

/-! ### How the records of the queue go on (R189, R191) -/

/-- A queue that is empty is not changed by being emptied. -/
theorem StoreCtl.emptied_of_empty {c : StoreCtl} (h : c.queue = []) (op : StoreOp) (b : Bool) :
    { c with queue := [], op := op, lastFault := b } = { c with op := op, lastFault := b } := by rw [← h]

/-- RECORDING ends with the last record, or waits while a route reset drains. -/
theorem RecordsGoOn.recording_ends {w : Option RecordWrite} (h : RecordsGoOn [] x u) (hop : x.ctl.op = .recording w)
    (hq : x.ctl.queue = []) : settle u = { x with
      ctl := { x.ctl with op := if x.ctl.draining then .recording none else .idle }, choices := Choices.default } := by
  rw [h.1 w hop, settle_empty _ rfl]
  exact congrArg (fun c => { x with ctl := c, choices := Choices.default }) (StoreCtl.emptied_of_empty hq _ _)

/-- In RECORDING the next record is written. -/
theorem RecordsGoOn.recording_next {w : Option RecordWrite} {r : StoreRecord} {q : List StoreRecord}
    (h : RecordsGoOn (r :: q) x u) (hop : x.ctl.op = .recording w) (ha : ackOf x = true) : settle u = { x with
      ctl := { x.ctl with op := .recording (some ⟨r, recordWrite x r⟩), queue := q }, choices := Choices.default } := by
  rw [(h.1 ha).1 w hop, settle_busy StoreOp.noConfusion (by simp)]

/-- A suspended commit begins its next page after the last record. -/
theorem RecordsGoOn.suspended_resumes {w : Option RecordWrite} {who : Requester} {k : Nat} (h : RecordsGoOn [] x u)
    (hop : x.ctl.op = .suspended who k w) (hq : x.ctl.queue = []) (ha : ackOf x = true) : settle u = { x with
      ctl := { x.ctl with op := .committing who k (commitPage x.tab.tables k) }, choices := Choices.default } := by
  rw [(h.2 who k w hop).1 ha, settle_busy StoreOp.noConfusion StoreOp.noConfusion]
  exact congrArg (fun c => { x with ctl := c, choices := Choices.default }) (StoreCtl.emptied_of_empty hq _ _)

/-- A suspended commit whose next page meets a store fault ends. -/
theorem RecordsGoOn.suspended_ends {w : Option RecordWrite} {who : Requester} {k : Nat} (h : RecordsGoOn [] x u)
    (hop : x.ctl.op = .suspended who k w) (hq : x.ctl.queue = []) (ha : ackOf x = false) :
    u = respond 13 who.dest who.tag [10, if k = 0 then 255 else if k = 11 then 0 else natOctet k]
      { x with ctl := { x.ctl with op := .idle, lastFault := true }
               choices := { x.choices with acks := x.choices.acks.tail } } := by
  rw [(h.2 who k w hop).2 ha, StoreCtl.emptied_of_empty hq]

/-- Under a suspended commit the next record is written. -/
theorem RecordsGoOn.suspended_next {w : Option RecordWrite} {who : Requester} {k : Nat} {r : StoreRecord}
    {q : List StoreRecord} (h : RecordsGoOn (r :: q) x u) (hop : x.ctl.op = .suspended who k w) (ha : ackOf x = true) :
    settle u = { x with
      ctl := { x.ctl with op := .suspended who k (some ⟨r, recordWrite x r⟩), queue := q }
      choices := Choices.default } := by
  rw [(h.1 ha).2 who k w hop, settle_busy StoreOp.noConfusion StoreOp.noConfusion]

/-! ### A commit's page write completes (R188, R189) -/

section
variable {who : Requester} {k : Nat} {w : PageWrite}

theorem commitPageDone_eq (hop : s.ctl.op = .committing who k w) (hd : w.done = true) : commitPageDone s =
    if k = 11 then finishCommit who s
    else if hdrSuspend s.tab.tables && !s.ctl.queue.isEmpty then
      startRecords s.ctl.queue (setOp (.suspended who (k + 1) none) s)
    else beginCommitPage who (k + 1) s := by
  unfold commitPageDone; rw [hop]; dsimp only; rw [hd]; rfl

theorem exec_commitPageComplete (hp : s.powered = true) (hop : s.ctl.op = .committing who k w) (hd : w.done = true)
    (ch : Choices) : exec (.commitPageComplete ch) s = .next (settle (
      if k = 11 then finishCommit who (withChoices ch s)
      else if hdrSuspend s.tab.tables && !s.ctl.queue.isEmpty then
        startRecords s.ctl.queue (setOp (.suspended who (k + 1) none) (withChoices ch s))
      else beginCommitPage who (k + 1) (withChoices ch s))) :=
  exec_settles (f := commitPageDone) rfl hp (commitPageDone_eq (s := withChoices ch s) hop hd)

/-- No record interrupts the commit: it goes on with its next page. -/
theorem exec_nextPage (hp : s.powered = true) (hop : s.ctl.op = .committing who k w) (hd : w.done = true)
    (ch : Choices) (hk : k < 11) (hq : hdrSuspend s.tab.tables = false ∨ s.ctl.queue = []) :
    exec (.commitPageComplete ch) s = .next (settle (beginCommitPage who (k + 1) (withChoices ch s))) := by
  rw [exec_commitPageComplete hp hop hd, if_neg (by omega), if_neg]
  rcases hq with h | h <;> simp [h]

/-- A record interrupts the commit, which is suspended (R189). -/
theorem exec_suspends (hp : s.powered = true) (hop : s.ctl.op = .committing who k w) (hd : w.done = true)
    (ch : Choices) (hk : k < 11) (hs : hdrSuspend s.tab.tables = true) (hq : s.ctl.queue ≠ []) :
    ∃ u, RecordsGoOn s.ctl.queue
        { withChoices ch s with ctl := { s.ctl with op := .suspended who (k + 1) none } } u ∧
      exec (.commitPageComplete ch) s = .next (settle u) := by
  refine ⟨startRecords s.ctl.queue (setOp (.suspended who (k + 1) none) (withChoices ch s)),
    startRecords_goesOn _ _ trivial, ?_⟩
  rw [exec_commitPageComplete hp hop hd, if_neg (by omega), if_pos (by simp [hs, hq])]

end

/-! ### A record's write completes (R189, R191) -/

/-- The operations that write this record. -/
def writesNow (r : RecordWrite) (op : StoreOp) : Prop :=
  op = .recording (some r) ∨ ∃ who k, op = .suspended who k (some r)

theorem recordWriteDone_eq {r : RecordWrite} (h : writesNow r s.ctl.op) : recordWriteDone s = recordDone r s := by
  unfold recordWriteDone
  rcases h with h | ⟨who, k, h⟩ <;> rw [h]

theorem writesNow.writes {r : RecordWrite} {op : StoreOp} (h : writesNow r op) : op.writesRecords := by
  rcases h with h | ⟨who, k, h⟩ <;> rw [h] <;> trivial

theorem exec_recordWriteComplete {r : RecordWrite} (hp : s.powered = true) (h : writesNow r s.ctl.op)
    (hd : r.write.done = true) (ch : Choices) :
    ∃ u, RecordsGoOn s.ctl.queue { withChoices ch s with ctl := completeRecord r.record s.ctl } u ∧
      exec (.recordWriteComplete ch) s = .next (settle u) := by
  refine ⟨startRecords s.ctl.queue (onCtl (completeRecord r.record) (withChoices ch s)), startRecords_goesOn _ _ ?_,
    exec_settles (f := recordWriteDone) rfl hp ?_⟩
  · show (completeRecord r.record s.ctl).op.writesRecords
    rw [completeRecord_op]; exact h.writes
  · rw [recordWriteDone_eq (s := withChoices ch s) h, recordDone, if_pos hd]; rfl

/-! ### The read of a LOG-READ completes (R192) -/

theorem exec_logReadComplete {who : Requester} {n part : Nat} (hp : s.powered = true)
    (hop : s.ctl.op = .reading who n part) (ch : Choices) :
    exec (.logReadComplete ch) s = .next (settle (
      if s.ctl.draining then onCtl (fun c => { c with op := .recording none, lastFault := false }) (withChoices ch s)
      else respond 15 who.dest who.tag (logBody n part (slotOctets s.store ((s.ctl.nextSlot + 64 - (n + 1)) % 64)))
        (onCtl (fun c => { c with op := .idle, lastFault := false }) (withChoices ch s)))) := by
  refine exec_settles (f := logReadDone) rfl hp ?_
  unfold logReadDone; rw [withChoices_ctl, hop]; rfl

/-! ### The completions, by the queue they find -/

theorem commitSuspends_record {ch : Choices} {who : Requester} {k : Nat} {w : PageWrite} {r : StoreRecord}
    {q : List StoreRecord} (hp : s.powered = true) (hop : s.ctl.op = .committing who k w) (hd : w.done = true)
    (hk : k < 11) (hs : hdrSuspend s.tab.tables = true) (hq : s.ctl.queue = r :: q) (ha : ch.acks.headD true = true) :
    exec (.commitPageComplete ch) s = .next { s with
      ctl := { s.ctl with op := .suspended who (k + 1) (some ⟨r, recordWrite s r⟩), queue := q }
      choices := Choices.default } := by
  obtain ⟨u, hgoes, hexec⟩ := exec_suspends hp hop hd ch hk hs (by rw [hq]; exact List.cons_ne_nil r q)
  rw [hq] at hgoes
  rw [hexec, hgoes.suspended_next rfl ha, recordWrite_congr (s := s) r rfl rfl rfl rfl rfl rfl]
  rfl

theorem commitPage_ends {ch : Choices} {who : Requester} {k : Nat} {w : PageWrite} (hp : s.powered = true)
    (hop : s.ctl.op = .committing who k w) (hd : w.done = true) (hk : k < 11)
    (hq : hdrSuspend s.tab.tables = false ∨ s.ctl.queue = []) (ha : ch.acks.headD true = false) :
    exec (.commitPageComplete ch) s = .next (settle (respond 13 who.dest who.tag
      [10, if k = 10 then 0 else natOctet (k + 1)]
      { withChoices { ch with acks := ch.acks.tail } s with
        ctl := { s.ctl with op := .idle, lastFault := true } })) := by
  have hpage : commitFaultPage (k + 1) = if k = 10 then 0 else natOctet (k + 1) := by
    unfold commitFaultPage; rw [if_neg (by omega)]; simp
  rw [exec_nextPage hp hop hd ch hk hq, beginCommitPage,
    if_neg (by rw [show ackOf (withChoices ch s) = ch.acks.headD true from rfl, ha]; decide), failCommit, hpage]
  rfl

theorem exec_recordWriteComplete_recording {r : RecordWrite} (hp : s.powered = true)
    (hop : s.ctl.op = .recording (some r)) (hd : r.write.done = true) (ch : Choices) :
    (s.ctl.queue = [] → exec (.recordWriteComplete ch) s = .next { s with
      ctl := { completeRecord r.record s.ctl with op := if s.ctl.draining then .recording none else .idle }
      choices := Choices.default }) ∧
    (∀ r' q, s.ctl.queue = r' :: q → ch.acks.headD true = true →
      exec (.recordWriteComplete ch) s = .next { s with
        ctl := { completeRecord r.record s.ctl with
          op := .recording (some ⟨r', recordWrite { s with ctl := completeRecord r.record s.ctl } r'⟩), queue := q }
        choices := Choices.default }) := by
  obtain ⟨u, hgoes, hexec⟩ := exec_recordWriteComplete hp (Or.inl hop) hd ch
  have hop' : (completeRecord r.record s.ctl).op = .recording (some r) := (completeRecord_op ..).trans hop
  have hdrain : (completeRecord r.record s.ctl).draining = s.ctl.draining := by cases r.record <;> rfl
  refine ⟨fun hq => ?_, fun r' q hq ha => ?_⟩
  · rw [hq] at hgoes
    rw [hexec, hgoes.recording_ends hop' ((completeRecord_queue ..).trans hq), ← hdrain]; rfl
  · rw [hq] at hgoes
    rw [hexec, hgoes.recording_next hop' ha,
      recordWrite_congr (s := { s with ctl := completeRecord r.record s.ctl }) r' rfl rfl rfl rfl rfl rfl]
    rfl

theorem exec_recordWriteComplete_suspended {who : Requester} {k : Nat} {r : RecordWrite} {ch : Choices}
    (hp : s.powered = true) (hop : s.ctl.op = .suspended who k (some r)) (hd : r.write.done = true)
    (ha : ch.acks.headD true = true) :
    (s.ctl.queue = [] → exec (.recordWriteComplete ch) s = .next { s with
      ctl := { completeRecord r.record s.ctl with op := .committing who k (commitPage s.tab.tables k) }
      choices := Choices.default }) ∧
    (∀ r' q, s.ctl.queue = r' :: q →
      exec (.recordWriteComplete ch) s = .next { s with
        ctl := { completeRecord r.record s.ctl with
          op := .suspended who k (some ⟨r', recordWrite { s with ctl := completeRecord r.record s.ctl } r'⟩), queue := q }
        choices := Choices.default }) := by
  obtain ⟨u, hgoes, hexec⟩ := exec_recordWriteComplete hp (Or.inr ⟨who, k, hop⟩) hd ch
  have hop' : (completeRecord r.record s.ctl).op = .suspended who k (some r) := (completeRecord_op ..).trans hop
  refine ⟨fun hq => ?_, fun r' q hq => ?_⟩
  · rw [hq] at hgoes
    rw [hexec, hgoes.suspended_resumes hop' ((completeRecord_queue ..).trans hq) ha]; rfl
  · rw [hq] at hgoes
    rw [hexec, hgoes.suspended_next hop' ha,
      recordWrite_congr (s := { s with ctl := completeRecord r.record s.ctl }) r' rfl rfl rfl rfl rfl rfl]
    rfl

/-- Settles O55: the image read back, the records' layouts, and each completion by the queue it finds. -/
theorem storeOperationsComplete : Obligations.StoreOperationsComplete := by
  refine ⟨fun t => ?_, fun r s => ?_, fun sd locked reason count s => ?_, fun ch s hp => ⟨?_, ?_, ?_, ?_, ?_⟩⟩
  · intro body fields image page
    have himage : imageOctets t = image := imageOctets_composed t
    refine ⟨rfl, fun k h1 h2 => ?_, ?_, fun ht => ?_, fun m hm ht => ?_⟩
    · rw [commitPage_between t h1 h2, himage]; rfl
    · rw [commitPage_last, himage]; rfl
    · rw [← himage]; exact imageOctets_length ht
    · refine ⟨fun n => commitStored_unsigned ht hm, (readOctets_image ht hm).trans himage, fun a ha => ?_,
        storedTables_commitStored ht hm, fun origin v ch s hp hack hs => ?_⟩
      · exact (read_commitStored_all ht hm a).trans (if_neg (by omega))
      · exact loaderReads_commitStored ht hm origin v ch hp hack hs
  · refine ⟨rfl, rfl, rfl, rfl, ?_, octetSum_withCheckOctet _, completeRecord_trip r⟩
    rcases r with ⟨_ | _ | _⟩ <;> exact ⟨_, rfl⟩
  · refine ⟨rfl, rfl, rfl, rfl, ?_, octetSum_withCheckOctet _, fun c => rfl⟩
    cases sd <;> exact ⟨_, rfl⟩
  · intro who k w hop hd
    refine ⟨fun hk hq ha => ?_, fun hk hq ha => commitPage_ends hp hop hd hk hq ha,
      fun r q hk hs hq ha => commitSuspends_record hp hop hd hk hs hq ha,
      fun hk hs hq => exec_suspends hp hop hd ch hk hs hq, fun hk => ?_⟩
    · rw [exec_nextPage hp hop hd ch hk hq, beginCommitPage,
        if_pos (show ackOf (withChoices ch s) = true from ha), settle_busy StoreOp.noConfusion StoreOp.noConfusion]
      rfl
    · rw [exec_commitPageComplete hp hop hd, if_pos hk]; rfl
  · exact fun r h hd => exec_recordWriteComplete hp h hd ch
  · exact fun r hop hd => exec_recordWriteComplete_recording hp hop hd ch
  · exact fun who k r hop hd ha => exec_recordWriteComplete_suspended hp hop hd ha
  · intro who n part hop
    refine ⟨fun hd => ?_, fun hd => ?_⟩
    · rw [exec_logReadComplete hp hop, if_pos hd]; rfl
    · rw [exec_logReadComplete hp hop, if_neg (by simp [hd])]; rfl

end

end Sys2Proof.Machine
end

section
/-! A page write under way (R184): the page timer, the address repeats, and the store fault at 20 ms (R188, R191). -/

namespace Sys2Proof.Machine

section
variable {s t u x : State} {sd : Side} {w : PageWrite}

/-! ### The operation under way -/

theorem writesNow.current {r : RecordWrite} {op : StoreOp} (h : writesNow r op) : currentWrite op = some r.write := by
  rcases h with rfl | ⟨who, k, rfl⟩ <;> rfl

/-- The write under way is a commit's page or a record's. -/
theorem current_cases {op : StoreOp} (h : currentWrite op = some w) :
    (∃ who k, op = .committing who k w) ∨ ∃ r, writesNow r op ∧ r.write = w := by
  rcases op with _ | _ | ⟨who, k, v⟩ | ⟨who, k, _ | r⟩ | ⟨_ | r⟩ | _ <;> simp only [currentWrite] at h
  · cases h
  · cases h
  · exact Or.inl ⟨who, k, by rw [Option.some.inj h]⟩
  · cases h
  · exact Or.inr ⟨r, Or.inr ⟨who, k, rfl⟩, Option.some.inj h⟩
  · cases h
  · exact Or.inr ⟨r, Or.inl rfl, Option.some.inj h⟩
  · cases h

/-- No other operation begins while a page write is under way. -/
theorem mapWrite_busy {op : StoreOp} (f : PageWrite → PageWrite) (h : currentWrite op = some w) :
    mapWrite f op ≠ .idle ∧ mapWrite f op ≠ .recording none := by
  rcases current_cases h with ⟨who, k, rfl⟩ | ⟨r, rfl | ⟨who, k, rfl⟩, rfl⟩ <;> simp [mapWrite]

/-! ### The store acknowledges, or is asked again (R184) -/

/-- The write completes. -/
theorem settle_acknowledged (h : currentWrite s.ctl.op = some w) (ch : Choices) :
    settle (acknowledgeWrite w (withChoices ch s)) = { s with
      ctl := { s.ctl with op := mapWrite (fun x => { x with done := true }) s.ctl.op }
      store := Memory.writeOctets s.store w.addr w.data, choices := Choices.default } := by
  obtain ⟨h1, h2⟩ := mapWrite_busy (fun x => { x with done := true }) h
  rw [settle_busy h1 h2]; rfl

/-- The write waits for its next address. -/
theorem settle_waits (h : currentWrite s.ctl.op = some w) (f : PageWrite → PageWrite) (ch : Choices) :
    settle (setOp (mapWrite f s.ctl.op) (withChoices ch s)) = { s with
      ctl := { s.ctl with op := mapWrite f s.ctl.op }, choices := Choices.default } := by
  obtain ⟨h1, h2⟩ := mapWrite_busy f h
  rw [settle_busy h1 h2]; rfl

theorem exec_pageTimer (hp : s.powered = true) (h : currentWrite s.ctl.op = some w) (hd : w.done = false)
    (he : w.elapsed = 0) (acked : Bool) : exec (.pageTimerExpiry acked) s = .next (settle (
      if acked then acknowledgeWrite w (begun s)
      else setOp (mapWrite (fun x => { x with elapsed := 5 }) s.ctl.op) (begun s))) := by
  refine exec_settles (f := pageTimer acked) rfl hp ?_
  unfold pageTimer; rw [withChoices_ctl, h]; dsimp only; rw [if_neg (by simp [hd, he])]; rfl

theorem exec_addressRepeat (hp : s.powered = true) (h : currentWrite s.ctl.op = some w) (hd : w.done = false)
    (he : 5 ≤ w.elapsed) (acked : Bool) (left : Residue) (ch : Choices) :
    exec (.addressRepeat acked left ch) s = .next (settle (
      if acked then acknowledgeWrite w (withChoices ch s)
      else if w.elapsed + 1 < 20 then
        setOp (mapWrite (fun x => { x with elapsed := x.elapsed + 1 }) s.ctl.op) (withChoices ch s)
      else faultWrite (faultResidue left (withChoices ch s)))) := by
  refine exec_settles (f := repeatAddress acked left) rfl hp ?_
  unfold repeatAddress; rw [withChoices_ctl, h]; dsimp only; rw [if_neg (by simp [hd]; omega)]

/-- The write's time counts on by the millisecond. -/
theorem mapWrite_next {op : StoreOp} (h : currentWrite op = some w) :
    mapWrite (fun x => { x with elapsed := x.elapsed + 1 }) op =
      mapWrite (fun x => { x with elapsed := w.elapsed + 1 }) op := by
  rcases current_cases h with ⟨who, k, rfl⟩ | ⟨r, rfl | ⟨who, k, rfl⟩, rfl⟩ <;> rfl

/-! ### What a fault leaves in the store (R188, R191) -/

theorem leaveResidue_eq (left : Residue) (s : State) :
    leaveResidue left s = { s with store := (leaveResidue left s).store } := by
  unfold leaveResidue; split
  · rfl
  · split <;> rfl

theorem leaveResidue_store (h : currentWrite s.ctl.op = some w) (hd : w.done = false) (left : Residue) :
    (leaveResidue left s).store = Memory.writeOctets s.store w.addr (residueOctets w.data left) := by
  unfold leaveResidue; rw [h]; dsimp only; rw [hd]; rfl

theorem recordResidue_store (r : StoreRecord) (left : Residue) (s : State) :
    recordResidue r left s = leaveResidue left s ∨ recordResidue r left s = s := by
  cases r with
  | trip => exact Or.inl rfl
  | lock sd b c n => exact ite_eq_or_eq _ _ _

/-- A fault leaves a residue, or the store as it was. -/
theorem faultResidue_cases (left : Residue) (s : State) :
    (∃ l, faultResidue left s = leaveResidue l s) ∨ faultResidue left s = s := by
  unfold faultResidue; split
  · split
    · exact Or.inl ⟨_, rfl⟩
    · exact (ite_eq_or_eq _ _ _).imp (fun h => ⟨left, h⟩) id
  · exact (recordResidue_store ..).imp (fun h => ⟨left, h⟩) id
  · exact (recordResidue_store ..).imp (fun h => ⟨left, h⟩) id
  all_goals exact Or.inr rfl

theorem faultResidue_eq (left : Residue) (s : State) :
    faultResidue left s = { s with store := (faultResidue left s).store } := by
  rcases faultResidue_cases left s with ⟨l, h⟩ | h <;> rw [h]
  exact leaveResidue_eq l s

/-- Outside the page a fault changes no octet. -/
theorem faultResidue_outside (hm : StoreCanonical s) (h : currentWrite s.ctl.op = some w) (hd : w.done = false)
    (left : Residue) {a : Nat} (ha : a < w.addr ∨ w.addr + w.data.length ≤ a) :
    Memory.read (faultResidue left s).store a = Memory.read s.store a := by
  rcases faultResidue_cases left s with ⟨l, e⟩ | e <;> rw [e]
  rw [leaveResidue_store h hd]
  exact Memory.read_writeOctets_outside hm (by rw [residueOctets_length]; exact ha)

/-- In the last page write of a commit the signature stays 0000. -/
theorem faultResidue_last (hm : StoreCanonical s) {who : Requester} (hop : s.ctl.op = .committing who 11 w)
    (hd : w.done = false) (left : Residue) (ha : w.addr = 0) (hl : 2 ≤ w.data.length) :
    Memory.read (faultResidue left s).store 0 = 0 ∧ Memory.read (faultResidue left s).store 1 = 0 := by
  have hres : faultResidue left s = leaveResidue (some 0 :: some 0 :: left.drop 2) s := by
    unfold faultResidue; rw [hop]; exact if_pos rfl
  have hread (y : Nat) : Memory.read (faultResidue left s).store y =
      if y < w.data.length then (residueOctets w.data (some 0 :: some 0 :: left.drop 2)).getD y 0
      else Memory.read s.store y := by
    rw [hres, leaveResidue_store (by rw [hop]; rfl) hd, ha, Memory.read_writeOctets hm, residueOctets_length]
    simp
  rw [hread, hread, if_pos (by omega), if_pos (by omega)]
  match w.data, hl with
  | _ :: _ :: _, _ => exact ⟨rfl, rfl⟩

/-- Step 1 of a commit leaves no other signature 5C3A. -/
theorem faultResidue_first (hm : StoreCanonical s) {who : Requester} (hop : s.ctl.op = .committing who 0 w)
    (hd : w.done = false) (left : Residue) (ha : w.addr = 0) (hl : w.data = [0, 0]) :
    word16At (Memory.readOctets (faultResidue left s).store 0 2) 0 = word16At (Memory.readOctets s.store 0 2) 0 ∨
      word16At (Memory.readOctets (faultResidue left s).store 0 2) 0 ≠ 0x5C3A := by
  have hres : faultResidue left s =
      if signatureCut 0 s.store (residueOctets w.data left) then leaveResidue left s else s := by
    unfold faultResidue; rw [hop]; exact if_neg (by decide)
  by_cases hcut : signatureCut 0 s.store (residueOctets w.data left) = true
  · have hread : Memory.readOctets (faultResidue left s).store 0 2 = residueOctets w.data left := by
      rw [hres, if_pos hcut, leaveResidue_store (by rw [hop]; rfl) hd, ha]
      have hlen : (residueOctets w.data left).length = 2 := by rw [residueOctets_length, hl]; rfl
      rw [← hlen]; exact Memory.readOctets_writeOctets hm
    rw [hread]
    simp only [signatureCut, if_true, Bool.or_eq_true, bne_iff_ne, beq_iff_eq] at hcut
    exact hcut.symm
  · rw [hres, if_neg hcut]; exact Or.inl rfl

/-- The copy of a lock record that a loader would find stays as it was. -/
theorem faultResidue_lock {r : RecordWrite} {locked : Bool} {reason : Cause} {count : Word16}
    (h : writesNow r s.ctl.op) (hr : r.record = .lock sd locked reason count) (left : Residue) :
    newestCopy (faultResidue left s).store sd = newestCopy s.store sd := by
  have hres : faultResidue left s =
      if newestCopy (leaveResidue left s).store sd = newestCopy s.store sd then leaveResidue left s else s := by
    unfold faultResidue
    rcases h with h | ⟨who, k, h⟩ <;> rw [h] <;> simp only [hr] <;> rfl
  rw [hres]; split
  · assumption
  · rfl

/-! ### The fault ends the write (R184) -/

@[simp] theorem faultWrite_still (s : State) : still (faultWrite s) = still s := by
  unfold faultWrite; split
  · exact failCommit_still ..
  · exact (startRecords_still ..).trans rfl
  · exact (startRecords_still ..).trans rfl
  all_goals rfl

@[simp] theorem faultWrite_side (s : State) : (faultWrite s).side = s.side := by
  unfold faultWrite; split
  · exact respond_side ..
  · exact startRecords_side ..
  · exact startRecords_side ..
  all_goals rfl

@[simp] theorem faultWrite_pdu (s : State) : (faultWrite s).pdu = s.pdu := by
  unfold faultWrite; split
  · exact respond_pdu ..
  · exact startRecords_pdu ..
  · exact startRecords_pdu ..
  all_goals rfl

theorem faultWrite_commit {who : Requester} {k : Nat} (hop : s.ctl.op = .committing who k w) :
    faultWrite s = failCommit who k s := by
  unfold faultWrite; rw [hop]

theorem faultWrite_record {r : RecordWrite} (h : writesNow r s.ctl.op) :
    faultWrite s = startRecords s.ctl.queue { s with ctl := recordLost r.record s.ctl } := by
  unfold faultWrite
  rcases h with h | ⟨who, k, h⟩ <;> rw [h] <;> dsimp only <;>
    exact congrArg (fun c => startRecords s.ctl.queue { s with ctl := c }) (faultRecord_eq ..)

theorem recordLost_queue (r : StoreRecord) (c : StoreCtl) : (recordLost r c).queue = c.queue := by cases r <;> rfl

theorem recordLost_draining (r : StoreRecord) (c : StoreCtl) : (recordLost r c).draining = c.draining := by
  cases r <;> rfl

theorem recordLost_fault (r : StoreRecord) (c : StoreCtl) : { recordLost r c with op := .idle, lastFault := true } =
    { recordLost r c with op := .idle } := by cases r <;> rfl

/-- The state in which a lost record's write ends, with the store that the fault leaves. -/
def lostState (ch : Choices) (r : StoreRecord) (store : Memory) (s : State) : State :=
  { withChoices ch s with ctl := recordLost r s.ctl, store := store }

theorem recordWrite_lost (ch : Choices) (r r' : StoreRecord) (store : Memory) (s : State) :
    recordWrite (lostState ch r store s) r' = recordWrite { s with ctl := recordLost r s.ctl } r' :=
  recordWrite_congr r' rfl rfl rfl rfl rfl rfl

/-- After a record lost in RECORDING. -/
theorem lost_recording {r : RecordWrite} {ch : Choices} {m : Memory} (hop : s.ctl.op = .recording (some r))
    (hgoes : RecordsGoOn s.ctl.queue (lostState ch r.record m s) u) :
    (s.ctl.queue = [] → (settle u).msg = s.msg ∧ (settle u).ctl = { recordLost r.record s.ctl with
      op := if s.ctl.draining then .recording none else .idle }) ∧
    (∀ r' q, s.ctl.queue = r' :: q → ch.acks.headD true = true →
      let c := recordLost r.record s.ctl
      (settle u).msg = s.msg ∧ (settle u).ctl = { c with
        op := .recording (some ⟨r', recordWrite { s with ctl := c } r'⟩), queue := q }) := by
  have hop' : (lostState ch r.record m s).ctl.op = .recording (some r) := (recordLost_op ..).trans hop
  refine ⟨fun hq => ?_, fun r' q hq ha => ?_⟩
  · rw [hq] at hgoes
    rw [hgoes.recording_ends hop' ((recordLost_queue ..).trans hq), ← recordLost_draining r.record s.ctl]
    exact ⟨rfl, rfl⟩
  · rw [hq] at hgoes
    rw [hgoes.recording_next hop' ha, recordWrite_lost]
    exact ⟨rfl, rfl⟩

/-- After a record lost under a suspended commit. -/
theorem lost_suspended {r : RecordWrite} {ch : Choices} {m : Memory} {who : Requester} {k : Nat}
    (hop : s.ctl.op = .suspended who k (some r)) (hgoes : RecordsGoOn s.ctl.queue (lostState ch r.record m s) u) :
    (s.ctl.queue = [] → ch.acks.headD true = true →
      (settle u).msg = s.msg ∧ (settle u).ctl = { recordLost r.record s.ctl with
        op := .committing who k (commitPage s.tab.tables k) }) ∧
    (s.ctl.queue = [] → ch.acks.headD true = false →
      settle u = settle (respond 13 who.dest who.tag [10, if k = 0 then 255 else if k = 11 then 0 else natOctet k]
        { withChoices { ch with acks := ch.acks.tail } s with
          ctl := { recordLost r.record s.ctl with op := .idle }, store := m })) ∧
    (∀ r' q, s.ctl.queue = r' :: q → ch.acks.headD true = true →
      let c := recordLost r.record s.ctl
      (settle u).msg = s.msg ∧ (settle u).ctl = { c with
        op := .suspended who k (some ⟨r', recordWrite { s with ctl := c } r'⟩), queue := q }) := by
  have hop' : (lostState ch r.record m s).ctl.op = .suspended who k (some r) := (recordLost_op ..).trans hop
  refine ⟨fun hq ha => ?_, fun hq ha => ?_, fun r' q hq ha => ?_⟩
  · rw [hq] at hgoes
    rw [hgoes.suspended_resumes hop' ((recordLost_queue ..).trans hq) ha]
    exact ⟨rfl, rfl⟩
  · rw [hq] at hgoes
    rw [hgoes.suspended_ends hop' ((recordLost_queue ..).trans hq) ha,
      show (lostState ch r.record m s).ctl = recordLost r.record s.ctl from rfl, recordLost_fault]
    rfl
  · rw [hq] at hgoes
    rw [hgoes.suspended_next hop' ha, recordWrite_lost]
    exact ⟨rfl, rfl⟩

/-- A store fault in a record's write: the record is lost, and the queue goes on. -/
theorem faultWrite_goesOn {r : RecordWrite} (h : writesNow r s.ctl.op) (ch : Choices) (left : Residue) :
    RecordsGoOn s.ctl.queue (lostState ch r.record (faultResidue left (withChoices ch s)).store s)
      (faultWrite (faultResidue left (withChoices ch s))) := by
  rw [faultResidue_eq, faultWrite_record (s := { withChoices ch s with store := _ }) h]
  refine startRecords_goesOn s.ctl.queue (lostState ch r.record _ s) ?_
  show (recordLost r.record s.ctl).op.writesRecords
  rw [recordLost_op]; exact h.writes

/-- What a store fault leaves as it was. -/
theorem faulted_same (left : Residue) (s : State) :
    let t := settle (faultWrite (faultResidue left s))
    t.store = (faultResidue left s).store ∧ t.side = s.side ∧ t.pdu = s.pdu ∧ t.tab = s.tab ∧ t.ports = s.ports ∧
      t.tx = s.tx ∧ t.scan = s.scan ∧ t.hold = s.hold ∧ t.loc = s.loc ∧ t.lines = s.lines ∧ t.time = s.time := by
  intro t
  have hside : t.side = s.side := by
    show (settle _).side = _; rw [settle_side, faultWrite_side, faultResidue_eq]
  have hpdu : t.pdu = s.pdu := by
    show (settle _).pdu = _; rw [settle_pdu, faultWrite_pdu, faultResidue_eq]
  have hstill : still (faultWrite (faultResidue left s)) =
      still { s with store := (faultResidue left s).store } := by
    rw [faultWrite_still]; exact congrArg still (faultResidue_eq left s)
  obtain ⟨-, -, htime, hlines, hports, htx, htab, hscan, hhold, hloc, hstore, -⟩ := still_fields hstill
  obtain ⟨-, -, ktime, klines, kports, ktx, ktab, kscan, khold, kloc, kstore, -⟩ :=
    settle_fields (faultWrite (faultResidue left s))
  exact ⟨kstore.trans hstore, hside, hpdu, ktab.trans htab, kports.trans hports, ktx.trans htx, kscan.trans hscan,
    khold.trans hhold, kloc.trans hloc, klines.trans hlines, ktime.trans htime⟩

/-- A store fault in a commit's page ends the commit (R188). -/
theorem faultWrite_commitEnds {who : Requester} {k : Nat} (hop : s.ctl.op = .committing who k w) (ch : Choices)
    (left : Residue) : faultWrite (faultResidue left (withChoices ch s)) =
      respond 13 who.dest who.tag [10, if k = 0 then 255 else if k = 11 then 0 else natOctet k]
        { withChoices ch s with
          ctl := { s.ctl with op := .idle, lastFault := true }
          store := (faultResidue left (withChoices ch s)).store } := by
  rw [faultResidue_eq, faultWrite_commit (s := { withChoices ch s with store := _ }) hop]; rfl

/-- Settles O52: the acknowledgements by the time the write has taken, and the fault by the write it ends. -/
theorem pageWriteEndsByAcknowledgement : Obligations.PageWriteEndsByAcknowledgement := by
  intro w left ch s hp hm hw hd ended waits
  have hend (ch : Choices) : settle (acknowledgeWrite w (withChoices ch s)) = ended := settle_acknowledged hw ch
  refine ⟨Memory.readOctets_writeOctets hm, fun a ha => Memory.read_writeOctets_outside hm ha, fun he => ?_,
    fun he => ?_, fun he => ?_, fun h1 h2 => ?_, fun he => ?_⟩
  · rw [exec_pageTimer hp hw hd he, if_pos rfl]; exact congrArg _ (hend _)
  · rw [exec_pageTimer hp hw hd he, if_neg Bool.false_ne_true]; exact congrArg _ (settle_waits hw _ _)
  · rw [exec_addressRepeat hp hw hd he, if_pos rfl, hend]
  · rw [exec_addressRepeat hp hw hd h1, if_neg Bool.false_ne_true, if_pos (by omega), mapWrite_next hw,
      settle_waits hw]
  · refine ⟨_, (exec_addressRepeat hp hw hd (by omega) false left ch).trans
      (by rw [if_neg Bool.false_ne_true, if_neg (by omega)]), ?_⟩
    obtain ⟨hstore, hrest⟩ := faulted_same left (withChoices ch s)
    refine ⟨fun a ha => ?_, fun who hop ha hl => ?_, fun who hop ha hl => ?_, fun r sd locked reason count hr h => ?_,
      fun who k hop => ?_, fun r h => ?_, fun r hop => ?_, fun who k r hop => ?_, ?_⟩
    · rw [hstore]; exact faultResidue_outside (s := withChoices ch s) hm hw hd left ha
    · rw [hstore]; exact faultResidue_last (s := withChoices ch s) hm hop hd left ha hl
    · rw [hstore]; exact faultResidue_first (s := withChoices ch s) hm hop hd left ha hl
    · rw [hstore]; exact faultResidue_lock (s := withChoices ch s) h hr left
    · rw [hstore, faultWrite_commitEnds hop]
    · refine ⟨_, ?_, rfl⟩
      rw [hstore]; exact faultWrite_goesOn h ch left
    · exact lost_recording hop (faultWrite_goesOn (Or.inl hop) ch left)
    · rw [hstore]; exact lost_suspended hop (faultWrite_goesOn (Or.inr ⟨who, k, hop⟩) ch left)
    · exact hrest

end

end Sys2Proof.Machine
end

section
/-! The loss of power (R194): the part that has none, the store's octets outside the page write under way, and what the
next loader finds where the write was cut off. -/

namespace Sys2Proof.Machine

section
variable {s t : State} {sd : Side} {w : PageWrite} {left : Residue}

/-! ### The part without power -/

theorem runWith_unpowered (h : s.powered = false) (ch : Choices) (f : State → State) : runWith ch f s = .next s :=
  if_neg (by simp [h])

/-- Only POWER_ON changes a part without power. -/
theorem exec_unpowered {c : Instr} (h : s.powered = false) (hc : ∀ pins left ch, c ≠ .powerOn pins left ch) :
    exec c s = .next s := by
  cases c with
  | powerOn pins left ch => exact absurd rfl (hc pins left ch)
  | powerLoss left => exact if_neg (by simp [h])
  | storeReload req ch =>
    show runWith ch (fun t => reqStoreReload (taken t req) t) s = .next s
    exact runWith_unpowered h ch _
  | _ => exact runWith_unpowered h _ _

/-! ### The store after a write that was cut off -/

theorem cutOff_idle (h : currentWrite s.ctl.op = none) : (cutOff left s).store = s.store := by
  unfold cutOff; rw [h]

theorem cutOff_done (h : currentWrite s.ctl.op = some w) (hd : w.done = true) : (cutOff left s).store = s.store := by
  unfold cutOff; rw [h]; dsimp only; rw [if_pos hd]

theorem cutOff_outside (hm : StoreCanonical s) (h : currentWrite s.ctl.op = some w) {a : Nat}
    (ha : a < w.addr ∨ w.addr + w.data.length ≤ a) : Memory.read (cutOff left s).store a = Memory.read s.store a := by
  cases hd : w.done with
  | true => rw [cutOff_done h hd]
  | false =>
    rw [cutOff_store h hd]
    exact Memory.read_writeOctets_outside hm (by rw [cutOctets_length]; exact ha)

theorem cutOff_outside_octets (hm : StoreCanonical s) (h : currentWrite s.ctl.op = some w) {b n : Nat}
    (hb : b + n ≤ w.addr ∨ w.addr + w.data.length ≤ b) :
    Memory.readOctets (cutOff left s).store b n = Memory.readOctets s.store b n :=
  Memory.readOctets_congr fun y h1 h2 => cutOff_outside hm h (by omega)

/-- Where the write stood, its own octets are found, or a residue that R194 allows. -/
theorem cutOff_found (hm : StoreCanonical s) (h : currentWrite s.ctl.op = some w) (hd : w.done = false) :
    Memory.readOctets (cutOff left s).store w.addr w.data.length = cutOctets s.ctl.op s.store w left := by
  rw [cutOff_store h hd, ← cutOctets_length s.ctl.op s.store w left]
  exact Memory.readOctets_writeOctets hm

/-- A power loss, with what it leaves in the store. -/
theorem powerLoss_stops (hp : s.powered = true) (hm : StoreCanonical s) (left : Residue) :
    ∃ t, exec (.powerLoss left) s = .next t ∧ t.powered = false ∧ t.store = (cutOff left s).store ∧
      (currentWrite s.ctl.op = none → t.store = s.store) ∧
      (∀ w, currentWrite s.ctl.op = some w → w.done = true → t.store = s.store) ∧
      (∀ w a, currentWrite s.ctl.op = some w → (a < w.addr ∨ w.addr + w.data.length ≤ a) →
        Memory.read t.store a = Memory.read s.store a) :=
  ⟨losePower left s, if_pos hp, rfl, rfl, cutOff_idle, fun _ => cutOff_done, fun _ _ hw => cutOff_outside hm hw⟩

/-! ### What R194 allows to be left -/

theorem mayLeave_record {r : RecordWrite} {op : StoreOp} (h : writesNow r op) (m : Memory) (l : List Octet) :
    mayLeave op m l = recordCut l r.record := by
  rcases h with rfl | ⟨who, k, rfl⟩ <;> rfl

theorem signatureCut_between {k : Nat} (h0 : k ≠ 0) (h11 : k ≠ 11) (m : Memory) (l : List Octet) :
    signatureCut k m l = true := by
  unfold signatureCut; rw [if_neg h0, if_neg h11]

theorem signatureCut_unsigned {l : List Octet} (h : word16At l 0 ≠ 0x5C3A) (k : Nat) (m : Memory) :
    signatureCut k m l = true := by
  have hne : (word16At l 0 != 0x5C3A) = true := bne_iff_ne.2 h
  unfold signatureCut; rw [hne]; simp

theorem signatureCut_first {l : List Octet} {m : Memory} :
    signatureCut 0 m l = true ↔ word16At l 0 ≠ 0x5C3A ∨ word16At l 0 = word16At (Memory.readOctets m 0 2) 0 := by
  simp [signatureCut]

/-- The residue is what is left of a commit's page. -/
theorem cutOctets_commit {who : Requester} {k : Nat} {op : StoreOp} {m : Memory} (h : op = .committing who k w)
    (hs : signatureCut k m (residueOctets w.data left) = true) : cutOctets op m w left = residueOctets w.data left :=
  cutOctets_residue (by rw [h]; exact hs)

/-- The residue is what is left of a record's page. -/
theorem cutOctets_record {r : RecordWrite} {op : StoreOp} {m : Memory} (h : writesNow r op)
    (hr : recordCut (residueOctets w.data left) r.record = true) : cutOctets op m w left = residueOctets w.data left :=
  cutOctets_residue (by rw [mayLeave_record h]; exact hr)

/-! ### What the next loader finds (R183, R185, R186) -/

/-- A signature is the same in the header's reading and in a page's at its start. -/
theorem signature_readOctets (m : Memory) {n : Nat} (h : 2 ≤ n) :
    word16At (Memory.readOctets m 0 8) 0 = word16At (Memory.readOctets m 0 n) 0 := by
  rw [word16At_readOctets m 0 (by omega), word16At_readOctets m 0 h]

theorem judgeHeader_zero {l : List Octet} (h : word16At l 0 = 0) : judgeHeader l = some .incomplete := if_pos h

/-- The commit's first page at the store's start. -/
theorem cutOff_firstPage (hm : StoreCanonical s) {who : Requester} (hop : s.ctl.op = .committing who 0 w)
    (hd : w.done = false) (ha : w.addr = 0) (hl : w.data = [0, 0]) :
    word16At (Memory.readOctets (cutOff left s).store 0 8) 0 = word16At (Memory.readOctets s.store 0 8) 0 ∨
      judgeHeader (Memory.readOctets (cutOff left s).store 0 8) ∈
        [some LoaderResult.incomplete, some LoaderResult.blank] := by
  have hfound := cutOff_found (left := left) hm (by rw [hop]; rfl) hd
  rw [ha, hl, show ([0, 0] : List Octet).length = 2 from rfl] at hfound
  have hsig : word16At (Memory.readOctets (cutOff left s).store 0 8) 0 =
      word16At (cutOctets s.ctl.op s.store w left) 0 := by
    rw [signature_readOctets _ (Nat.le_refl 2), hfound]
  rcases cutOctets_cases s.ctl.op s.store w left with h | ⟨h, hmay⟩
  · refine Or.inr (judgeHeader_unsigned ?_)
    rw [hsig, h, hl]; decide
  · rw [hop] at hmay
    rcases signatureCut_first.1 hmay with hne | heq
    · refine Or.inr (judgeHeader_unsigned ?_)
      rw [hsig, h]; exact hne
    · left
      rw [hsig, h, heq, signature_readOctets s.store (Nat.le_refl 2)]

/-- The commit's last page at the store's start. -/
theorem cutOff_lastPage (hm : StoreCanonical s) {who : Requester} (hop : s.ctl.op = .committing who 11 w)
    (hd : w.done = false) (ha : w.addr = 0) (hl : 2 ≤ w.data.length) :
    cutOctets s.ctl.op s.store w left = w.data ∨ judgeHeader (Memory.readOctets (cutOff left s).store 0 8) ∈
      [some LoaderResult.incomplete, some LoaderResult.blank] := by
  have hfound := cutOff_found (left := left) hm (by rw [hop]; rfl) hd
  rw [ha] at hfound
  refine (cutOctets_cases s.ctl.op s.store w left).imp id fun ⟨h, hmay⟩ => judgeHeader_unsigned ?_
  rw [signature_readOctets _ hl, hfound, h]
  rw [hop] at hmay
  exact bne_iff_ne.1 hmay

/-- A page beside the signature 0000. -/
theorem cutOff_besideSignature (hm : StoreCanonical s) (h : currentWrite s.ctl.op = some w) (ha : 2 ≤ w.addr)
    (h0 : word16At (Memory.readOctets s.store 0 8) 0 = 0) :
    judgeHeader (Memory.readOctets (cutOff left s).store 0 8) = some .incomplete := by
  refine judgeHeader_zero ?_
  rw [signature_readOctets _ (Nat.le_refl 2), cutOff_outside_octets hm h (Or.inl (by omega)),
    ← signature_readOctets _ (Nat.le_refl 2), h0]

theorem lockCopyAddr_apart (sd : Side) (b : Bool) :
    lockCopyAddr sd (!b) + 8 ≤ lockCopyAddr sd b ∨ lockCopyAddr sd b + 8 ≤ lockCopyAddr sd (!b) := by
  cases sd <;> cases b <;> decide

/-- A lock copy's page: its own octets, or a copy that is not valid, so that the other one is the newest. -/
theorem cutOff_lockCopy (hm : StoreCanonical s) {r : RecordWrite} {copyB locked : Bool} {reason : Cause}
    {count : Word16} (h : currentWrite s.ctl.op = some w) (hd : w.done = false) (hr : writesNow r s.ctl.op)
    (hrec : r.record = .lock sd locked reason count) (ha : w.addr = lockCopyAddr sd copyB) (hl : w.data.length = 8) :
    cutOctets s.ctl.op s.store w left = w.data ∨ (storedCopy (cutOff left s).store sd copyB = none ∧
      newestCopy (cutOff left s).store sd = (storedCopy s.store sd (!copyB)).map fun c => (!copyB, c)) := by
  refine (cutOctets_cases s.ctl.op s.store w left).imp id fun ⟨hcut, hmay⟩ => ?_
  have hfound := cutOff_found (left := left) hm h hd
  have hinvalid : lockCopyValid sd (cutOctets s.ctl.op s.store w left) = false := by
    rw [mayLeave_record hr, hrec] at hmay
    rw [hcut]; simpa [recordCut] using hmay
  have hnone : storedCopy (cutOff left s).store sd copyB = none := by
    rw [storedCopy, ← ha, ← hl, hfound, hinvalid]; rfl
  have hother : storedCopy (cutOff left s).store sd (!copyB) = storedCopy s.store sd (!copyB) := by
    rw [storedCopy, storedCopy, cutOff_outside_octets hm h (by rw [ha, hl]; exact lockCopyAddr_apart sd copyB)]
  exact ⟨hnone, by rw [newestCopy_other hnone, hother]⟩

/-- A trip log slot whose write was cut off: without a valid record in it the other slots give the log's position. -/
theorem cutOff_slot (hm : StoreCanonical s) (h : currentWrite s.ctl.op = some w) (hd : w.done = false) {k : Nat}
    (ha : w.addr = slotAddr k) (hl : w.data.length = 32)
    (hv : tripRecordValid (cutOctets s.ctl.op s.store w left) = false) :
    slotNumber (cutOff left s).store k = 0 ∧
      ∀ i, i < 64 → i ≠ k → slotNumber (cutOff left s).store i = slotNumber s.store i := by
  have hfound := cutOff_found (left := left) hm h hd
  refine ⟨?_, fun i hi hne => ?_⟩
  · rw [ha, hl] at hfound
    rw [slotNumber, slotOctets, hfound, hv]; rfl
  · have : slotOctets (cutOff left s).store i = slotOctets s.store i :=
      cutOff_outside_octets hm h (by rw [ha, hl]; unfold slotAddr; omega)
    rw [slotNumber, slotNumber, this]

/-- The next record goes into the slot that a write cut off has left without a valid record. -/
theorem logPosition_atSlot {m m' : Memory} {k : Nat} (free : Nat) (hk : k < 64) (h0 : slotNumber m k = 0)
    (hsame : ∀ i, i < 64 → i ≠ k → slotNumber m i = slotNumber m' i) (hn : slotNumber m' ((k + 63) % 64) ≠ 0)
    (hmax : ∀ i, i < 64 → i ≠ k → i ≠ (k + 63) % 64 → slotNumber m' i < slotNumber m' ((k + 63) % 64)) :
    logPosition m free = (k, numberAfter (slotNumber m' ((k + 63) % 64))) := by
  have hnk : (k + 63) % 64 ≠ k := by omega
  have hnew := hsame _ (Nat.mod_lt _ (by decide)) hnk
  rw [logPosition_after free (Nat.mod_lt _ (by decide)) (by rw [hnew]; exact hn), hnew,
    show ((k + 63) % 64 + 1) % 64 = k by omega]
  intro i hi hne
  rw [hnew]
  by_cases e : i = k
  · rw [e, h0]; exact Nat.pos_of_ne_zero hn
  · rw [hsame i hi e]; exact hmax i hi e hne

/-- Settles O7: the part without power, the octets outside the write, and the write's own page by what it wrote. -/
theorem powerLossStopsPart : Obligations.PowerLossStopsPart := by
  refine ⟨fun c s => exec_unpowered, fun left s hp hm => powerLoss_stops hp hm left, ?_⟩
  intro left w s hm hw hd m found l writes
  have hfound : found = cutOctets s.ctl.op s.store w left := cutOff_found hm hw hd
  rw [hfound]
  refine ⟨(cutOctets_cases ..).imp id And.left, fun who k hop => ⟨fun h0 h11 => ?_, fun hne => ?_, fun hk heq => ?_⟩,
    fun r sd locked reason count hr hrec hv => ?_, fun r x hr hrec => ?_, fun who hop => cutOff_firstPage hm hop hd,
    cutOff_besideSignature hm hw, fun who hop => cutOff_lastPage hm hop hd,
    fun r sd copyB locked reason count hr hrec => cutOff_lockCopy hm hw hd hr hrec, fun k free hk ha hl hv => ?_⟩
  · exact cutOctets_commit hop (signatureCut_between h0 h11 ..)
  · exact cutOctets_commit hop (signatureCut_unsigned hne ..)
  · subst hk; exact cutOctets_commit hop (signatureCut_first.2 (Or.inr heq))
  · exact cutOctets_record hr (by rw [hrec]; simpa [recordCut] using hv)
  · exact cutOctets_record hr (by rw [hrec]; rfl)
  · obtain ⟨hzero, hsame⟩ := cutOff_slot hm hw hd ha hl hv
    refine ⟨hzero, hsame, fun hn hmax => ?_⟩
    have hlog := logPosition_atSlot free hk hzero hsame hn hmax
    exact ⟨by rw [hlog], by rw [hlog]; rfl⟩

end

end Sys2Proof.Machine
end

section
/-! The route reset (R81, R26, R133, R142, R170, R193): the sides, the blocks, and the records that the Store Controller
takes before it drains. -/

namespace Sys2Proof.Machine

/-! ### Records handed on one after the other -/

/-- What the Store Controller looks at when it takes a record. -/
structure SameDesk (s t : State) : Prop where
  ctl : t.ctl = s.ctl
  choices : t.choices = s.choices
  time : t.time = s.time
  tab : t.tab = s.tab
  position : t.position = s.position

/-- From the first state to the other these records are handed to the Store Controller, one after the other. -/
inductive QueuesUp (s : State) : List StoreRecord → State → Prop
  | none : QueuesUp s [] s
  | other {l t u} : QueuesUp s l t → SameDesk t u → QueuesUp s l u
  | record {l t} (r : StoreRecord) : QueuesUp s l t → QueuesUp s (l ++ [r]) (queueRecord r t)

section
variable {s t u v : State} {sd : Side} {l : List StoreRecord}

theorem SameDesk.of_still (h : still t = still s) (hc : t.ctl = s.ctl) (hch : t.choices = s.choices) : SameDesk s t :=
  ⟨hc, hch, congrArg Still.time h, congrArg Still.tab h, congrArg Still.position h⟩

/-- A busy controller takes them into its queue. -/
theorem QueuesUp.takes (h : QueuesUp s l t) : Takes l s t := by
  induction h with
  | none => exact .none rfl rfl
  | other _ hd ih => exact ih.after hd.ctl hd.choices
  | record r _ ih => exact ih.trans (queueRecord_takes r _)

theorem QueuesUp.desk (h : QueuesUp s l t) : t.time = s.time ∧ t.tab = s.tab ∧ t.position = s.position := by
  induction h with
  | none => exact ⟨rfl, rfl, rfl⟩
  | other _ hd ih =>
    obtain ⟨h1, h2, h3⟩ := ih
    exact ⟨hd.time.trans h1, hd.tab.trans h2, hd.position.trans h3⟩
  | @record l t r _ ih =>
    obtain ⟨-, hpos, htime, -, -, -, htab, -⟩ := still_fields (queueRecord_still r t)
    obtain ⟨h1, h2, h3⟩ := ih
    exact ⟨htime.trans h1, htab.trans h2, hpos.trans h3⟩

/-! ### A controller that drains (R193) -/

/-- The controller drains, in RECORDING. -/
def Draining (s : State) : Prop := s.ctl.draining = true ∧ ∃ w, s.ctl.op = .recording w

theorem startRecords_draining (l : List StoreRecord) (h : Draining s) : Draining (startRecords l s) := by
  induction l generalizing s with
  | nil =>
    obtain ⟨hd, w, hop⟩ := h
    simp only [startRecords, recordsDone, hop, setOp, onCtl, hd, if_true]
    exact ⟨rfl, none, rfl⟩
  | cons r l ih =>
    obtain ⟨hd, w, hop⟩ := h
    unfold startRecords; split
    · exact ⟨hd, some ⟨r, recordWrite s r⟩, by show withRecord _ s.ctl.op = _; rw [hop]; rfl⟩
    · refine ih ⟨?_, w, ?_⟩
      · show (faultRecord r s.ctl).draining = true
        rw [faultRecord_eq, recordLost_draining]; exact hd
      · exact (faultRecord_op r s.ctl).trans hop

theorem startIfWaiting_draining (h : Draining s) : Draining (startIfWaiting s) := by
  obtain ⟨hd, w, hop⟩ := h
  unfold startIfWaiting; split
  · exact ⟨hd, w, hop⟩
  · rw [hop]
    cases w with
    | none => exact startRecords_draining _ ⟨hd, none, hop⟩
    | some w => exact ⟨hd, some w, hop⟩

theorem joinRecord_draining (r : StoreRecord) (c : StoreCtl) : (joinRecord r c).draining = c.draining := by
  have hend : (joinEnd r c).draining = c.draining := by unfold joinEnd; split <;> rfl
  unfold joinRecord; split
  · exact hend
  · split
    · rfl
    · exact hend

theorem foldl_joinRecord_draining (l : List StoreRecord) (c : StoreCtl) :
    (l.foldl (fun c r => joinRecord r c) c).draining = c.draining := by
  induction l generalizing c with
  | nil => rfl
  | cons r l ih => rw [List.foldl_cons, ih, joinRecord_draining]

theorem queueRecord_draining (r : StoreRecord) (h : Draining s) : Draining (queueRecord r s) := by
  obtain ⟨hd, w, hop⟩ := h
  have hjoined : Draining (onCtl (joinRecord r) s) :=
    ⟨(joinRecord_draining r s.ctl).trans hd, w, (joinRecord_op r s.ctl).trans hop⟩
  unfold queueRecord; dsimp only; split
  · exact hjoined
  · exact startIfWaiting_draining hjoined

theorem QueuesUp.draining (h : QueuesUp s l t) (hs : Draining s) : Draining t := by
  induction h with
  | none => exact hs
  | other _ hd ih => unfold Draining at ih ⊢; rw [hd.ctl]; exact ih
  | record r _ ih => exact queueRecord_draining r ih

/-! ### A controller that waits with an empty queue -/

/-- Each record of the list finds room at the end of the queue, and none takes another's place. -/
def Fits (l : List StoreRecord) : Prop :=
  l.length ≤ 4 ∧ l.Pairwise fun a b => ∀ sd, b.locksSide sd = true → a.locksSide sd = false

theorem joinRecord_end {r : StoreRecord} {c : StoreCtl} (hroom : c.queue.length < 4)
    (hown : ∀ a ∈ c.queue, ∀ sd, r.locksSide sd = true → a.locksSide sd = false) :
    joinRecord r c = { c with queue := c.queue ++ [r] } := by
  have hend : joinEnd r c = { c with queue := c.queue ++ [r] } := if_pos hroom
  cases r with
  | trip x => exact hend
  | lock sd a b n =>
    refine (if_neg ?_).trans hend
    simp only [List.any_eq_true, not_exists, not_and]
    intro x hx hlock
    rw [hown x hx sd (by simp [StoreRecord.locksSide])] at hlock
    exact Bool.false_ne_true hlock

theorem Fits.init {r : StoreRecord} (h : Fits (l ++ [r])) : Fits l := by
  obtain ⟨hlen, hpair⟩ := h
  rw [List.length_append] at hlen
  exact ⟨by omega, (List.pairwise_append.1 hpair).1⟩

theorem Fits.last {r : StoreRecord} (h : Fits (l ++ [r])) :
    l.length < 4 ∧ ∀ a ∈ l, ∀ sd, r.locksSide sd = true → a.locksSide sd = false := by
  obtain ⟨hlen, hpair⟩ := h
  rw [List.length_append, List.length_singleton] at hlen
  exact ⟨by omega, fun a ha => (List.pairwise_append.1 hpair).2.2 a ha r (List.mem_singleton_self r)⟩

/-- The controller has begun with the first record of a list, and the others wait. -/
def beginning (s : State) : List StoreRecord → StoreCtl
  | [] => s.ctl
  | r :: q => { s.ctl with op := .recording (some ⟨r, recordWrite s r⟩), queue := q }

/-- The controller waits in RECORDING with nothing queued, and every access will be acknowledged. -/
structure Waits (s : State) : Prop where
  op : s.ctl.op = .recording none
  queue : s.ctl.queue = []
  acks : s.choices.acks = []

theorem Waits.asked (h : Waits s) : { s.choices with acks := s.choices.acks.tail } = s.choices := by
  have he := h.acks
  cases hc : s.choices
  rw [hc] at he
  cases he; rfl

/-- A controller that waits begins to write the records of its queue. -/
theorem startRecords_waits {r : StoreRecord} {q : List StoreRecord} (h : Waits s)
    (hc : u.ctl = { s.ctl with queue := r :: q }) (hch : u.choices = s.choices) (htime : u.time = s.time)
    (htab : u.tab = s.tab) (hpos : u.position = s.position) :
    (startRecords (r :: q) u).choices = s.choices ∧ (startRecords (r :: q) u).ctl = beginning s (r :: q) := by
  have hack : ackOf u = true := by unfold ackOf; rw [hch, h.acks]; rfl
  have hw : recordWrite u r = recordWrite s r :=
    recordWrite_congr r (by rw [hc]) (by rw [hc]) (by rw [hc]) htime htab hpos
  unfold startRecords; rw [if_pos hack, hw]
  refine ⟨?_, ?_⟩
  · show { u.choices with acks := u.choices.acks.tail } = s.choices
    rw [hch, h.asked]
  · show ({ u.ctl with op := withRecord _ u.ctl.op, queue := q } : StoreCtl) = _
    rw [hc]
    show ({ s.ctl with op := withRecord _ s.ctl.op, queue := q } : StoreCtl) = _
    rw [h.op]; rfl

theorem startIfWaiting_waits {r : StoreRecord} {q : List StoreRecord} (h : Waits s)
    (hc : u.ctl = { s.ctl with queue := r :: q }) : startIfWaiting u = startRecords (r :: q) u := by
  unfold startIfWaiting; rw [hc]
  simp only [List.isEmpty_cons, Bool.false_eq_true, if_false, h.op]

/-- What a controller that waits has of the records handed to it. -/
theorem QueuesUp.waits (h : QueuesUp s l t) (hs : Waits s) (hl : Fits l) : t.choices = s.choices ∧
    t.ctl = if s.choices.lateStart then { s.ctl with queue := l } else beginning s l := by
  induction h with
  | none =>
    refine ⟨rfl, ?_⟩
    split
    · rw [← hs.queue]
    · rfl
  | other _ hd ih =>
    obtain ⟨hch, hc⟩ := ih hl
    exact ⟨hd.choices.trans hch, hd.ctl.trans hc⟩
  | @record l t r hq ih =>
    obtain ⟨hch, hc⟩ := ih hl.init
    obtain ⟨hroom, hown⟩ := hl.last
    obtain ⟨htime, htab, hpos⟩ := hq.desk
    cases hlate : s.choices.lateStart with
    | true =>
      rw [hlate, if_pos rfl] at hc
      have hjoin : joinRecord r t.ctl = { s.ctl with queue := l ++ [r] } := by
        rw [hc]; exact joinRecord_end hroom hown
      have hqueued : queueRecord r t = onCtl (joinRecord r) t :=
        if_pos (show t.choices.lateStart = true by rw [hch, hlate])
      rw [hqueued, if_pos rfl]
      exact ⟨hch, hjoin⟩
    | false =>
      rw [hlate, if_neg Bool.false_ne_true] at hc
      rw [if_neg Bool.false_ne_true]
      cases l with
      | nil =>
        have hjoin : joinRecord r t.ctl = { s.ctl with queue := [r] } := by
          rw [hc]; exact joinRecord_empty r s.ctl hs.queue
        have hqueued : queueRecord r t = startIfWaiting (onCtl (joinRecord r) t) :=
          if_neg (show ¬ t.choices.lateStart = true by rw [hch, hlate]; decide)
        rw [hqueued, startIfWaiting_waits hs hjoin]
        exact startRecords_waits hs hjoin hch htime htab hpos
      | cons a q =>
        have hbusy : Busy t := by
          unfold Busy; rw [hc]; exact ⟨StoreOp.noConfusion, by simp [beginning]⟩
        rw [queueRecord_joins r t hbusy.1 hbusy.2]
        refine ⟨hch, ?_⟩
        show joinRecord r t.ctl = _
        rw [hc]
        exact joinRecord_end (Nat.lt_of_succ_lt hroom) fun x hx => hown x (List.mem_cons_of_mem _ hx)

/-- At the end of the command the first of them is being written. -/
theorem QueuesUp.settled (h : QueuesUp s l t) (hs : Waits s) (hl : Fits l) (ht : SameDesk t u) :
    (settle u).ctl = beginning s l := by
  obtain ⟨hch, hc⟩ := (h.other ht).waits hs hl
  obtain ⟨htime, htab, hpos⟩ := (h.other ht).desk
  cases l with
  | nil =>
    have hctl : u.ctl = s.ctl := by
      rw [hc]; split
      · show ({ s.ctl with queue := [] } : StoreCtl) = s.ctl
        rw [← hs.queue]
      · rfl
    rw [settle_empty u (by rw [hctl]; exact hs.queue)]; exact hctl
  | cons r q =>
    cases hlate : s.choices.lateStart with
    | true =>
      rw [hlate, if_pos rfl] at hc
      show (startIfWaiting u).ctl = _
      rw [startIfWaiting_waits hs hc]
      exact (startRecords_waits hs hc hch htime htab hpos).2
    | false =>
      rw [hlate, if_neg Bool.false_ne_true] at hc
      have hbusy : Busy u := by
        unfold Busy; rw [hc]; exact ⟨StoreOp.noConfusion, by simp [beginning]⟩
      rw [settle_busy hbusy.1 hbusy.2]; exact hc

end

end Sys2Proof.Machine
end

section
/-! The route reset at both sides and in every block (R81, R26, R133, R142, R170, R193). -/

namespace Sys2Proof.Machine

section
variable {s t u v : State} {sd x : Side} {l : List StoreRecord}

/-! ### The sides in the command's order -/

theorem eq_or_other (x sd : Side) : sd = x ∨ sd = x.other := by cases x <;> cases sd <;> simp [Side.other]

/-- The side that an event handed to both reaches first. -/
def firstSide (c : Choices) : Side := if c.eastFirst then .east else .west

theorem bothSides_inOrder (f : Side → State → State) (s : State) :
    bothSides f s = f (firstSide s.choices).other (f (firstSide s.choices) s) := by
  unfold bothSides firstSide; cases s.choices.eastFirst <;> rfl

theorem sidesInOrder (c : Choices) :
    (if c.eastFirst then [.east, .west] else [.west, .east]) = [firstSide c, (firstSide c).other] := by
  unfold firstSide; cases c.eastFirst <;> rfl

theorem firstSide_still (h : still t = still s) : firstSide t.choices = firstSide s.choices := by
  unfold firstSide; rw [show t.choices.eastFirst = s.choices.eastFirst from congrArg Still.eastFirst h]

theorem filter_map_pair {α β : Type} (p : α → Bool) (f : α → β) (a b : α) :
    ([a, b].filter p).map f = (if p a then [f a] else []) ++ (if p b then [f b] else []) := by
  cases ha : p a <;> cases hb : p b <;> simp [List.filter, ha, hb]

/-! ### Step 1 of R81 at both sides -/

theorem tripRecordOf_still (h : still t = still s) (hs : stateOf t sd = stateOf s sd) (c : Cause) :
    tripRecordOf sd c t = tripRecordOf sd c s := by
  obtain ⟨-, hpos, -, -, hports, -, htab, hscan, hhold, -⟩ := still_fields h
  simp only [tripRecordOf, hs, farView, hports, rxValue, rxInput, latestOf, txReading, hscan, hhold, htab]

/-- The trip record of a side's cut. -/
def resetTrip (s : State) (sd : Side) : StoreRecord := .trip (tripRecordOf sd .reset s)

theorem resetCut_queues (h : QueuesUp s l u) (hst : still u = still s) (hs : u.side = s.side) (sd : Side) :
    QueuesUp s (l ++ if (stateOf s sd).lights then [resetTrip s sd] else []) (resetCut sd u) := by
  have hstate : stateOf u sd = stateOf s sd := by unfold stateOf; rw [hs]
  have htrip : tripRecordOf sd .reset u = tripRecordOf sd .reset s := tripRecordOf_still hst hstate _
  unfold resetCut; rw [hstate, htrip]
  split
  · exact .record _ (h.other ⟨rfl, rfl, rfl, rfl, rfl⟩)
  · rw [List.append_nil]; exact h

/-- Both sides' cuts, in the command's order. -/
theorem resetCuts_queues (s : State) : QueuesUp s
    (([firstSide s.choices, (firstSide s.choices).other].filter fun sd => (stateOf s sd).lights).map (resetTrip s))
    (bothSides resetCut s) := by
  rw [bothSides_inOrder, filter_map_pair]
  have h := resetCut_queues (.none (s := s)) rfl rfl (firstSide s.choices)
  exact resetCut_queues h (resetCut_still ..) (resetCut_side ..) _

theorem resetCuts_side (s : State) : (bothSides resetCut s).side = s.side := by
  rw [bothSides_inOrder, resetCut_side, resetCut_side]

theorem resetCuts_darker (s : State) : Darker s.pdu (bothSides resetCut s).pdu := by
  rw [bothSides_inOrder]
  exact Darker.trans (resetCut_darker _ s) (resetCut_darker _ _)

theorem resetCuts_cut (sd : Side) (s : State) : CutDark sd (bothSides resetCut s) := by
  unfold bothSides; split <;> cases sd
  · exact resetCut_cut _ _
  · exact (resetCut_cut _ _).resetCut
  · exact (resetCut_cut _ _).resetCut
  · exact resetCut_cut _ _

/-! ### Steps 2 to 5 of R81 at both sides -/

theorem SideRecord.routeReset_lockout {r : SideRecord} (latch : Bool) (h : r.state = .lockout) :
    r.routeReset latch = { r.cleared with agree := Agreement.reset, lock := { r.lock with arming := none } } := by
  unfold SideRecord.routeReset; rw [if_pos h]

theorem SideRecord.routeReset_latched {r : SideRecord} (h : r.state ≠ .lockout) :
    r.routeReset true = { r.cleared with
      agree := Agreement.reset, state := .lockout, reason := .cut, lock := r.lock.entered .cut } := by
  unfold SideRecord.routeReset; rw [if_neg h, if_pos rfl]

theorem SideRecord.routeReset_free {r : SideRecord} (h : r.state ≠ .lockout) :
    r.routeReset false = { r.cleared with
      agree := Agreement.reset, lock := { r.lock with arming := none }
      state := .unconfigured, reason := .reset, failures := [] } := by
  unfold SideRecord.routeReset; rw [if_neg h, if_neg Bool.false_ne_true]

/-- The lock record of a side that the master cut keeps. -/
def resetLock (s : State) (sd : Side) : StoreRecord := .lock sd true .cut ((s.side.get sd).lock.count + 1)

/-- Whether step 4 of R81 hands on a side's lock record. -/
def resetLocks (s : State) (sd : Side) : Bool := s.pdu.latch && stateOf s sd != .lockout

theorem resetSide_queues (h : QueuesUp s l u) (hst : still u = still s) (hs : u.side.get sd = s.side.get sd) :
    QueuesUp s (l ++ if resetLocks s sd then [resetLock s sd] else []) (resetSide sd u) := by
  have hstate : stateOf u sd = stateOf s sd := by unfold stateOf; rw [hs]
  have hlatch : u.pdu.latch = s.pdu.latch := congrArg Still.latch hst
  have hmoved := h.other (u := modSide sd (SideRecord.routeReset u.pdu.latch) u) ⟨rfl, rfl, rfl, rfl, rfl⟩
  unfold resetSide resetLocks; dsimp only; rw [hstate]
  by_cases hl : stateOf s sd ≠ .lockout ∧ u.pdu.latch = true
  · have hb : (s.pdu.latch && stateOf s sd != .lockout) = true := by simp [← hlatch, hl]
    have hrec : lockRecordOf sd (modSide sd (SideRecord.routeReset u.pdu.latch) u) = resetLock s sd := by
      have hne : (s.side.get sd).state ≠ .lockout := hl.1
      rw [lockRecordOf, modSide_side, Sides.get_set, hl.2, hs, SideRecord.routeReset_latched hne]; rfl
    rw [if_pos hl, hb, if_pos rfl, hrec]
    exact hmoved.record _
  · have hb : (s.pdu.latch && stateOf s sd != .lockout) = false := by
      rw [← hlatch, Bool.and_eq_false_iff]
      by_cases hlk : stateOf s sd = .lockout
      · exact Or.inr (by rw [hlk]; rfl)
      · exact Or.inl (by simpa [hlk] using hl)
    rw [if_neg hl, hb, if_neg Bool.false_ne_true, List.append_nil]; exact hmoved

/-- Both sides after the cuts, in the command's order. -/
theorem resetSides_queues (h : QueuesUp s l u) (hst : still u = still s) (hs : u.side = s.side) :
    QueuesUp s (l ++ ([firstSide s.choices, (firstSide s.choices).other].filter (resetLocks s)).map (resetLock s))
      (bothSides resetSide u) := by
  rw [bothSides_inOrder, firstSide_still hst, filter_map_pair, ← List.append_assoc]
  have hfirst := resetSide_queues (sd := firstSide s.choices) h hst (by rw [hs])
  refine resetSide_queues hfirst ((resetSide_still ..).trans hst) ?_
  rw [resetSide_side, Sides.get_set_ne _ _ _ _ (Side.other_ne _), hs]

theorem resetSides_side (s : State) (sd : Side) :
    (bothSides resetSide s).side.get sd = (s.side.get sd).routeReset s.pdu.latch := by
  have hother (x : Side) (u : State) : (resetSide x.other (resetSide x u)).side =
      (u.side.set x ((u.side.get x).routeReset u.pdu.latch)).set x.other
        ((u.side.get x.other).routeReset u.pdu.latch) := by
    rw [resetSide_side, resetSide_pdu, resetSide_side, Sides.get_set_other]
  rw [bothSides_inOrder, hother]
  rcases eq_or_other (firstSide s.choices) sd with h | h
  · rw [h, Sides.get_other_set, Sides.get_set]
  · rw [h, Sides.get_set]

theorem resetSides_pdu (s : State) : (bothSides resetSide s).pdu = s.pdu := by
  rw [bothSides_inOrder, resetSide_pdu, resetSide_pdu]

/-! ### The reset as a whole -/

/-- The sides after a route reset: the records handed on stand, and the blocks are yet to come. -/
def sidesReset (s : State) : State := bothSides resetSide (bothSides resetCut s)

/-- The records of a route reset, in their order. -/
def resetRecords (s : State) : List StoreRecord :=
  (([firstSide s.choices, (firstSide s.choices).other].filter fun sd => (stateOf s sd).lights).map (resetTrip s)) ++
    ([firstSide s.choices, (firstSide s.choices).other].filter (resetLocks s)).map (resetLock s)

theorem sidesReset_queues (s : State) : QueuesUp s (resetRecords s) (sidesReset s) :=
  resetSides_queues (resetCuts_queues s) (bothSides_still _ resetCut_still s) (resetCuts_side s)

theorem sidesReset_still (s : State) : still (sidesReset s) = still s :=
  (bothSides_still _ resetSide_still _).trans (bothSides_still _ resetCut_still s)

theorem sidesReset_side (s : State) (sd : Side) :
    (sidesReset s).side.get sd = (s.side.get sd).routeReset s.pdu.latch := by
  have hlatch : (bothSides resetCut s).pdu.latch = s.pdu.latch :=
    congrArg Still.latch (bothSides_still _ resetCut_still s)
  rw [sidesReset, resetSides_side, resetCuts_side, hlatch]

theorem sidesReset_darker (s : State) : Darker s.pdu (sidesReset s).pdu := by
  rw [sidesReset, resetSides_pdu]; exact resetCuts_darker s

theorem sidesReset_dark {n : Nat} (hl : (stateOf s sd).lights = true) (hn : n ∈ pumpsUp s.tab sd) :
    driveOf (sidesReset s).pdu n = 0 := by
  have hcut := resetCuts_cut sd s
  have hstate : stateOf (bothSides resetCut s) sd = stateOf s sd := by unfold stateOf; rw [resetCuts_side]
  have htab : (bothSides resetCut s).tab = s.tab := congrArg Still.tab (bothSides_still _ resetCut_still s)
  rw [sidesReset, resetSides_pdu]
  exact hcut (by rw [hstate]; exact hl) n (by rw [htab]; exact hn)

/-- Under the law of lit pumps every pump is then at zero. -/
theorem sidesReset_allDark (h : PumpLaw s) (n : Nat) : driveOf (sidesReset s).pdu n = 0 := by
  rcases sidesReset_darker s n with hsame | hzero
  · by_contra hne
    rw [hsame] at hne
    obtain ⟨sd, ⟨hn, hs⟩ | ⟨hn, hs⟩⟩ := h n hne
    · refine hne (hsame ▸ sidesReset_dark ?_ hn)
      simp only [List.mem_cons, List.not_mem_nil, or_false] at hs
      rcases hs with hs | hs | hs <;> rw [hs] <;> rfl
    · exact hne (hsame ▸ sidesReset_dark (by rw [hs]; rfl) (mem_pumpsUp_of_probeLit hn))
  · exact hzero

/-- The records fit the queue of a controller with nothing waiting: one trip and one lock record of each side at most. -/
theorem resetRecords_fit (s : State) : Fits (resetRecords s) := by
  have hsides : [firstSide s.choices, (firstSide s.choices).other].Nodup := by
    simp [(Side.other_ne (firstSide s.choices)).symm]
  refine ⟨?_, List.pairwise_append.2 ⟨List.pairwise_map.2 ?_, List.pairwise_map.2 ?_, fun a ha b _ sd _ => ?_⟩⟩
  · have hlen (p : Side → Bool) := List.length_filter_le p [firstSide s.choices, (firstSide s.choices).other]
    have h1 := hlen fun sd => (stateOf s sd).lights
    have h2 := hlen (resetLocks s)
    simp only [resetRecords, List.length_append, List.length_map, List.length_cons, List.length_nil] at h1 h2 ⊢
    omega
  · exact List.pairwise_of_forall fun _ _ _ h => absurd h Bool.false_ne_true
  · refine (hsides.filter _).imp fun {a b} hab sd hb => ?_
    have hbs : b = sd := eq_of_beq hb
    exact beq_eq_false_iff_ne.2 (hbs ▸ hab)
  · obtain ⟨x, -, rfl⟩ := List.mem_map.1 ha
    rfl

/-! ### The Store Controller in a route reset (R193) -/

/-- What a controller with an access of its own has after the reset: the records are in its queue. -/
theorem settle_reset_busy (h : Busy s) :
    (settle (resetBlocks (sidesReset s))).ctl = (resetRecords s).foldl (fun c r => joinRecord r c) s.ctl := by
  have htakes := (sidesReset_queues s).takes
  have hbusy : Busy (resetBlocks (sidesReset s)) := htakes.busy h
  rw [settle_busy hbusy.1 hbusy.2]; exact (htakes h).1

theorem settle_reset_draining (h : Draining s) : Draining (settle (resetBlocks (sidesReset s))) :=
  startIfWaiting_draining (s := resetBlocks (sidesReset s)) ((sidesReset_queues s).draining h)

theorem settle_reset_waits (h : Waits s) :
    (settle (resetBlocks (sidesReset s))).ctl = beginning s (resetRecords s) :=
  (sidesReset_queues s).settled h (resetRecords_fit s) ⟨rfl, rfl, rfl, rfl, rfl⟩

/-- The state in which the route reset meets the sides. -/
def resetBegun (ch : Choices) (s : State) : State :=
  onCtl (fun c => { c with op := drainOp c.op, draining := true }) (withChoices ch s)

theorem exec_routeReset_due (hp : s.powered = true) (hdue : s.msg.resetPhase = .due) (ch : Choices) :
    exec (.routeReset ch) s = .next (settle (resetBlocks (sidesReset (resetBegun ch s)))) := by
  rw [exec_routeReset ch hp, routeResetNow, if_pos (show (withChoices ch s).msg.resetPhase = .due from hdue)]; rfl

theorem drainOp_recording {op : StoreOp} (h : ∀ who n part, op ≠ .reading who n part) : ∃ w, drainOp op = .recording w := by
  cases op with
  | reading who n part => exact absurd rfl (h who n part)
  | recording w => exact ⟨w, rfl⟩
  | idle => exact ⟨none, rfl⟩
  | loading o st v => exact ⟨none, rfl⟩
  | committing who k w => exact ⟨none, rfl⟩
  | suspended who k w => exact ⟨none, rfl⟩

/-- The records of the reset as they are read off the state before it. -/
theorem resetRecords_begun (ch : Choices) (s : State) :
    let order : List Side := if ch.eastFirst then [.east, .west] else [.west, .east]
    resetRecords (resetBegun ch s) =
      ((order.filter fun sd => (stateOf s sd).lights).map fun sd => .trip (tripRecordOf sd .reset s)) ++
      (if s.pdu.latch then (order.filter fun sd => stateOf s sd != .lockout).map fun sd =>
        .lock sd true .cut ((s.side.get sd).lock.count + 1) else []) := by
  intro order
  have horder : order = [firstSide ch, (firstSide ch).other] := sidesInOrder ch
  have hlocks : resetLocks (resetBegun ch s) = fun sd => s.pdu.latch && stateOf s sd != .lockout := rfl
  rw [horder, resetRecords, hlocks]
  refine congrArg₂ (· ++ ·) rfl ?_
  cases s.pdu.latch with
  | true => simp only [Bool.true_and]; rfl
  | false => simp [List.filter]

/-- The Store Controller by the operation that the reset finds. -/
theorem routeReset_controller (ch : Choices) (s : State) :
    let t := settle (resetBlocks (sidesReset (resetBegun ch s)))
    let records := resetRecords (resetBegun ch s)
    t.ctl.draining = true ∧
    (∀ who n part, s.ctl.op = .reading who n part → t.ctl.op = .reading who n part) ∧
    ((∀ who n part, s.ctl.op ≠ .reading who n part) → ∃ w, t.ctl.op = .recording w) ∧
    (∀ w, s.ctl.op = .recording (some w) → t.ctl =
      { records.foldl (fun c r => joinRecord r c) { s.ctl with draining := true } with op := .recording (some w) }) ∧
    (s.ctl.op = .idle → s.ctl.queue = [] → ch.acks = [] →
      (records = [] → t.ctl = { s.ctl with op := .recording none, draining := true }) ∧
      (∀ r rest, records = r :: rest → t.ctl =
        { s.ctl with op := .recording (some ⟨r, recordWrite s r⟩), queue := rest, draining := true })) := by
  intro t records
  have hreading {who : Requester} {n part : Nat} (hop : s.ctl.op = .reading who n part) :
      t.ctl = records.foldl (fun c r => joinRecord r c) (resetBegun ch s).ctl :=
    settle_reset_busy (s := resetBegun ch s) (by
      show drainOp s.ctl.op ≠ _ ∧ drainOp s.ctl.op ≠ _
      rw [hop]; exact ⟨StoreOp.noConfusion, StoreOp.noConfusion⟩)
  have hrecording (h : ∀ who n part, s.ctl.op ≠ .reading who n part) : Draining t :=
    settle_reset_draining (s := resetBegun ch s) ⟨rfl, drainOp_recording h⟩
  refine ⟨?_, fun who n part hop => ?_, fun h => (hrecording h).2, fun w hop => ?_, fun hop hq hack => ?_⟩
  · by_cases h : ∃ who n part, s.ctl.op = .reading who n part
    · obtain ⟨who, n, part, hop⟩ := h
      rw [hreading hop, foldl_joinRecord_draining]; rfl
    · exact (hrecording fun who n part hop => h ⟨who, n, part, hop⟩).1
  · rw [hreading hop, foldl_joinRecord_op]
    show drainOp s.ctl.op = _
    rw [hop]; rfl
  · have hbusy : Busy (resetBegun ch s) := by
      show drainOp s.ctl.op ≠ _ ∧ drainOp s.ctl.op ≠ _
      rw [hop]; exact ⟨StoreOp.noConfusion, by simp [drainOp]⟩
    have hctl : (resetBegun ch s).ctl = { { s.ctl with draining := true } with op := .recording (some w) } := by
      show ({ s.ctl with op := drainOp s.ctl.op, draining := true } : StoreCtl) = _
      rw [hop]; rfl
    show (settle _).ctl = _
    rw [settle_reset_busy hbusy, hctl, foldl_joinRecord_with_op]
  · have hctl : (resetBegun ch s).ctl = { s.ctl with op := .recording none, draining := true } := by
      show ({ s.ctl with op := drainOp s.ctl.op, draining := true } : StoreCtl) = _
      rw [hop]; rfl
    have hwaits : Waits (resetBegun ch s) := ⟨by rw [hctl], hq, hack⟩
    have ht : t.ctl = beginning (resetBegun ch s) records := settle_reset_waits hwaits
    refine ⟨fun h => ?_, fun r rest h => ?_⟩
    · rw [ht, h]; exact hctl
    · have hw : recordWrite (resetBegun ch s) r = recordWrite s r := recordWrite_congr r rfl rfl rfl rfl rfl rfl
      rw [ht, h, beginning, hctl, hw]

/-- R81 leaves every side at rest, with its agreement and its arming forgotten. -/
theorem SideRecord.routeReset_rests (latch : Bool) (r : SideRecord) :
    let t := r.routeReset latch
    t.retry = none ∧ t.settle = none ∧ t.probe = none ∧ t.stepWindow = none ∧ t.proving = none ∧ t.step = none ∧
      t.ready = false ∧ t.verified = false ∧ t.starved = false ∧ t.mismatchRun = 0 ∧ t.rearm = 0 ∧
      t.lock.arming = none ∧ t.agree = Agreement.reset := by
  intro t
  by_cases h : r.state = .lockout
  · rw [show t = _ from SideRecord.routeReset_lockout latch h]
    exact ⟨rfl, rfl, rfl, rfl, rfl, rfl, rfl, rfl, rfl, rfl, rfl, rfl, rfl⟩
  · cases latch with
    | true =>
      rw [show t = _ from SideRecord.routeReset_latched h]
      exact ⟨rfl, rfl, rfl, rfl, rfl, rfl, rfl, rfl, rfl, rfl, rfl, rfl, rfl⟩
    | false =>
      rw [show t = _ from SideRecord.routeReset_free h]
      exact ⟨rfl, rfl, rfl, rfl, rfl, rfl, rfl, rfl, rfl, rfl, rfl, rfl, rfl⟩

theorem resetBlocks_side (s : State) : (settle (resetBlocks s)).side = s.side := settle_side _

theorem resetBlocks_pdu (s : State) : (settle (resetBlocks s)).pdu = { s.pdu with stepdown := ⟨none, none⟩, startCut := true } :=
  settle_pdu _

/-- Settles O5: the sides by R81's steps, the blocks whole, the controller by the operation that the reset finds. -/
theorem routeResetTakesEveryBlock : Obligations.RouteResetTakesEveryBlock := by
  intro ch s hp hdue order records
  have hrecords : resetRecords (resetBegun ch s) = records := resetRecords_begun ch s
  obtain ⟨hdraining, hreading, hrecording, hbusy, hidle⟩ := routeReset_controller ch s
  rw [hrecords] at hbusy hidle
  have hside (sd : Side) : (sidesReset (resetBegun ch s)).side.get sd = (s.side.get sd).routeReset s.pdu.latch :=
    sidesReset_side (resetBegun ch s) sd
  have hstill := sidesReset_still (resetBegun ch s)
  have hdarker : Darker s.pdu (sidesReset (resetBegun ch s)).pdu := sidesReset_darker (resetBegun ch s)
  have hdark {sd : Side} {n : Nat} := sidesReset_dark (s := resetBegun ch s) (sd := sd) (n := n)
  have hall := sidesReset_allDark (s := resetBegun ch s)
  refine ⟨_, exec_routeReset_due hp hdue ch, ?_⟩
  generalize sidesReset (resetBegun ch s) = u at *
  obtain ⟨-, hpos, htime, hlines, -, htx, htab, hscan, -, hloc, hstore, -, hpend, hlatch, -⟩ := still_fields hstill
  obtain ⟨-, kpos, ktime, klines, kports, ktx, ktab, kscan, khold, kloc, kstore, -, kpend, -⟩ :=
    settle_fields (resetBlocks u)
  have hpdu := resetBlocks_pdu u
  refine ⟨fun sd => ?_, ?_, settle_msg _, ?_, ?_, ?_, ?_, ?_, fun n => ?_, fun sd n hl hn => ?_,
    fun hlaw n => ?_, hdraining, hreading, hrecording, hbusy, hidle, ktime.trans htime, kpos.trans hpos,
    klines.trans hlines, ktab.trans htab, kscan.trans hscan, kstore.trans hstore, kpend.trans hpend⟩
  · have hst : (settle (resetBlocks u)).side.get sd = (s.side.get sd).routeReset s.pdu.latch := by
      rw [resetBlocks_side, hside]
    unfold stateOf
    rw [hst, kports, ktx, hpdu]
    obtain ⟨h1, h2, h3, h4, h5, h6, h7, h8, h9, h10, h11, h12, h13⟩ :=
      SideRecord.routeReset_rests s.pdu.latch (s.side.get sd)
    refine ⟨h1, h2, h3, h4, h5, h6, h7, h8, h9, h10, h11, h12, h13, fun hl => ?_, fun hl hlat => ?_, fun hl hlat => ?_,
      ?_, ?_, ?_⟩
    · rw [SideRecord.routeReset_lockout _ hl]; exact ⟨hl, rfl, rfl, rfl⟩
    · rw [hlat, SideRecord.routeReset_latched hl]; exact ⟨rfl, rfl, rfl⟩
    · rw [hlat, SideRecord.routeReset_free hl]; exact ⟨rfl, rfl, rfl, rfl⟩
    · cases sd <;> rfl
    · have hreset : (resetBlocks u).tx.get sd = (u.tx.get sd).routeReset := by cases sd <;> rfl
      rw [hreset, htx]; rfl
    · cases sd <;> rfl
  · rw [khold]
    show { HoldUnit.reset with own := u.lines.hold, view := if u.lines.hold then (1 : PosSet) <<< u.position.val else 0 } = _
    rw [hlines, hpos]; rfl
  · rw [kloc]; rfl
  · rw [kloc]; rfl
  · rw [kloc]
    show u.loc.sent = _
    rw [hloc]; rfl
  · rw [hpdu]
  · rw [hpdu]; exact hlatch
  · rw [hpdu]; exact hdarker n
  · rw [hpdu]; exact hdark hl hn
  · rw [hpdu]; exact hall hlaw n

end

end Sys2Proof.Machine
end

section
/-! One side's event beside the other side (R114, R115): what it leaves of the other side's record, pumps and stepdown,
and what can still be said of a ramp step that passes at one side while the other side acts (R104, R60). -/

namespace Sys2Proof.Machine

/-- Between the two states only side `x` has acted: the other side's record and stepdown stand, its dark pumps stay
dark, and under prerequisites within a side its pumps stand as they were. -/
structure ActsOn (x : Side) (u v : State) : Prop where
  still : still v = still u
  record : v.side.get x.other = u.side.get x.other
  dark : ∀ m, (planOf u.tab m).side = x.other → driveOf u.pdu m = 0 → driveOf v.pdu m = 0
  same : PrereqsOwn u.tab → ∀ m, (planOf u.tab m).side = x.other → SameAt m u.pdu v.pdu
  stepdown : v.pdu.stepdown.get x.other = u.pdu.stepdown.get x.other
  length : v.pdu.drive.length = u.pdu.drive.length

section
variable {s t u v : State} {sd x : Side} {ch : Choices} {n : Nat}

/-! ### The acts of one side -/

theorem ActsOn.tab (h : ActsOn x u v) : v.tab = u.tab := congrArg Still.tab h.still

theorem ActsOn.of_pdu (h1 : Machine.still v = Machine.still u) (h2 : v.side.get x.other = u.side.get x.other)
    (h3 : v.pdu = u.pdu) : ActsOn x u v :=
  ⟨h1, h2, fun _ _ h => by rw [h3]; exact h, fun _ _ _ => by rw [h3]; exact SameAt.refl .., by rw [h3], by rw [h3]⟩

theorem ActsOn.refl (x : Side) (u : State) : ActsOn x u u := .of_pdu rfl rfl rfl

theorem ActsOn.trans (h : ActsOn x s t) (k : ActsOn x t u) : ActsOn x s u := by
  have ht := h.tab
  refine ⟨k.still.trans h.still, k.record.trans h.record, fun m hm hd => ?_, fun hp m hm => ?_,
    k.stepdown.trans h.stepdown, k.length.trans h.length⟩
  · exact k.dark m (by rw [ht]; exact hm) (h.dark m hm hd)
  · exact (h.same hp m hm).trans (k.same (by rw [ht]; exact hp) m (by rw [ht]; exact hm))

/-- The state alone that its own record and what it hands on differ. -/
theorem ActsOn.then (h : ActsOn x s t) (h1 : Machine.still u = Machine.still t) (h2 : u.side = t.side)
    (h3 : u.pdu = t.pdu) : ActsOn x s u := h.trans (.of_pdu h1 (by rw [h2]) h3)

theorem ActsOn.modSide (x : Side) (f : SideRecord → SideRecord) (u : State) : ActsOn x u (modSide x f u) :=
  .of_pdu rfl (Sides.get_set_other ..) rfl

theorem ActsOn.onToHold (x : Side) (u : State) : ActsOn x u (onToHold x u) := by
  unfold Machine.onToHold; split
  · exact .modSide ..
  · exact .refl ..

theorem ActsOn.queueRecord (h : ActsOn x s t) (r : StoreRecord) : ActsOn x s (queueRecord r t) :=
  h.then (queueRecord_still ..) (queueRecord_side ..) (queueRecord_pdu ..)

theorem ActsOn.sideNotice (h : ActsOn x s t) (k : Octet) (sd : Side) (c : Cause) (e : SideState) :
    ActsOn x s (sideNotice k sd c e t) :=
  h.then (sideNotice_still ..) (sideNotice_side ..) (sideNotice_pdu ..)

theorem side_of_mem_pumpsUp {m k : Nat} {t : TableMem} (hk : k ∈ pumpsUp t x) (hm : (planOf t m).side = x.other) :
    (planOf t k).side ≠ (planOf t m).side := by
  rw [pumpsUp_side hk, hm]; exact Side.ne_other x

theorem ActsOn.immediateCut (x : Side) (u : State) : ActsOn x u (immediateCut x u) := by
  refine ⟨immediateCut_still .., rfl, fun m _ hd => (immediateCut_darker x u).zero hd, fun hp m hm => ?_, ?_,
    zeroPumps_length ..⟩
  · exact zeroPumps_at hp _ (fun k hk => side_of_mem_pumpsUp (List.mem_reverse.1 hk) hm) u.pdu
  · rw [immediateCut_stepdown, Sides.get_set_other]

theorem ActsOn.fullCommand {k : Nat} (hk : k ∈ pumpsUp u.tab x) : ActsOn x u (fullCommand x k u) := by
  have hne {m : Nat} (hm : (planOf u.tab m).side = x.other) : m ≠ k := fun h =>
    side_of_mem_pumpsUp hk hm (by rw [h])
  refine ⟨fullCommand_still .., rfl, fun m hm hd => ?_, fun hp m hm => ?_, ?_, raisePump_length ..⟩
  · exact (raisePump_others u.tab _ k (planOf u.tab k).full u.pdu (hne hm)).elim (fun h => h.trans hd) id
  · exact raisePump_at hp u.pdu (side_of_mem_pumpsUp hk hm)
  · exact congrArg (Sides.get · x.other) (raisePump_stepdown ..)

theorem ActsOn.litExit (x : Side) (c : Cause) (e : SideState) (f : SideRecord → SideRecord) (u : State) :
    ActsOn x u (litExit x c e f u) :=
  (((ActsOn.modSide x f u).trans (.immediateCut x _)).queueRecord _).sideNotice ..

theorem ActsOn.enterLockout (x : Side) (c k : Cause) (u : State) : ActsOn x u (enterLockout x c k u) := by
  unfold Machine.enterLockout; dsimp only
  refine ActsOn.sideNotice (ActsOn.queueRecord ?_ _) ..
  split
  · exact ((ActsOn.modSide x _ u).trans (.immediateCut x _)).queueRecord _
  · exact .modSide x _ u

theorem ActsOn.tripLit (x : Side) (c : Cause) (u : State) : ActsOn x u (tripLit x c u) := by
  unfold Machine.tripLit; dsimp only; split
  · split
    · exact (ActsOn.litExit ..).trans (.onToHold ..)
    · exact (ActsOn.modSide ..).trans (.enterLockout ..)
  · exact (ActsOn.litExit ..).trans (.onToHold ..)

theorem ActsOn.judgeDarkInput (x : Side) (u : State) : ActsOn x u (judgeDarkInput x u) := by
  unfold Machine.judgeDarkInput; split
  · split
    · exact .modSide ..
    · exact .tripLit ..
  · exact .tripLit ..

theorem ActsOn.enterRun (x : Side) (u : State) : ActsOn x u (enterRun x u) := by
  unfold Machine.enterRun; dsimp only
  have h := (ActsOn.modSide x (fun r => { r with
    state := .run, step := none, stepWindow := none, armed := false, late := false
    proving := some (hdrProving u.tab.tables) }) u).sideNotice 113 x .none .run
  split
  · exact h.trans (.judgeDarkInput ..)
  · exact h

theorem ActsOn.passStep (x : Side) (n : Nat) (u : State) : ActsOn x u (passStep x n u) := by
  unfold Machine.passStep; dsimp only; split
  · exact (ActsOn.modSide ..).trans (.enterRun ..)
  · rename_i k hk
    exact (ActsOn.modSide x _ u).trans
      ((ActsOn.modSide x _ _).trans (.fullCommand (List.mem_of_find?_eq_some hk)))

theorem ActsOn.armByScan (x : Side) (u : State) : ActsOn x u (armByScan x u) := by
  unfold Machine.armByScan; split
  · exact .refl ..
  · split
    · exact (ActsOn.modSide ..).trans (.passStep ..)
    · exact .refl ..

theorem ActsOn.scanCompleted (x : Side) (u : State) : ActsOn x u (scanCompleted x u) := by
  unfold Machine.scanCompleted; split
  · exact .modSide ..
  · exact .armByScan ..

/-- The lead's judgment stays out where East is in neither LISTEN nor PROBE. -/
theorem ActsOn.event {f : Side → State → State} (h : ActsOn x u (f x u)) (hx : x = .east ∨ stateOf u .east ∉ [.listen, .probe]) :
    ActsOn x u (sideEvent f x u) := by
  rcases hx with rfl | hidle
  · rw [sideEvent_east]; exact h
  · cases x with
    | east => rw [sideEvent_east]; exact h
    | west =>
      have hsame : stateOf (f .west u) .east = stateOf u .east := congrArg SideRecord.state h.record
      rw [sideEvent_idle (by rw [hsame]; exact hidle)]; exact h

/-! ### A ramp step that passes, and the lead's judgment after it -/

theorem DarkInputJudged.congr {before : List Made} (h : DarkInputJudged True ch before sd s t)
    (hr : u.side.get sd = t.side.get sd)
    (hd : ∀ n ∈ pumpsUp s.tab sd, driveOf t.pdu n = 0 → driveOf u.pdu n = 0)
    (hp : u.pdu.stepdown.get sd = t.pdu.stepdown.get sd) (hh : still u = still t) {alone : Prop}
    (hc : alone → u.ctl = t.ctl) (hm : alone → u.msg = t.msg) : DarkInputJudged alone ch before sd s u := by
  obtain ⟨hexcused, htrips⟩ := h
  refine ⟨fun r hf hd => ?_, fun hf => ?_⟩
  · obtain ⟨h1, h2, h3⟩ := hexcused r hf hd
    obtain ⟨h4, h5⟩ := h3 trivial
    unfold stateOf at h1 ⊢
    rw [hr]; exact ⟨h1, h2, fun ha => ⟨h4.to (hc ha), h5.to (hm ha)⟩⟩
  · obtain ⟨h1, h2⟩ := htrips hf
    exact ⟨h1.congr hr hd hp, fun ha => (h2 trivial).to hh (hc ha) (hm ha)⟩

theorem RunEntered.congr (h : RunEntered True ch sd s t) (hr : u.side.get sd = t.side.get sd)
    (hd : ∀ n ∈ pumpsUp s.tab sd, driveOf t.pdu n = 0 → driveOf u.pdu n = 0)
    (hp : u.pdu.stepdown.get sd = t.pdu.stepdown.get sd) (hh : still u = still t) {alone : Prop}
    (hc : alone → u.ctl = t.ctl) (hm : alone → u.msg = t.msg) : RunEntered alone ch sd s u := by
  obtain ⟨hlit, hdark⟩ := h
  refine ⟨fun ha => ?_, fun ha => (hdark ha).congr hr hd hp hh hc hm⟩
  obtain ⟨h1, h2, h3, h4, h5⟩ := hlit ha
  obtain ⟨h6, h7⟩ := h5 trivial
  unfold stateOf at h1 ⊢
  rw [hr]; exact ⟨h1, h2, h3, h4, fun ha => ⟨h6.to (hc ha), h7.to (hm ha)⟩⟩

/-- A step that passes leaves its side in RAMP with the next step begun, or in RUN or tripped. -/
theorem StepPassed.judged (h : StepPassed True ch sd n s t) (hr : u.side.get sd = t.side.get sd)
    (hd : ∀ n ∈ pumpsUp s.tab sd, driveOf t.pdu n = 0 → driveOf u.pdu n = 0)
    (hp : u.pdu.stepdown.get sd = t.pdu.stepdown.get sd) (hh : still u = still t) (hc : u.ctl = t.ctl)
    (hm : u.msg = t.msg) (hs : stateOf t sd = .ramp → u = t) : StepPassed True ch sd n s u := by
  obtain ⟨hnext, hrun⟩ := h
  refine ⟨fun k hk => ?_, fun hk => (hrun hk).congr hr hd hp hh (fun _ => hc) fun _ => hm⟩
  have hbegun := hnext k hk
  rw [hs hbegun.1.1]; exact hbegun

/-- An event whose effect is that the current step passes. -/
theorem sideEvent_passes {f : Side → State → State} (h : StepPassed True ch sd n s (f sd s))
    (hstill : still (f sd s) = still s) (hs : stateOf s sd = .ramp) : StepPassed True ch sd n s (sideEvent f sd s) := by
  obtain ⟨hh, hc, hm⟩ := sideEvent_hands f sd s
  obtain ⟨hd, hp⟩ := sideEvent_pumps f sd s (congrArg Still.tab hstill)
  exact h.judged (sideEvent_own ..) hd (by rw [hp]) hh hc hm fun ht => sideEvent_same _ _ _ (ht.trans hs.symm)

/-! ### A ramp step that passes beside an act of the other side -/

/-- What the other side leaves alone where the statement takes the side to be alone. -/
structure Aside (u v : State) : Prop where
  pdu : v.pdu = u.pdu
  ctl : v.ctl = u.ctl
  msg : v.msg = u.msg
  absent : ∀ y, isAbsent v y = isAbsent u y

theorem mem_pumpsUp_assigned {t : TableMem} {k : Nat} (h : k ∈ pumpsUp t sd) : assigned t k = true := (mem_ascending h).1

theorem StepBegun.actedAfter {k : Nat} {alone : Prop} (h : StepBegun True sd k s t) (hk : k ∈ pumpsUp s.tab sd)
    (hst : still t = still s) (ha : ActsOn sd.other t u) (hal : alone → Aside t u) : StepBegun alone sd k s u := by
  obtain ⟨h1, h2, h3, h4, h5, h6⟩ := h
  have hr : u.side.get sd = t.side.get sd := by have := ha.record; rwa [Side.other_other] at this
  have htab : t.tab = s.tab := congrArg Still.tab hst
  have hsame (hp : alone ∨ PrereqsOwn s.tab) {m : Nat} (hm : m ∈ pumpsUp s.tab sd) : SameAt m t.pdu u.pdu := by
    rcases hp with hp | hp
    · rw [(hal hp).pdu]; exact SameAt.refl ..
    · exact ha.same (by rw [htab]; exact hp) m (by rw [htab, Side.other_other]; exact pumpsUp_side hm)
  unfold stateOf at h1
  unfold StepBegun stateOf
  rw [hr]
  refine ⟨h1, h2, h3, h4, h5, fun hl hlen hf hq => ⟨fun hp => ?_, fun hp m hm => ?_⟩⟩
  · obtain ⟨g1, g2, g3⟩ := (h6 hl hlen hf hq).1 (Or.inl trivial)
    refine ⟨(hsame hp hk).1.trans g1, (hsame hp hk).2.trans g2, fun m hm hne => (hsame hp hm).1.trans (g3 m hm hne)⟩
  · rw [(hal hp).pdu]; exact (h6 hl hlen hf hq).2 trivial m hm

/-- The other side acts after the step has passed. -/
theorem StepPassed.actedAfter {alone : Prop} (h : StepPassed True ch sd n s t) (hst : still t = still s)
    (ha : ActsOn sd.other t u) (hal : alone → Aside t u) : StepPassed alone ch sd n s u := by
  obtain ⟨hnext, hrun⟩ := h
  have htab : t.tab = s.tab := congrArg Still.tab hst
  have hr : u.side.get sd = t.side.get sd := by have := ha.record; rwa [Side.other_other] at this
  have hp : u.pdu.stepdown.get sd = t.pdu.stepdown.get sd := by have := ha.stepdown; rwa [Side.other_other] at this
  have hd : ∀ n ∈ pumpsUp s.tab sd, driveOf t.pdu n = 0 → driveOf u.pdu n = 0 := fun n hn =>
    ha.dark n (by rw [htab, Side.other_other]; exact pumpsUp_side hn)
  refine ⟨fun k hk => ?_, fun hk => (hrun hk).congr hr hd hp ha.still (fun h => (hal h).ctl) fun h => (hal h).msg⟩
  obtain ⟨h1, h2⟩ := hnext k hk
  obtain ⟨h3, h4⟩ := h2 trivial
  exact ⟨h1.actedAfter (List.mem_of_find?_eq_some hk) hst ha hal, fun h => ⟨h3.to (hal h).ctl, h4.to (hal h).msg⟩⟩

/-- A side's event takes state `u` as it would take `s`: what it is counted, timed and judged by is the same, its pumps
stand alike where it is alone or prerequisites keep within a side, and alone it hands on to the same queues. -/
structure StandsAs (alone : Prop) (sd : Side) (s u : State) : Prop where
  time : u.time = s.time
  ports : u.ports = s.ports
  tab : u.tab = s.tab
  hold : u.hold = s.hold
  position : u.position = s.position
  state : stateOf u sd = stateOf s sd
  proving : (u.side.get sd).proving = (s.side.get sd).proving
  failures : (u.side.get sd).failures = (s.side.get sd).failures
  lock : (u.side.get sd).lock = (s.side.get sd).lock
  latch : u.pdu.latch = s.pdu.latch
  length : u.pdu.drive.length = s.pdu.drive.length
  own : alone ∨ PrereqsOwn s.tab → ∀ m, (planOf s.tab m).side = sd → driveOf u.pdu m = driveOf s.pdu m
  drives : alone → ∀ m, driveOf u.pdu m = driveOf s.pdu m
  ctl : alone → u.ctl = s.ctl
  msg : alone → u.msg = s.msg
  absent : alone → ∀ y, isAbsent u y = isAbsent s y

theorem darkHolds_still (hst : still u = still s) (sd : Side) : darkHolds u sd = darkHolds s sd := by
  obtain ⟨-, -, -, -, -, -, htab, hscan, -⟩ := still_fields hst
  unfold darkHolds rxInput; rw [htab, hscan]

theorem ActsOn.standsAs {alone : Prop} (ha : ActsOn sd.other s u) (hal : alone → Aside s u) : StandsAs alone sd s u := by
  have hr : u.side.get sd = s.side.get sd := by have := ha.record; rwa [Side.other_other] at this
  obtain ⟨-, hpos, htime, -, hports, -, htab, -, hhold, -, -, -, -, hlatch, -⟩ := still_fields ha.still
  refine ⟨htime, hports, htab, hhold, hpos, congrArg SideRecord.state hr, by rw [hr], by rw [hr], by rw [hr],
    hlatch, ha.length, fun hp m hm => ?_, fun h m => by rw [(hal h).pdu],
    fun h => (hal h).ctl, fun h => (hal h).msg, fun h => (hal h).absent⟩
  rcases hp with hp | hp
  · rw [(hal hp).pdu]
  · exact (ha.same hp m (by rw [Side.other_other]; exact hm)).1

section
variable {alone : Prop}

theorem StepBegun.ofStands {k : Nat} (h : StepBegun True sd k u t) (hk : k ∈ pumpsUp s.tab sd)
    (ha : StandsAs alone sd s u) : StepBegun alone sd k s t := by
  obtain ⟨h1, h2, h3, h4, h5, h6⟩ := h
  rw [ha.tab] at h2 h3 h6
  rw [ha.latch, ha.length] at h6
  refine ⟨h1, h2, h3, h4, h5, fun hl hlen hf hq => ⟨fun hp => ?_, fun hp m hm => ?_⟩⟩
  · have hq' : ∀ q, (planOf s.tab k).prereq = some q → driveOf u.pdu q ≠ 0 := fun q he => by
      rcases hp with hp | hp
      · rw [ha.drives hp]; exact hq q he
      · have hside : (planOf s.tab q).side = sd := (hp k q (mem_pumpsUp_assigned hk) he).trans (pumpsUp_side hk)
        rw [ha.own (Or.inr hp) q hside]; exact hq q he
    obtain ⟨g1, g2, g3⟩ := (h6 hl hlen hf hq').1 (Or.inl trivial)
    exact ⟨g1, g2, fun m hm hne => (g3 m hm hne).trans (ha.own hp m (pumpsUp_side hm))⟩
  · have hq' : ∀ q, (planOf s.tab k).prereq = some q → driveOf u.pdu q ≠ 0 := fun q he => by
      rw [ha.drives hp]; exact hq q he
    rw [← ha.drives hp m]; exact (h6 hl hlen hf hq').2 trivial m hm

theorem Tripped.ofStands {c : Cause} (h : Tripped sd c u t) (ha : StandsAs alone sd s u) : Tripped sd c s t := by
  have hrestart : restartInterval u = restartInterval s := by unfold restartInterval; rw [ha.tab]
  have hrest : tripRest u = tripRest s := by unfold tripRest; rw [ha.tab]
  unfold Tripped RestsWith Extinguished at *
  rw [ha.state, ha.proving, ha.failures, ha.lock, ha.time, ha.tab, ha.hold, hrestart, hrest] at h
  exact h

theorem RecordsHanded.ofStands {l : List StoreRecord} (h : RecordsHanded ch l u t) (ha : StandsAs alone sd s u)
    (hal : alone) : RecordsHanded ch l s t := h.congr (ha.ctl hal) rfl ha.time ha.position ha.tab

theorem NoticesMade.ofStands {l : List Made} (h : NoticesMade l u t) (ha : StandsAs alone sd s u) (hal : alone) :
    NoticesMade l s t := h.congr (ha.msg hal) rfl ha.position (ha.absent hal)

theorem LockoutHandsOn.ofStands {before : List Made} {c k : Cause} {left : SideState}
    (h : LockoutHandsOn ch before sd c k left u t) (ha : StandsAs alone sd s u) (hal : alone) :
    LockoutHandsOn ch before sd c k left s t := by
  have hl : lockedRecord sd c u = lockedRecord sd c s := by unfold lockedRecord; rw [ha.lock]
  obtain ⟨hrec, hmade⟩ := h
  rw [hl] at hrec
  exact ⟨hrec.ofStands ha hal, hmade.ofStands ha hal⟩

theorem TripHandsOn.ofStands {before : List Made} {c : Cause} {left : SideState}
    (h : TripHandsOn ch before sd c left u t) (ha : StandsAs alone sd s u) (hal : alone) :
    TripHandsOn ch before sd c left s t := by
  obtain ⟨hspent, hleft⟩ := h
  rw [ha.state, ha.proving, ha.failures, ha.tab] at hspent hleft
  exact ⟨fun y => (hspent y).ofStands ha hal, fun y => ⟨(hleft y).1.ofStands ha hal, (hleft y).2.ofStands ha hal⟩⟩

theorem DarkInputJudged.ofStands {before : List Made} (h : DarkInputJudged True ch before sd u t)
    (ha : StandsAs alone sd s u) : DarkInputJudged alone ch before sd s t := by
  have hfar : farView u sd = farView s sd := by unfold farView; rw [ha.ports]
  obtain ⟨hexcused, htrips⟩ := h
  rw [hfar] at hexcused htrips
  refine ⟨fun r hf hd => ?_, fun hf => ?_⟩
  · obtain ⟨h1, h2, h3⟩ := hexcused r hf hd
    obtain ⟨h4, h5⟩ := h3 trivial
    exact ⟨h1, h2, fun hal => ⟨h4.ofStands ha hal, h5.ofStands ha hal⟩⟩
  · obtain ⟨h1, h2⟩ := htrips hf
    exact ⟨h1.ofStands ha, fun hal => (h2 trivial).ofStands ha hal⟩

theorem RunEntered.ofStands (h : RunEntered True ch sd u t) (ha : StandsAs alone sd s u)
    (hholds : darkHolds u sd = darkHolds s sd) : RunEntered alone ch sd s t := by
  obtain ⟨hlit, hdark⟩ := h
  rw [hholds] at hlit hdark
  refine ⟨fun hd => ?_, fun hd => (hdark hd).ofStands ha⟩
  obtain ⟨h1, h2, h3, h4, h5⟩ := hlit hd
  obtain ⟨h6, h7⟩ := h5 trivial
  rw [ha.tab] at h4
  exact ⟨h1, h2, h3, h4, fun hal => ⟨h6.ofStands ha hal, h7.ofStands ha hal⟩⟩

/-- A step that passes from `u` passes from `s`. -/
theorem StepPassed.ofStands (h : StepPassed True ch sd n u t) (ha : StandsAs alone sd s u)
    (hholds : darkHolds u sd = darkHolds s sd) : StepPassed alone ch sd n s t := by
  obtain ⟨hnext, hrun⟩ := h
  rw [ha.tab] at hnext hrun
  refine ⟨fun k hk => ?_, fun hk => (hrun hk).ofStands ha hholds⟩
  obtain ⟨h1, h2⟩ := hnext k hk
  obtain ⟨h3, h4⟩ := h2 trivial
  exact ⟨h1.ofStands (List.mem_of_find?_eq_some hk) ha, fun hal => ⟨h3.ofStands ha hal, h4.ofStands ha hal⟩⟩

end

/-- Where a side is whose ramp step has passed. -/
theorem StepPassed.leads {alone : Prop} (h : StepPassed alone ch sd n s t) :
    stateOf t sd ∈ [.ramp, .run, .dark, .hold, .lockout] := by
  obtain ⟨hnext, hrun⟩ := h
  cases hk : (pumpsUp s.tab sd).find? fun k => decide ((planOf s.tab n).order < (planOf s.tab k).order) with
  | some k => rw [(hnext k hk).1.1]; simp
  | none =>
    have hle : ∀ k ∈ pumpsUp s.tab sd, (planOf s.tab k).order ≤ (planOf s.tab n).order := fun k hmem => by
      simpa using List.find?_eq_none.1 hk k hmem
    obtain ⟨hlit, hdark⟩ := hrun hle
    cases hd : darkHolds s sd with
    | false => rw [(hlit hd).1]; simp
    | true =>
      have := (hdark hd).down
      simp only [List.mem_cons, List.not_mem_nil, or_false] at this ⊢
      exact Or.inr this

/-- The current step of a side passes once its pump's output is armed. -/
theorem passStep_armed (sd : Side) (n : Nat) (s : State) (h : stateOf s sd = .ramp) :
    StepPassed True s.choices sd n s (passStep sd n (modSide sd (fun r => { r with armed := true }) s)) := by
  have harmed : stateOf (modSide sd (fun r => { r with armed := true }) s) sd = .ramp :=
    (modSide_stateOf (sd := sd) (s := s) (f := fun r => { r with armed := true }) rfl sd).trans h
  have ha : Alike sd s (modSide sd (fun r => { r with armed := true }) s) := Alike.modSide ⟨rfl, rfl, rfl, rfl⟩
  exact ha.passed rfl rfl (passStep_passed sd n _ harmed)

end

end Sys2Proof.Machine
end

section
/-! The completion of a full scan (R103, R104, R106, R122): a step that it passes, at one side or at both. -/

namespace Sys2Proof.Machine

section
variable {s t u v w : State} {sd x : Side} {ch : Choices} {n : Nat} {alone : Prop}

/-! ### The end of the command -/

theorem StepBegun.settle {k : Nat} (h : StepBegun alone sd k s t) : StepBegun alone sd k s (settle t) := by
  unfold StepBegun stateOf at *
  rw [settle_side, settle_pdu]; exact h

theorem DarkInputJudged.settle {before : List Made} (h : DarkInputJudged alone ch before sd s t) :
    DarkInputJudged alone ch before sd s (settle t) := by
  obtain ⟨hexcused, htrips⟩ := h
  refine ⟨fun r hf hd => ?_, fun hf => ?_⟩
  · obtain ⟨h1, h2, h3⟩ := hexcused r hf hd
    rw [settle_stateOf, settle_side]
    exact ⟨h1, h2, fun ha => ⟨(h3 ha).1.settle, (h3 ha).2.settle⟩⟩
  · obtain ⟨h1, h2⟩ := htrips hf
    exact ⟨h1.settle, fun ha => (h2 ha).settle⟩

theorem RunEntered.settle (h : RunEntered alone ch sd s t) : RunEntered alone ch sd s (settle t) := by
  obtain ⟨hlit, hdark⟩ := h
  refine ⟨fun hd => ?_, fun hd => (hdark hd).settle⟩
  obtain ⟨h1, h2, h3, h4, h5⟩ := hlit hd
  rw [settle_stateOf, settle_side]
  exact ⟨h1, h2, h3, h4, fun ha => ⟨(h5 ha).1.settle, (h5 ha).2.settle⟩⟩

theorem StepPassed.settle (h : StepPassed alone ch sd n s t) : StepPassed alone ch sd n s (settle t) := by
  obtain ⟨hnext, hrun⟩ := h
  exact ⟨fun k hk => ⟨(hnext k hk).1.settle, fun ha => ⟨((hnext k hk).2 ha).1.settle, ((hnext k hk).2 ha).2.settle⟩⟩,
    fun hk => (hrun hk).settle⟩

/-! ### The completion at one side -/

/-- A completed scan arms and passes the current step of a side. -/
def ScanPasses (s : State) (sd : Side) (n : Nat) : Prop :=
  (s.side.get sd).late = false ∧ (s.side.get sd).stepWindow ≠ none ∧ stepPump s sd = some n ∧
    (planOf s.tab n).monitor = none ∧ (planOf s.tab n).check = .free

/-- The mark that the scan's end stands before the step's beginning is gone. -/
def onTime (r : SideRecord) : SideRecord := { r with late := false }

theorem onTime_same {r : SideRecord} (h : r.late = false) : onTime r = r := by
  cases r; cases h; rfl

theorem scanCompleted_passes (hs : stateOf s sd = .ramp) (h : ScanPasses s sd n) :
    scanCompleted sd s = passStep sd n (modSide sd (fun r => { r with armed := true }) s) := by
  obtain ⟨hlate, hwin, hpump, hmon, hfree⟩ := h
  unfold scanCompleted; rw [if_neg (by simp [hlate])]
  unfold armByScan; rw [hpump]
  exact if_pos ⟨hs, Option.isSome_iff_ne_none.2 hwin, hmon, hfree⟩

/-- It passes nothing else. -/
theorem scanCompleted_keeps (h : stateOf s sd ≠ .ramp ∨ ∀ n, ¬ ScanPasses s sd n) :
    scanCompleted sd s = modSide sd onTime s := by
  unfold scanCompleted; split
  · rfl
  · rename_i hlate
    have hl : (s.side.get sd).late = false := Bool.eq_false_iff.2 hlate
    rw [modSide_same (onTime_same hl)]
    unfold armByScan; split
    · rfl
    · rename_i n hpump
      refine if_neg fun ⟨hs, hwin, hmon, hfree⟩ => ?_
      rcases h with h | h
      · exact h hs
      · exact h n ⟨hl, Option.isSome_iff_ne_none.1 hwin, hpump, hmon, hfree⟩

/-- The current step depends on the side's own record and the tables alone. -/
theorem stepPump_congr (hr : u.side.get sd = s.side.get sd) (ht : u.tab = s.tab) : stepPump u sd = stepPump s sd := by
  unfold stepPump; rw [hr, ht]

theorem ScanPasses.congr (hr : u.side.get sd = s.side.get sd) (ht : u.tab = s.tab) :
    ScanPasses u sd n ↔ ScanPasses s sd n := by
  unfold ScanPasses; rw [hr, ht, stepPump_congr hr ht]

/-- The event of a completed scan at a side. -/
def scanEvent (sd : Side) (s : State) : State := sideEvent scanCompleted sd s

theorem scanEvent_keeps (h : stateOf s sd ≠ .ramp ∨ ∀ n, ¬ ScanPasses s sd n) :
    scanEvent sd s = modSide sd onTime s := by
  have he := scanCompleted_keeps h
  have hs : stateOf (scanCompleted sd s) sd = stateOf s sd := by
    rw [he]; exact modSide_stateOf rfl sd
  unfold scanEvent; rw [sideEvent_same _ _ _ hs, he]

theorem scanEvent_passes (hs : stateOf s sd = .ramp) (h : ScanPasses s sd n) :
    StepPassed True s.choices sd n s (scanEvent sd s) :=
  sideEvent_passes (by rw [scanCompleted_passes hs h]; exact passStep_armed sd n s hs) (scanCompleted_still ..) hs

theorem scanEvent_still (sd : Side) (s : State) : still (scanEvent sd s) = still s :=
  sideEvent_still _ scanCompleted_still sd s

/-- A side in RAMP is in neither LISTEN nor PROBE after the event. -/
theorem scanEvent_leads (hs : stateOf s sd = .ramp) : stateOf (scanEvent sd s) sd ∉ [.listen, .probe] := by
  by_cases h : ∃ n, ScanPasses s sd n
  · obtain ⟨n, hn⟩ := h
    have := (scanEvent_passes hs hn).leads
    intro hj
    simp only [List.mem_cons, List.not_mem_nil, or_false] at this hj
    rcases hj with hj | hj <;> rw [hj] at this <;> simp at this
  · rw [scanEvent_keeps (Or.inr (not_exists.1 h)), modSide_stateOf rfl sd, hs]; decide

/-- The event of the other side, where it is not the lead's judgment that acts. -/
theorem ActsOn.scanEvent (hx : stateOf u x.other ∉ [.listen, .probe]) : ActsOn x u (scanEvent x u) := by
  refine ActsOn.event (.scanCompleted x u) ?_
  cases x with
  | east => exact Or.inl rfl
  | west => exact Or.inr hx

/-- A side that is not in RAMP leaves all but its own mark alone. -/
theorem Aside.scanEvent (hx : stateOf u x ≠ .ramp) : Aside u (scanEvent x u) := by
  rw [scanEvent_keeps (Or.inl hx)]
  refine ⟨rfl, rfl, rfl, fun y => ?_⟩
  have hsame : stateOf (modSide x onTime u) y = stateOf u y := modSide_stateOf rfl y
  unfold isAbsent; unfold stateOf at hsame; rw [hsame]

/-- The lead's judgment moves no side into RAMP. -/
theorem scanEvent_other_ramp (hx : stateOf s sd.other ≠ .ramp) : stateOf (scanEvent sd s) sd.other ≠ .ramp := by
  have hkept : stateOf (scanCompleted sd s) sd.other = stateOf s sd.other :=
    congrArg SideRecord.state (ActsOn.scanCompleted sd s).record
  by_cases hj : stateOf (scanCompleted sd s) .east ∈ [.listen, .probe]
  · unfold scanEvent sideEvent; dsimp only; split
    · rename_i hw
      obtain ⟨rfl, -⟩ := hw
      intro hramp
      have := leadJudge_east hj
      rw [show stateOf (leadJudge (scanCompleted .west s)) .east = .ramp from hramp] at this
      simp at this
    · rw [hkept]; exact hx
  · unfold scanEvent; rw [sideEvent_idle hj, hkept]; exact hx

/-- Where another side may act, nothing is stated of what is handed on. -/
theorem StepPassed.anyChoices (h : StepPassed False ch sd n s t) (ch' : Choices) : StepPassed False ch' sd n s t := by
  unfold StepPassed RunEntered DarkInputJudged at *
  simp only [false_imp_iff, and_true] at h ⊢
  exact h

/-! ### The completion at both sides -/

theorem completeScan_idle (h : s.scan.done = false) : completeScan s = s := if_neg (by simp [h])

theorem completeScan_sides (h : s.scan.done = true) : completeScan s =
    scanEvent (firstSide s.choices).other (scanEvent (firstSide s.choices)
      { s with scan := { s.scan with done := false } }) := by
  unfold completeScan; rw [if_pos h, bothSides_inOrder]; rfl

/-- The step of a side passes, whichever side the event reaches first. -/
theorem scanEvents_pass (hs : stateOf s sd = .ramp) (h : ScanPasses s sd n) (x : Side) :
    StepPassed (stateOf s sd.other ≠ .ramp) s.choices sd n s (scanEvent x.other (scanEvent x s)) := by
  rcases eq_or_other x sd with rfl | rfl
  · have hacts : ActsOn sd.other (scanEvent sd s) (scanEvent sd.other (scanEvent sd s)) :=
      .scanEvent (by rw [Side.other_other]; exact scanEvent_leads hs)
    exact (scanEvent_passes hs h).actedAfter (scanEvent_still ..) hacts fun hx => .scanEvent (scanEvent_other_ramp hx)
  · rw [Side.other_other]
    have hacts : ActsOn x s (scanEvent x s) := .scanEvent (by rw [hs]; decide)
    have hr : (scanEvent x s).side.get x.other = s.side.get x.other := hacts.record
    have hramp : stateOf (scanEvent x s) x.other = .ramp := (congrArg SideRecord.state hr).trans hs
    have hpass := scanEvent_passes hramp ((ScanPasses.congr hr hacts.tab).2 h)
    have hacts' : ActsOn x.other.other s (scanEvent x s) := by rw [Side.other_other]; exact hacts
    have hholds := darkHolds_still (scanEvent_still x s) x.other
    by_cases hx : stateOf s x = .ramp
    · have hnot : (stateOf s x ≠ .ramp) = False := eq_false (not_not.2 hx)
      rw [hnot]
      exact (hpass.ofStands (hacts'.standsAs False.elim) hholds).anyChoices _
    · have hch : (scanEvent x s).choices = s.choices := by rw [scanEvent_keeps (Or.inl hx)]; rfl
      rw [hch] at hpass
      exact hpass.ofStands (hacts'.standsAs fun _ => .scanEvent hx) hholds

/-- A side in RAMP whose step the scan does not pass only loses its mark. -/
theorem scanEvents_keep (hs : stateOf s sd = .ramp) (h : ∀ n, ¬ ScanPasses s sd n) (x : Side) :
    (scanEvent x.other (scanEvent x s)).side.get sd = onTime (s.side.get sd) := by
  rcases eq_or_other x sd with rfl | rfl
  · have hacts : ActsOn sd.other (scanEvent sd s) (scanEvent sd.other (scanEvent sd s)) :=
      .scanEvent (by rw [Side.other_other]; exact scanEvent_leads hs)
    have hr := hacts.record
    rw [Side.other_other] at hr
    rw [hr, scanEvent_keeps (Or.inr h)]; exact Sides.get_set ..
  · have hacts : ActsOn x s (scanEvent x s) := .scanEvent (by rw [hs]; decide)
    have hr : (scanEvent x s).side.get x.other = s.side.get x.other := hacts.record
    rw [scanEvent_keeps (Or.inr fun n hn => h n ((ScanPasses.congr hr hacts.tab).1 hn)), modSide_side, Sides.get_set, hr]

/-- Where the scan passes no step, both sides lose their mark. -/
theorem scanEvents_idle (h : ∀ sd n, stateOf s sd = .ramp → ¬ ScanPasses s sd n) (x : Side) :
    scanEvent x.other (scanEvent x s) = modBoth onTime s := by
  have hkeep (y : Side) : stateOf s y ≠ .ramp ∨ ∀ n, ¬ ScanPasses s y n :=
    or_iff_not_imp_left.2 fun hr n => h y n (not_not.1 hr)
  have hr : (modSide x onTime s).side.get x.other = s.side.get x.other := Sides.get_set_other ..
  rw [scanEvent_keeps (hkeep x), scanEvent_keeps]
  · cases x <;> rfl
  · refine (hkeep x.other).imp (fun hk => ?_) fun hk n hn => hk n ((ScanPasses.congr hr rfl).1 hn)
    unfold stateOf; rw [hr]; exact hk

/-- The state in which the sides take the completed scan: its flag is taken away. -/
def scanTaken (ch : Choices) (s : State) : State :=
  { withChoices ch s with scan := { s.scan with done := false } }

/-- Settles O49: the flag of the completed scan, and each side's event by the step that it finds. -/
theorem fullScanPassesFreeStep : Obligations.FullScanPassesFreeStep := by
  intro ch s hp
  have hexec (hd : s.scan.done = true) : exec (.scanComplete ch) s =
      .next (settle (scanEvent (firstSide ch).other (scanEvent (firstSide ch) (scanTaken ch s)))) :=
    exec_settles (f := completeScan) rfl hp (completeScan_sides (s := withChoices ch s) hd)
  refine ⟨fun hd => exec_settles (f := completeScan) rfl hp (completeScan_idle (s := withChoices ch s) hd),
    fun hd hno => ?_, fun hd => ⟨_, hexec hd, ?_⟩⟩
  · rw [hexec hd, scanEvents_idle]
    · rfl
    · intro sd n hs hpass
      rcases hno sd with h | h
      · exact h hs
      · rw [show (s.side.get sd).late = false from hpass.1] at h; exact Bool.false_ne_true h
  · have hstill : still (scanEvent (firstSide ch).other (scanEvent (firstSide ch) (scanTaken ch s))) = still (scanTaken ch s) :=
      (scanEvent_still ..).trans (scanEvent_still ..)
    obtain ⟨-, hpos, htime, hlines, hports, htx, htab, hscan, hhold, hloc, hstore, -, hpend, hlatch, -⟩ :=
      still_fields hstill
    obtain ⟨-, kpos, ktime, klines, kports, ktx, ktab, kscan, khold, kloc, kstore, -, kpend, klatch, -⟩ :=
      settle_fields (scanEvent (firstSide ch).other (scanEvent (firstSide ch) (scanTaken ch s)))
    refine ⟨kscan.trans hscan, fun sd n hs hlate hwin hpump hmon hfree => ?_, fun sd n hs hno => ?_,
      kports.trans hports, ktx.trans htx, ktab.trans htab, khold.trans hhold, kloc.trans hloc, kstore.trans hstore,
      ktime.trans htime, klines.trans hlines, kpos.trans hpos, klatch.trans hlatch, kpend.trans hpend⟩
    · exact (scanEvents_pass (s := scanTaken ch s) hs ⟨hlate, hwin, hpump, hmon, hfree⟩ (firstSide ch)).settle
    · rw [settle_side]
      refine scanEvents_keep (s := scanTaken ch s) hs (fun k hpass => ?_) (firstSide ch)
      obtain ⟨h1, h2, h3, h4, h5⟩ := hpass
      rcases hno with h | h | h | ⟨h, hpump⟩
      · exact Bool.false_ne_true ((show (s.side.get sd).late = false from h1).symm.trans h)
      · exact h2 h
      · rw [show stepPump s sd = some k from h3] at h; cases h
      · rw [show stepPump s sd = some k from h3] at h
        cases h
        rcases hpump with hm | hc
        · exact hm h4
        · exact hc h5

end

end Sys2Proof.Machine
end

section
/-! A conversion at the Monitor Scanner (R122 to R124, R127, R128): the stored result, the judged checks, and what the
result's consumer does at its side (R65 to R68, R104, R106). -/

namespace Sys2Proof.Machine

section
variable {s t u v : State} {sd x : Side} {ch : Choices} {n k : Nat} {value : Word16}

/-! ### An OUTPUT result at its side (R65, R104, R106) -/

theorem ceiling_probe {r : SideRecord} (h : r.state = .probe) : ceiling r = some (r.agree.probe.toInt + 50) := by
  unfold ceiling; rw [h]

theorem ceiling_launch {r : SideRecord} (h : r.state = .ramp ∨ r.state = .run) :
    ceiling r = some (r.agree.launch.toInt + 50) := by
  unfold ceiling; rcases h with h | h <;> rw [h]

theorem ceiling_none {r : SideRecord} (h : r.state ∉ [.probe, .ramp, .run]) : ceiling r = none := by
  unfold ceiling; cases hr : r.state <;> simp_all

theorem outputScan_over {c : Int} (h : ceiling (s.side.get sd) = some c) (hv : c < value.toInt) :
    outputScan n value sd s = tripLit sd .overLevel s := by
  unfold outputScan; rw [h]; exact if_pos hv

theorem outputScan_within {c : Int} (h : ceiling (s.side.get sd) = some c) (hv : value.toInt ≤ c) :
    outputScan n value sd s = stepScan n value sd s := by
  unfold outputScan; rw [h]; exact if_neg (by omega)

theorem outputScan_idle (h : stateOf s sd ∉ [.probe, .ramp, .run]) : outputScan n value sd s = s := by
  unfold outputScan; rw [ceiling_none h]

theorem stepScan_elsewhere (h : stateOf s sd ≠ .ramp) : stepScan n value sd s = s := by
  unfold stepScan; split
  · rfl
  · exact if_neg fun hr => h hr.1

/-- The mark that the current step's output has been measured. -/
def armed (sd : Side) (s : State) : State := modSide sd (fun r => { r with armed := true }) s

theorem withinExpected_iff (e : PumpEntry) (value : Word16) : withinExpected e value = true ↔
    e.expected.toInt - 100 ≤ value.toInt ∧ value.toInt ≤ e.expected.toInt + 100 := by
  unfold withinExpected; simp

/-- The result of the step pump's monitor, by the step's check. -/
theorem stepScan_ramp (h : stateOf s sd = .ramp) (hw : (s.side.get sd).stepWindow ≠ none)
    (hk : stepPump s sd = some k) (hm : (planOf s.tab k).monitor = some n) : stepScan n value sd s =
      match (planOf s.tab k).check with
      | .free => passStep sd k (armed sd s)
      | .ownOutput => if withinExpected (planOf s.tab k) value then passStep sd k (armed sd s) else armed sd s
      | .farInput => armed sd s := by
  unfold stepScan; rw [hk]
  exact if_pos ⟨h, Option.isSome_iff_ne_none.2 hw, hm⟩

theorem stepScan_passes (h : stateOf s sd = .ramp) (hw : (s.side.get sd).stepWindow ≠ none)
    (hk : stepPump s sd = some k) (hm : (planOf s.tab k).monitor = some n)
    (hp : (planOf s.tab k).check = .free ∨
      ((planOf s.tab k).check = .ownOutput ∧ withinExpected (planOf s.tab k) value = true)) :
    stepScan n value sd s = passStep sd k (armed sd s) := by
  rw [stepScan_ramp h hw hk hm]
  rcases hp with hc | ⟨hc, hin⟩
  · rw [hc]
  · rw [hc]; exact if_pos hin

theorem stepScan_waits (h : stateOf s sd = .ramp) (hw : (s.side.get sd).stepWindow ≠ none)
    (hk : stepPump s sd = some k) (hm : (planOf s.tab k).monitor = some n)
    (hp : ¬ ((planOf s.tab k).check = .free ∨
      ((planOf s.tab k).check = .ownOutput ∧ withinExpected (planOf s.tab k) value = true))) :
    stepScan n value sd s = armed sd s := by
  rw [stepScan_ramp h hw hk hm]
  cases hc : (planOf s.tab k).check with
  | free => exact absurd (Or.inl hc) hp
  | ownOutput => exact if_neg fun hin => hp (Or.inr ⟨hc, hin⟩)
  | farInput => rfl

theorem ActsOn.stepScan (n : Nat) (value : Word16) (x : Side) (u : State) : ActsOn x u (stepScan n value x u) := by
  unfold Machine.stepScan; split
  · exact .refl ..
  · split
    · dsimp only; split
      · exact (ActsOn.modSide ..).trans (.passStep ..)
      · split
        · exact (ActsOn.modSide ..).trans (.passStep ..)
        · exact .modSide ..
      · exact .modSide ..
    · exact .refl ..

theorem ActsOn.outputScan (n : Nat) (value : Word16) (x : Side) (u : State) : ActsOn x u (outputScan n value x u) := by
  unfold Machine.outputScan; split
  · exact .refl ..
  · split
    · exact .tripLit ..
    · exact .stepScan ..

/-! ### An INPUT result at its side (R66 to R68, R124) -/

/-- What a side does as the dark detection goes from one value to another. -/
def darkEvent (d e : Dark) (value : Word16) (sd : Side) (s : State) : State :=
  match d.holding, e.holding with
  | false, true => darkBegun sd s
  | true, false => darkEnded sd s
  | true, true => if inRearm s sd then rearmScan value sd s else s
  | false, false => s

theorem darkEvent_begins {d e : Dark} (hd : d.holding = false) (he : e.holding = true) :
    darkEvent d e value sd s = darkBegun sd s := by unfold darkEvent; rw [hd, he]

theorem darkEvent_ends {d e : Dark} (hd : d.holding = true) (he : e.holding = false) :
    darkEvent d e value sd s = darkEnded sd s := by unfold darkEvent; rw [hd, he]

theorem darkEvent_holds {d e : Dark} (hd : d.holding = true) (he : e.holding = true) :
    darkEvent d e value sd s = if inRearm s sd then rearmScan value sd s else s := by unfold darkEvent; rw [hd, he]

theorem darkEvent_none {d e : Dark} (hd : d.holding = false) (he : e.holding = false) :
    darkEvent d e value sd s = s := by unfold darkEvent; rw [hd, he]

/-- The state with a dark detection stored. -/
def withDark (n : Nat) (e : Dark) (s : State) : State :=
  { s with scan := { s.scan with dark := s.scan.dark.set n e } }

theorem inputResult_eq {d e : Dark} (hd : s.scan.dark.getD n ⟨false, 0⟩ = d)
    (he : darkAfter (spanOf s sd) (hdrHoldOff s.tab.tables) value d = e) :
    inputResult n value sd s = sideEvent (darkEvent d e value) sd (withDark n e s) := by
  have hidle {f : Side → State → State} {u : State} (h : f sd u = u) : sideEvent f sd u = u := sideEvent_to h rfl
  unfold inputResult; dsimp only
  rw [hd, he, show ({ s with scan := { s.scan with dark := s.scan.dark.set n e } } : State) = withDark n e s from rfl]
  cases hdh : d.holding <;> cases heh : e.holding <;> dsimp only
  · exact (hidle (darkEvent_none hdh heh)).symm
  · exact (sideEvent_of (darkEvent_begins hdh heh) rfl).symm
  · exact (sideEvent_of (darkEvent_ends hdh heh) rfl).symm
  · split
    · rename_i hin
      exact (sideEvent_of ((darkEvent_holds hdh heh).trans (if_pos hin)) rfl).symm
    · rename_i hin
      exact (hidle ((darkEvent_holds hdh heh).trans (if_neg hin))).symm

theorem powerLt_iff {a b : Word16} : powerLt a b = true ↔ a.toInt < b.toInt := by unfold powerLt; simp

theorem darkAfter_holds {e : SpanEntry} {d : Dark} (k : Nat) (h : d.holding = true) (hv : value.toInt < e.light.toInt) :
    darkAfter e k value d = d := by
  unfold darkAfter; rw [if_pos h, if_pos (powerLt_iff.2 hv)]

theorem darkAfter_ends {e : SpanEntry} {d : Dark} (k : Nat) (h : d.holding = true) (hv : e.light.toInt ≤ value.toInt) :
    darkAfter e k value d = ⟨false, d.count⟩ := by
  unfold darkAfter; rw [if_pos h, if_neg (by rw [powerLt_iff]; omega)]

theorem darkAfter_light {e : SpanEntry} {d : Dark} (k : Nat) (h : d.holding = false) (hv : e.dark.toInt ≤ value.toInt) :
    darkAfter e k value d = ⟨false, 0⟩ := by
  unfold darkAfter; rw [if_neg (by simp [h]), if_neg (by rw [powerLt_iff]; omega)]

theorem darkAfter_counts {e : SpanEntry} {d : Dark} {k : Nat} (h : d.holding = false)
    (hv : value.toInt < e.dark.toInt) (hk : d.count + 1 < k) : darkAfter e k value d = ⟨false, d.count + 1⟩ := by
  unfold darkAfter; rw [if_neg (by simp [h]), if_pos (powerLt_iff.2 hv), if_neg (by omega)]

theorem darkAfter_begins {e : SpanEntry} {d : Dark} {k : Nat} (h : d.holding = false)
    (hv : value.toInt < e.dark.toInt) (hk : k ≤ d.count + 1) : darkAfter e k value d = ⟨true, 0⟩ := by
  unfold darkAfter; rw [if_neg (by simp [h]), if_pos (powerLt_iff.2 hv), if_pos hk]

theorem ActsOn.darkEvent (d e : Dark) (value : Word16) (x : Side) (u : State) : ActsOn x u (darkEvent d e value x u) := by
  unfold Machine.darkEvent; split
  · unfold darkBegun; split
    · exact .judgeDarkInput ..
    · exact .refl ..
  · unfold darkEnded; split
    · exact .modSide ..
    · exact .refl ..
  · split
    · unfold rearmScan; split
      · split
        · exact .modSide ..
        · exact .tripLit ..
      · exact .modSide ..
    · exact .refl ..
  · exact .refl ..

/-- Outside RUN a side does nothing at a dark detection. -/
theorem darkEvent_elsewhere (h : stateOf s sd ≠ .run) (d e : Dark) : darkEvent d e value sd s = s := by
  unfold darkEvent; split
  · exact if_neg h
  · exact if_neg h
  · exact if_neg (by unfold inRearm; simp [h])
  · rfl

theorem rearms_of_holding (hs : stateOf s sd = .run) (hx : (s.side.get sd).starved = false) (hd : darkHolds s sd = true) :
    inRearm s sd = true := by
  unfold inRearm; simp [hs, hx, hd]

theorem darkHolds_withDark {e : Dark} (hn : rxInput s sd = some n) (hl : n < s.scan.dark.length) :
    darkHolds (withDark n e s) sd = e.holding := by
  have hrx : rxInput (withDark n e s) sd = some n := hn
  unfold darkHolds; rw [hrx]
  show ((s.scan.dark.set n e).getD n ⟨false, 0⟩).holding = _
  simp [List.getD, hl]

/-- A detection that holds is one of the scanner's. -/
theorem lt_of_holding {l : List Dark} (h : (l.getD n ⟨false, 0⟩).holding = true) : n < l.length := by
  by_contra hn
  rw [List.getD_eq_default _ _ (by omega)] at h
  exact Bool.false_ne_true h

end

end Sys2Proof.Machine
end

section
/-! The state in which a conversion's consumer takes its result, and what the consumer does from it (R65 to R68, R104,
R106, R122 to R124, R127, R128). -/

namespace Sys2Proof.Machine

/-- The reading of a conversion as it is stored (R122). -/
def resultOf (reading : Word16) (s : State) : Word16 :=
  clipPower ((clipPower reading.toInt).toInt + (offsetOf s.tab s.scan.next.val).toInt)

/-- The scanner after a conversion (R122). -/
def scannerAfter (reading : Word16) (s : State) : Scanner :=
  { s.scan with
    latest := s.scan.latest.set s.scan.next.val (resultOf reading s), next := s.scan.next + 1
    done := s.scan.done || s.scan.next.val == 7 }

/-- The state with the result stored and the running checks judged. -/
def converted (reading : Word16) (ch : Choices) (s : State) : State :=
  { withChoices ch s with
    scan := scannerAfter reading s
    pdu := { s.pdu with checks := s.pdu.checks.map (judgeCheck s.scan.next.val (clipPower reading.toInt)) }
    side := if s.scan.next.val = 7 then ⟨{ s.side.west with late := false }, { s.side.east with late := false }⟩
      else s.side }

section
variable {s t u v : State} {sd x : Side} {ch : Choices} {n k : Nat} {value reading : Word16} {d e : Dark}

theorem converted_eq (reading : Word16) (ch : Choices) (s : State) :
    onPdu (fun u => { u with checks := u.checks.map (judgeCheck s.scan.next.val (clipPower reading.toInt)) })
      (endScan s.scan.next (storeResult s.scan.next (resultOf reading s) (withChoices ch s))) =
      converted reading ch s := by
  have hval (i : Fin 8) : (i.val == 7) = (i == 7) := by revert i; decide
  unfold endScan converted scannerAfter
  rw [hval]
  by_cases h : s.scan.next = 7
  · rw [if_pos h, if_pos (by rw [h]; rfl)]; rfl
  · rw [if_neg h, if_neg (show ¬ s.scan.next.val = 7 from fun hv => h (Fin.ext hv))]; rfl

theorem converted_record (reading : Word16) (ch : Choices) (s : State) (sd : Side) :
    ∃ b, (converted reading ch s).side.get sd = { s.side.get sd with late := b } := by
  unfold converted; dsimp only; split
  · exact ⟨false, by cases sd <;> rfl⟩
  · exact ⟨(s.side.get sd).late, rfl⟩

theorem converted_stateOf (reading : Word16) (ch : Choices) (s : State) (sd : Side) :
    stateOf (converted reading ch s) sd = stateOf s sd := by
  obtain ⟨b, hb⟩ := converted_record reading ch s sd
  unfold stateOf; rw [hb]

/-- A side takes the result as it would have taken it before the conversion. -/
theorem converted_stands (reading : Word16) (ch : Choices) (s : State) (sd : Side) :
    StandsAs True sd s (converted reading ch s) := by
  obtain ⟨b, hb⟩ := converted_record reading ch s sd
  refine ⟨rfl, rfl, rfl, rfl, rfl, converted_stateOf .., by rw [hb], by rw [hb], by rw [hb], rfl, rfl,
    fun _ _ _ => rfl, fun _ _ => rfl, fun _ => rfl, fun _ => rfl, fun _ y => ?_⟩
  have := converted_stateOf reading ch s y
  unfold isAbsent; unfold stateOf at this; rw [this]

/-- Storing a dark detection leaves what a side looks at but the detection. -/
theorem StandsAs.withDark {alone : Prop} (h : StandsAs alone sd s u) (n : Nat) (e : Dark) :
    StandsAs alone sd s (withDark n e u) :=
  ⟨h.time, h.ports, h.tab, h.hold, h.position, h.state, h.proving, h.failures, h.lock, h.latch, h.length, h.own, h.drives,
    h.ctl, h.msg, h.absent⟩

theorem Trips.ofStands {c : Cause} (h : Trips ch sd c u t) (ha : StandsAs True sd s u) : Trips ch sd c s t := by
  obtain ⟨htripped, hhands⟩ := h
  rw [ha.state] at hhands
  exact ⟨htripped.ofStands ha, hhands.ofStands ha trivial⟩

/-! ### The consumer (R123) -/

theorem consumeResult_unmapped (h : mapped s.tab n = false) : consumeResult n value s = s := by
  unfold consumeResult; rw [if_pos (by simp [h])]

theorem consumeResult_output (h : mapped s.tab n = true) (ho : (mapOf s.tab n).output = true) :
    consumeResult n value s = sideEvent (outputScan n value) (mapOf s.tab n).side s := by
  unfold consumeResult; rw [if_neg (by simp [h]), if_pos ho]

theorem consumeResult_input (h : mapped s.tab n = true) (ho : (mapOf s.tab n).output = false)
    (hsd : (mapOf s.tab n).side = sd) (hd : s.scan.dark.getD n ⟨false, 0⟩ = d)
    (he : darkAfter (spanOf s sd) (hdrHoldOff s.tab.tables) value d = e) :
    consumeResult n value s = sideEvent (darkEvent d e value) sd (withDark n e s) := by
  unfold consumeResult
  rw [if_neg (by simp [h]), if_neg (by simp [ho]), hsd, inputResult_eq hd he]

/-! ### An OUTPUT result (R65, R104, R106) -/

section
variable (hs : StandsAs True sd s v) (hch : v.choices = ch)
include hs hch

theorem output_trips {c : Int} (hst : stateOf s sd ∈ [.probe, .ramp, .run]) (hc : ceiling (v.side.get sd) = some c)
    (hv : c < value.toInt) : Trips ch sd .overLevel s (sideEvent (outputScan n value) sd v) := by
  have h := sideEvent_trips (f := outputScan n value) (outputScan_over hc hv) (by rw [hs.state]; exact hst)
  rw [hch] at h
  exact h.ofStands hs

theorem output_passes {c : Int} (hholds : darkHolds v sd = darkHolds s sd) (hst : stateOf s sd = .ramp)
    (hc : ceiling (v.side.get sd) = some c) (hv : value.toInt ≤ c) (hw : (v.side.get sd).stepWindow ≠ none)
    (hk : stepPump v sd = some k) (hm : (planOf v.tab k).monitor = some n)
    (hp : (planOf v.tab k).check = .free ∨
      ((planOf v.tab k).check = .ownOutput ∧ withinExpected (planOf v.tab k) value = true)) :
    StepPassed True ch sd k s (sideEvent (outputScan n value) sd v) := by
  have hramp : stateOf v sd = .ramp := hs.state.trans hst
  have he : outputScan n value sd v = passStep sd k (armed sd v) :=
    (outputScan_within hc hv).trans (stepScan_passes hramp hw hk hm hp)
  have h := sideEvent_passes (f := outputScan n value) (ch := v.choices) (n := k) (by rw [he]; exact passStep_armed sd k v hramp)
    (by rw [he]; exact (passStep_still ..).trans (modSide_still ..)) hramp
  rw [hch] at h
  exact h.ofStands hs hholds

omit hch in
theorem output_waits {c : Int} (hst : stateOf s sd = .ramp) (hc : ceiling (v.side.get sd) = some c)
    (hv : value.toInt ≤ c) (hw : (v.side.get sd).stepWindow ≠ none) (hk : stepPump v sd = some k)
    (hm : (planOf v.tab k).monitor = some n)
    (hp : ¬ ((planOf v.tab k).check = .free ∨
      ((planOf v.tab k).check = .ownOutput ∧ withinExpected (planOf v.tab k) value = true))) :
    sideEvent (outputScan n value) sd v = armed sd v := by
  have hramp : stateOf v sd = .ramp := hs.state.trans hst
  exact sideEvent_to ((outputScan_within hc hv).trans (stepScan_waits hramp hw hk hm hp)) (modSide_stateOf rfl sd)

omit hch in
theorem output_within {c : Int} (hst : stateOf s sd ≠ .ramp) (hc : ceiling (v.side.get sd) = some c)
    (hv : value.toInt ≤ c) : sideEvent (outputScan n value) sd v = v :=
  sideEvent_to ((outputScan_within hc hv).trans (stepScan_elsewhere (by rw [hs.state]; exact hst))) rfl

omit hch in
theorem output_idle (hst : stateOf s sd ∉ [.probe, .ramp, .run]) : sideEvent (outputScan n value) sd v = v :=
  sideEvent_to (outputScan_idle (by rw [hs.state]; exact hst)) rfl

/-! ### An INPUT result (R66 to R68) -/

theorem input_begins (hst : stateOf s sd = .run) (hd : d.holding = false) (he : e.holding = true) :
    DarkInputJudged True ch [] sd s (sideEvent (darkEvent d e value) sd v) := by
  have hrun : stateOf v sd = .run := hs.state.trans hst
  have hf : darkEvent d e value sd v = judgeDarkInput sd v := (darkEvent_begins hd he).trans (if_pos hrun)
  obtain ⟨hh, hc, hm⟩ := sideEvent_hands (darkEvent d e value) sd v
  obtain ⟨hdark, hstep⟩ := sideEvent_pumps (darkEvent d e value) sd v
    (by rw [hf]; exact congrArg Still.tab (judgeDarkInput_still ..))
  have h : DarkInputJudged True v.choices [] sd v (darkEvent d e value sd v) := by
    rw [hf]; exact judgeDarkInput_judged (Alike.refl sd v) (NoticesMade.none rfl) hrun
  rw [hch] at h
  exact (h.congr (sideEvent_own ..) hdark (by rw [hstep]) hh (fun _ => hc) fun _ => hm).ofStands hs

theorem input_trips (hst : stateOf s sd = .run) (hd : d.holding = true) (he : e.holding = true)
    (hin : inRearm v sd = true) (hv : value.toInt < (spanOf v sd).dark.toInt)
    (hk : hdrHoldOff v.tab.tables ≤ (v.side.get sd).rearm + 1) :
    Trips ch sd .darkInput s (sideEvent (darkEvent d e value) sd v) := by
  have hf : darkEvent d e value sd v = tripLit sd .darkInput v := by
    rw [darkEvent_holds hd he, if_pos hin, rearmScan, if_pos (powerLt_iff.2 hv), if_neg (by omega)]
  have h := sideEvent_trips (f := darkEvent d e value) hf (by rw [hs.state, hst]; simp)
  rw [hch] at h
  exact h.ofStands hs

end

theorem input_ends (hst : stateOf v sd = .run) (hd : d.holding = true) (he : e.holding = false) :
    sideEvent (darkEvent d e value) sd v = modSide sd (fun r => { r with starved := false, rearm := 0 }) v :=
  sideEvent_to ((darkEvent_ends hd he).trans (if_pos hst)) (modSide_stateOf rfl sd)

theorem input_counts (hd : d.holding = true) (he : e.holding = true) (hin : inRearm v sd = true)
    (hv : value.toInt < (spanOf v sd).dark.toInt) (hk : (v.side.get sd).rearm + 1 < hdrHoldOff v.tab.tables) :
    sideEvent (darkEvent d e value) sd v = modSide sd (fun r => { r with rearm := r.rearm + 1 }) v := by
  refine sideEvent_to ?_ (modSide_stateOf rfl sd)
  rw [darkEvent_holds hd he, if_pos hin, rearmScan, if_pos (powerLt_iff.2 hv), if_pos hk]

theorem input_relit (hd : d.holding = true) (he : e.holding = true) (hin : inRearm v sd = true)
    (hv : (spanOf v sd).dark.toInt ≤ value.toInt) :
    sideEvent (darkEvent d e value) sd v = modSide sd (fun r => { r with rearm := 0 }) v := by
  refine sideEvent_to ?_ (modSide_stateOf rfl sd)
  rw [darkEvent_holds hd he, if_pos hin, rearmScan, if_neg (by rw [powerLt_iff]; omega)]

theorem input_starved (hd : d.holding = true) (he : e.holding = true) (hx : (v.side.get sd).starved = true) :
    sideEvent (darkEvent d e value) sd v = v := by
  refine sideEvent_to ?_ rfl
  rw [darkEvent_holds hd he, if_neg (by unfold inRearm; simp [hx])]

theorem input_none (hd : d.holding = false) (he : e.holding = false) : sideEvent (darkEvent d e value) sd v = v :=
  sideEvent_to (darkEvent_none hd he) rfl

theorem input_elsewhere (hst : stateOf v sd ≠ .run) : sideEvent (darkEvent d e value) sd v = v :=
  sideEvent_to (darkEvent_elsewhere hst d e) rfl

end

end Sys2Proof.Machine
end

section
/-! The judged checks and the stepdown steps that wait for them (R118, R119, R127, R128), and the conversion as a
whole. -/

namespace Sys2Proof.Machine

section
variable {s t u v w : State} {sd x : Side} {ch : Choices} {n k : Nat} {value reading : Word16} {l p : List Nat}

/-! ### A check after a reading (R127, R128) -/

theorem judgeCheck_some (input : Nat) (raw : Word16) (c : Check) : judgeCheck input raw (some c) =
    if c.monitor = input then
      (if (clipPower (raw.toInt + c.offset.toInt)).toInt < c.level.toInt then none
       else some { c with last := some (clipPower (raw.toInt + c.offset.toInt)) })
    else some c := by
  unfold judgeCheck; dsimp only; split
  · by_cases h : powerLt (judgedReading c raw) c.level = true
    · rw [if_pos h]; exact (if_pos (powerLt_iff.1 h)).symm
    · rw [if_neg h]; exact (if_neg fun hlt => h (powerLt_iff.2 hlt)).symm
  · rfl

/-- A check passes where it runs and is then gone. -/
theorem passes_iff (input : Nat) (raw : Word16) (c : Option Check) :
    passes input raw c = true ↔ c ≠ none ∧ judgeCheck input raw c = none := by
  cases c with
  | none => simp [passes]
  | some c =>
    unfold passes judgeCheck
    by_cases hm : c.monitor = input <;> by_cases hp : powerLt (judgedReading c raw) c.level = true <;> simp [hm, hp]

theorem checkOf_converted (reading : Word16) (ch : Choices) (s : State) (c : Nat) :
    checkOf (converted reading ch s).pdu c = judgeCheck s.scan.next.val (clipPower reading.toInt) (checkOf s.pdu c) :=
  List.getD_map (f := judgeCheck s.scan.next.val (clipPower reading.toInt)) (d := none) s.pdu.checks

/-- The channels whose checks a reading has just passed. -/
def passedChecks (reading : Word16) (s : State) : List Nat :=
  eight.filter fun c => passes s.scan.next.val (clipPower reading.toInt) (checkOf s.pdu c)

theorem mem_passedChecks (reading : Word16) (s : State) (c : Nat) : c ∈ passedChecks reading s ↔
    c < 8 ∧ checkOf s.pdu c ≠ none ∧ judgeCheck s.scan.next.val (clipPower reading.toInt) (checkOf s.pdu c) = none := by
  have h8 : c ∈ eight ↔ c < 8 := by unfold eight; simp; omega
  unfold passedChecks; rw [List.mem_filter, passes_iff, h8]

/-! ### A stepdown step that waits for checks (R118) -/

theorem stepdownPassed_idle (h : ∀ k l, s.pdu.stepdown.get sd ≠ some ⟨k, .checks l⟩) : stepdownPassed p sd s = s := by
  unfold stepdownPassed; split
  · rename_i k l hk; exact absurd hk (h k l)
  · rfl
  · rfl

theorem stepdownPassed_waiting (h : s.pdu.stepdown.get sd = some ⟨k, .checks l⟩) : stepdownPassed p sd s =
    if l.any (fun c => p.contains c) && l.all (fun c => (checkOf s.pdu c).isNone) then nextStepdown sd k s else s := by
  unfold stepdownPassed; rw [h]

theorem stepZero_stepdown (tab : TableMem) (n : Nat) (l : List Nat) (u : PumpUnit) :
    (stepZero tab n l u).stepdown = u.stepdown := by
  unfold stepZero
  dsimp only
  rw [zeroPumps_stepdown]
  split
  · rw [startCheck_stepdown, zeroPump_stepdown]
  · rw [zeroPump_stepdown]

theorem nextStepdown_otherWait (sd : Side) (k : Nat) (s : State) :
    (nextStepdown sd k s).pdu.stepdown.get sd.other = s.pdu.stepdown.get sd.other := by
  have hset (d : Option Stepdown) (u : State) :
      (setStepdown sd d u).pdu.stepdown.get sd.other = u.pdu.stepdown.get sd.other := Sides.get_set_other ..
  unfold nextStepdown; split
  · unfold completeStepdown; dsimp only; split
    · exact (ActsOn.enterLockout sd _ _ _).stepdown.trans (hset none s)
    · exact hset none s
  · rename_i k _
    cases hm : (planOf s.tab k).monitor with
    | none => rw [beginStepdown_timed hm, hset]; exact congrArg (Sides.get · sd.other) (zeroPump_stepdown ..)
    | some m => rw [beginStepdown_checked hm, hset]; exact congrArg (Sides.get · sd.other) (stepZero_stepdown ..)

theorem stepdownPassed_otherWait (p : List Nat) (sd : Side) (s : State) :
    (stepdownPassed p sd s).pdu.stepdown.get sd.other = s.pdu.stepdown.get sd.other := by
  unfold stepdownPassed; split
  · split
    · exact nextStepdown_otherWait ..
    · rfl
  · rfl
  · rfl

/-- Where one side waits for checks, only it takes them. -/
theorem bothSides_oneWaits (h : ∀ k l, s.pdu.stepdown.get sd.other ≠ some ⟨k, .checks l⟩) :
    bothSides (sideEvent (stepdownPassed p)) s = sideEvent (stepdownPassed p) sd s := by
  have hidle {u : State} (hu : u.pdu.stepdown.get sd.other = s.pdu.stepdown.get sd.other) :
      sideEvent (stepdownPassed p) sd.other u = u :=
    sideEvent_to (stepdownPassed_idle fun k l => by rw [hu]; exact h k l) rfl
  rw [bothSides_inOrder]
  rcases eq_or_other (firstSide s.choices) sd with hf | hf
  · rw [← hf]
    refine hidle ?_
    rw [(sideEvent_pumps (stepdownPassed p) sd s (congrArg Still.tab (stepdownPassed_still ..))).2]
    exact stepdownPassed_otherWait p sd s
  · have hother : firstSide s.choices = sd.other := by rw [hf, Side.other_other]
    rw [hother, hidle rfl, Side.other_other]

theorem bothSides_noneWaits (h : ∀ y k l, s.pdu.stepdown.get y ≠ some ⟨k, .checks l⟩) :
    bothSides (sideEvent (stepdownPassed p)) s = s := by
  rw [bothSides_oneWaits (sd := .west) (h .east)]
  exact sideEvent_to (stepdownPassed_idle (h .west)) rfl

/-! ### The end of a stepdown step, seen from before the conversion and after its consumer -/

theorem StepdownStepEnded.ofStands {alone : Prop} (h : StepdownStepEnded True ch sd n u t) (ha : StandsAs alone sd s u) :
    StepdownStepEnded alone ch sd n s t := by
  obtain ⟨hnext, hlast⟩ := h
  rw [ha.tab] at hnext hlast
  refine ⟨fun k hk => ?_, fun hk => ?_⟩
  · obtain ⟨h1, h2, h3, h4, h5, h6⟩ := hnext k hk
    obtain ⟨h7, h8⟩ := h6 trivial
    exact ⟨h1, h2, h3, h4, h5, fun hal => ⟨h7.ofStands ha hal, h8.ofStands ha hal⟩⟩
  · obtain ⟨h1, h2, h3, h4, h5, h6⟩ := hlast hk
    rw [ha.lock] at h4
    exact ⟨h1, h2, h3, h4, h5, fun hal => (h6 trivial).ofStands ha hal⟩

theorem StepdownStepEnded.actedAfter {alone : Prop} (h : StepdownStepEnded True ch sd n s t)
    (hr : u.side.get sd = t.side.get sd)
    (hd : ∀ m ∈ pumpsUp s.tab sd, driveOf t.pdu m = 0 → driveOf u.pdu m = 0)
    (hp : u.pdu.stepdown.get sd = t.pdu.stepdown.get sd)
    (hal : alone → u.ctl = t.ctl ∧ u.msg = t.msg ∧
      ∀ c left, tripRecordAt sd c left u = tripRecordAt sd c left t) : StepdownStepEnded alone ch sd n s u := by
  obtain ⟨hnext, hlast⟩ := h
  unfold stateOf at hnext hlast
  unfold StepdownStepEnded stateOf
  rw [hr, hp]
  refine ⟨fun k hk => ?_, fun hk => ?_⟩
  · obtain ⟨h1, h2, h3, h4, h5, h6⟩ := hnext k hk
    obtain ⟨h7, h8⟩ := h6 trivial
    have hmem : k ∈ pumpsUp s.tab sd := List.mem_reverse.1 (List.mem_of_find?_eq_some hk)
    refine ⟨h1, h2, hd k hmem h3, h4, h5, fun ha => ?_⟩
    obtain ⟨hc, hm, -⟩ := hal ha
    exact ⟨h7.to hc, h8.to hm⟩
  · obtain ⟨h1, h2, h3, h4, h5, h6⟩ := hlast hk
    refine ⟨h1, h2, h3, h4, fun m hm => hd m hm (h5 m hm), fun ha => ?_⟩
    obtain ⟨hc, hm, htrip⟩ := hal ha
    obtain ⟨h7, h8⟩ := h6 trivial
    rw [← htrip] at h7
    exact ⟨h7.to hc, h8.to hm⟩

/-- Where the side is after its step has ended. -/
theorem StepdownStepEnded.stays {alone : Prop} (h : StepdownStepEnded alone ch sd n s t) :
    stateOf t sd ∈ [.stepdown, .lockout] := by
  obtain ⟨hnext, hlast⟩ := h
  cases hk : (pumpsDown s.tab sd).find? fun k => decide ((planOf s.tab k).order < (planOf s.tab n).order) with
  | some k => rw [(hnext k hk).1]; simp
  | none =>
    rw [(hlast fun k hmem => by simpa using List.find?_eq_none.1 hk k hmem).1]; simp

/-! ### The consumer beside a side that takes no part (R123) -/

/-- The state that the consumer's side meets: an INPUT result has stored its detection. -/
def meets (n : Nat) (value : Word16) (s : State) : State :=
  if mapped s.tab n = true ∧ (mapOf s.tab n).output = false then
    withDark n (darkAfter (spanOf s (mapOf s.tab n).side) (hdrHoldOff s.tab.tables) value
      (s.scan.dark.getD n ⟨false, 0⟩)) s
  else s

/-- What the consumer's side does. -/
def consumer (n : Nat) (value : Word16) (s : State) : Side → State → State :=
  if (mapOf s.tab n).output then outputScan n value
  else darkEvent (s.scan.dark.getD n ⟨false, 0⟩)
    (darkAfter (spanOf s (mapOf s.tab n).side) (hdrHoldOff s.tab.tables) value (s.scan.dark.getD n ⟨false, 0⟩)) value

theorem meets_still (n : Nat) (value : Word16) (s : State) : ∃ dark,
    meets n value s = { s with scan := { s.scan with dark := dark } } := by
  unfold meets; split
  · exact ⟨_, rfl⟩
  · exact ⟨s.scan.dark, rfl⟩

theorem consumeResult_mapped (h : mapped s.tab n = true) : consumeResult n value s =
    sideEvent (consumer n value s) (mapOf s.tab n).side (meets n value s) := by
  unfold consumer meets
  cases ho : (mapOf s.tab n).output with
  | true => rw [if_pos rfl, if_neg (by simp), consumeResult_output h ho]
  | false => rw [if_neg Bool.false_ne_true, if_pos ⟨h, rfl⟩, consumeResult_input h ho rfl rfl rfl]

theorem ActsOn.consumer (n : Nat) (value : Word16) (s : State) (x : Side) (u : State) :
    ActsOn x u (consumer n value s x u) := by
  unfold Machine.consumer; split
  · exact .outputScan ..
  · exact .darkEvent ..

theorem consumer_elsewhere (h : stateOf u sd ∉ [.probe, .ramp, .run]) (n : Nat) (value : Word16) (s : State) :
    consumer n value s sd u = u := by
  unfold consumer; split
  · exact outputScan_idle h
  · refine darkEvent_elsewhere (fun hr => h ?_) _ _
    rw [hr]; simp

theorem consumeResult_still (n : Nat) (value : Word16) (s : State) :
    still (consumeResult n value s) = still (meets n value s) := by
  by_cases h : mapped s.tab n = true
  · rw [consumeResult_mapped h]; exact sideEvent_still _ (fun y u => (ActsOn.consumer n value s y u).still) _ _
  · have hf := Bool.eq_false_iff.2 h
    rw [consumeResult_unmapped hf, meets, if_neg fun hm => h hm.1]

/-- A side that is at rest or steps down keeps its record, its dark pumps and its stepdown, and where the result is not
the other side's, everything is as the result met it. -/
theorem consumeResult_beside (hx : stateOf s x ∉ [.listen, .probe, .ramp, .run]) :
    ActsOn x.other (meets n value s) (consumeResult n value s) ∧
      (mapped s.tab n = false ∨ (mapOf s.tab n).side = x → consumeResult n value s = meets n value s) := by
  have hstate (y : Side) : stateOf (meets n value s) y = stateOf s y := by
    obtain ⟨dark, hm⟩ := meets_still n value s
    rw [hm]; rfl
  by_cases h : mapped s.tab n = true
  · rw [consumeResult_mapped h]
    rcases eq_or_other x (mapOf s.tab n).side with hsd | hsd
    · have hidle : sideEvent (consumer n value s) (mapOf s.tab n).side (meets n value s) = meets n value s := by
        refine sideEvent_to (consumer_elsewhere (fun hm => hx ?_) ..) rfl
        rw [hstate, hsd] at hm
        exact List.mem_cons_of_mem _ hm
      rw [hidle]; exact ⟨.refl .., fun _ => rfl⟩
    · rw [hsd]
      refine ⟨ActsOn.event (.consumer ..) ?_, fun ha => ?_⟩
      · cases x with
        | west => exact Or.inl rfl
        | east =>
          refine Or.inr fun hm => hx ?_
          rw [hstate] at hm
          simp only [List.mem_cons, List.not_mem_nil, or_false] at hm ⊢
          rcases hm with hm | hm
          · exact Or.inl hm
          · exact Or.inr (Or.inl hm)
      · rcases ha with ha | ha
        · rw [h] at ha; cases ha
        · exact absurd ha (Side.other_ne x)
  · have hf := Bool.eq_false_iff.2 h
    have hsame : consumeResult n value s = meets n value s := by
      rw [consumeResult_unmapped hf, meets, if_neg fun hm => h hm.1]
    rw [hsame]; exact ⟨.refl .., fun _ => rfl⟩

end

end Sys2Proof.Machine
end

section
/-! A conversion, from its reading to its consumer (R118, R119, R122 to R124, R127, R128). -/

namespace Sys2Proof.Machine

section
variable {s t u v : State} {sd x : Side} {ch : Choices} {n k : Nat} {reading value : Word16} {l : List Nat} {d : Dark}

/-- The state in which the consumer takes the result: the stepdown steps that waited for checks have taken them. -/
def checksTaken (reading : Word16) (ch : Choices) (s : State) : State :=
  bothSides (sideEvent (stepdownPassed (passedChecks reading s))) (converted reading ch s)

theorem endScan_pdu (i : Fin 8) (s : State) : (endScan i s).pdu = s.pdu := by unfold endScan; split <;> rfl

theorem scanResult_eq (reading : Word16) (ch : Choices) (s : State) : scanResult reading (withChoices ch s) =
    consumeResult s.scan.next.val (resultOf reading s) (checksTaken reading ch s) := by
  unfold checksTaken
  rw [← converted_eq]
  unfold passedChecks
  rw [← show (endScan s.scan.next (storeResult s.scan.next (resultOf reading s) (withChoices ch s))).pdu = s.pdu from
    endScan_pdu ..]
  rfl

theorem exec_scanResult (hp : s.powered = true) : exec (.monitorScanResult reading ch) s =
    .next (settle (consumeResult s.scan.next.val (resultOf reading s) (checksTaken reading ch s))) :=
  exec_settles (f := scanResult reading) rfl hp (scanResult_eq ..)

theorem checksTaken_still (reading : Word16) (ch : Choices) (s : State) :
    still (checksTaken reading ch s) = still (converted reading ch s) := by
  unfold checksTaken
  rw [bothSides_inOrder]
  exact (sideEvent_still _ (stepdownPassed_still _) _ _).trans (sideEvent_still _ (stepdownPassed_still _) _ _)

theorem checksTaken_none (h : ∀ x, ¬ ∃ k l, s.pdu.stepdown.get x = some ⟨k, .checks l⟩) :
    checksTaken reading ch s = converted reading ch s :=
  bothSides_noneWaits fun x k l hx => h x ⟨k, l, hx⟩

/-! ### What the consumer leaves -/

theorem withDark_congr (h : still u = still v) (n : Nat) (d : Dark) :
    still (withDark n d u) = still (withDark n d v) :=
  congrArg (fun w : Still => { w with scan := { w.scan with dark := w.scan.dark.set n d } }) h

theorem meets_congr (h : still u = still v) : still (meets n value u) = still (meets n value v) := by
  obtain ⟨-, hpos, -, -, -, -, htab, hscan, -⟩ := still_fields h
  have hspan (y : Side) : spanOf u y = spanOf v y := by unfold spanOf sideSpan pos; rw [htab, hpos]
  unfold meets
  rw [htab, hscan, hspan]
  split
  · exact withDark_congr h ..
  · exact h

theorem conversion_still (reading : Word16) (ch : Choices) (s : State) :
    still (consumeResult n value (checksTaken reading ch s)) = still (meets n value (converted reading ch s)) :=
  (consumeResult_still ..).trans (meets_congr (checksTaken_still ..))

theorem meets_kept (h : mapped s.tab n = false ∨ (mapOf s.tab n).output = true) : meets n value s = s := by
  unfold meets
  refine if_neg fun hm => ?_
  rcases h with h | h
  · rw [h] at hm; exact Bool.false_ne_true hm.1
  · rw [h] at hm; exact Bool.false_ne_true hm.2.symm

theorem meets_input (hm : mapped s.tab n = true) (ho : (mapOf s.tab n).output = false) : meets n value s =
    withDark n (darkAfter (spanOf s (mapOf s.tab n).side) (hdrHoldOff s.tab.tables) value
      (s.scan.dark.getD n ⟨false, 0⟩)) s := if_pos ⟨hm, ho⟩

/-! ### The side of the consumer, seen from before the conversion -/

theorem converted_ceiling (reading : Word16) (ch : Choices) (s : State) (sd : Side) :
    ceiling ((converted reading ch s).side.get sd) = ceiling (s.side.get sd) := by
  obtain ⟨b, hb⟩ := converted_record reading ch s sd
  rw [hb]; rfl

theorem converted_stepPump (reading : Word16) (ch : Choices) (s : State) (sd : Side) :
    stepPump (converted reading ch s) sd = stepPump s sd := by
  obtain ⟨b, hb⟩ := converted_record reading ch s sd
  unfold stepPump; rw [hb]; rfl

theorem converted_inRearm {e : Dark} (hs : stateOf s sd = .run) (hx : (s.side.get sd).starved = false)
    (hn : rxInput s sd = some n) (hd : (s.scan.dark.getD n ⟨false, 0⟩).holding = true) (he : e.holding = true) :
    inRearm (withDark n e (converted reading ch s)) sd = true := by
  obtain ⟨b, hb⟩ := converted_record reading ch s sd
  refine rearms_of_holding ((converted_stateOf reading ch s sd).trans hs) ?_ ((darkHolds_withDark hn (lt_of_holding hd)).trans he)
  exact (congrArg SideRecord.starved hb).trans hx

/-! ### A side that waits for checks (R118, R119) -/

theorem checksTaken_waits (ho : ¬ ∃ k l, s.pdu.stepdown.get x.other = some ⟨k, .checks l⟩) : checksTaken reading ch s =
      sideEvent (stepdownPassed (passedChecks reading s)) x (converted reading ch s) :=
  bothSides_oneWaits fun k l h => ho ⟨k, l, h⟩

theorem stepdownPassed_ends (hx : s.pdu.stepdown.get x = some ⟨k, .checks l⟩)
    (hany : ∃ c ∈ l, c < 8 ∧ checkOf s.pdu c ≠ none ∧
      judgeCheck s.scan.next.val (clipPower reading.toInt) (checkOf s.pdu c) = none)
    (hall : ∀ c ∈ l, judgeCheck s.scan.next.val (clipPower reading.toInt) (checkOf s.pdu c) = none) :
    stepdownPassed (passedChecks reading s) x (converted reading ch s) = nextStepdown x k (converted reading ch s) := by
  rw [stepdownPassed_waiting (s := converted reading ch s) hx]
  refine if_pos ?_
  rw [Bool.and_eq_true, List.any_eq_true, List.all_eq_true]
  obtain ⟨c, hc, hpassed⟩ := hany
  refine ⟨⟨c, hc, List.contains_iff_mem.2 ((mem_passedChecks ..).2 hpassed)⟩, fun c hc => ?_⟩
  rw [checkOf_converted, hall c hc]; rfl

theorem stepdownPassed_waits (hx : s.pdu.stepdown.get x = some ⟨k, .checks l⟩)
    (h : (∀ c ∈ l, checkOf s.pdu c = none ∨
        judgeCheck s.scan.next.val (clipPower reading.toInt) (checkOf s.pdu c) ≠ none) ∨
      ∃ c ∈ l, judgeCheck s.scan.next.val (clipPower reading.toInt) (checkOf s.pdu c) ≠ none) :
    stepdownPassed (passedChecks reading s) x (converted reading ch s) = converted reading ch s := by
  rw [stepdownPassed_waiting (s := converted reading ch s) hx]
  refine if_neg fun hb => ?_
  rw [Bool.and_eq_true, List.any_eq_true, List.all_eq_true] at hb
  obtain ⟨⟨c, hc, hin⟩, hall⟩ := hb
  rcases h with h | ⟨c', hc', hne⟩
  · obtain ⟨-, hrun, hgone⟩ := (mem_passedChecks ..).1 (List.contains_iff_mem.1 hin)
    exact (h c hc).elim hrun fun hne => hne hgone
  · have := hall c' hc'
    rw [checkOf_converted, Option.isNone_iff_eq_none] at this
    exact hne this

theorem meets_tripRecordAt (c : Cause) (left : SideState) (u : State) :
    tripRecordAt sd c left (meets n value u) = tripRecordAt sd c left u := by
  obtain ⟨dark, hm⟩ := meets_still n value u
  rw [hm]; rfl

/-- The end of a stepdown step stands whatever the consumer does at the other side. -/
theorem StepdownStepEnded.consumed {m : Nat} (h : StepdownStepEnded True ch x k s u) (hstill : u.tab = s.tab) :
    StepdownStepEnded (mapped s.tab m = false ∨ (mapOf s.tab m).side = x) ch x k s (consumeResult m value u) := by
  have hstays := h.stays
  obtain ⟨hacts, hsame⟩ := consumeResult_beside (s := u) (x := x) (n := m) (value := value) (fun hm => by
    simp only [List.mem_cons, List.not_mem_nil, or_false] at hstays hm
    rcases hstays with hst | hst <;> rw [hst] at hm <;> simp at hm)
  obtain ⟨dark, hm⟩ := meets_still m value u
  have hr := hacts.record
  have hd := hacts.dark
  have hp := hacts.stepdown
  rw [Side.other_other] at hr hd hp
  have hside : (meets m value u).side = u.side := by rw [hm]
  have hpdu : (meets m value u).pdu = u.pdu := by rw [hm]
  rw [hside] at hr
  rw [hpdu] at hp hd
  refine h.actedAfter hr (fun j hj hdark => hd j ?_ hdark) hp fun ha => ?_
  · rw [hm]
    show (planOf u.tab j).side = x
    rw [hstill]; exact (pumpsUp_side hj)
  · rw [← hstill] at ha
    rw [hsame ha]
    refine ⟨by rw [hm], by rw [hm], fun c left => meets_tripRecordAt c left u⟩

theorem checksTaken_ended {m : Nat} (hx : s.pdu.stepdown.get x = some ⟨k, .checks l⟩)
    (ho : ¬ ∃ k l, s.pdu.stepdown.get x.other = some ⟨k, .checks l⟩) (hs : stateOf s x = .stepdown)
    (hany : ∃ c ∈ l, c < 8 ∧ checkOf s.pdu c ≠ none ∧
      judgeCheck s.scan.next.val (clipPower reading.toInt) (checkOf s.pdu c) = none)
    (hall : ∀ c ∈ l, judgeCheck s.scan.next.val (clipPower reading.toInt) (checkOf s.pdu c) = none) :
    StepdownStepEnded (mapped s.tab m = false ∨ (mapOf s.tab m).side = x) ch x k s
      (consumeResult m value (checksTaken reading ch s)) := by
  have h := sideEvent_stepEnds (f := stepdownPassed (passedChecks reading s)) (s := converted reading ch s) (sd := x)
    (stepdownPassed_ends hx hany hall) ((converted_stateOf ..).trans hs)
  rw [← checksTaken_waits ho] at h
  refine (h.ofStands (converted_stands ..)).consumed ?_
  exact congrArg Still.tab (checksTaken_still reading ch s)

theorem checksTaken_stays {m : Nat} (hx : s.pdu.stepdown.get x = some ⟨k, .checks l⟩)
    (ho : ¬ ∃ k l, s.pdu.stepdown.get x.other = some ⟨k, .checks l⟩) (hs : stateOf s x = .stepdown)
    (h : (∀ c ∈ l, checkOf s.pdu c = none ∨
        judgeCheck s.scan.next.val (clipPower reading.toInt) (checkOf s.pdu c) ≠ none) ∨
      ∃ c ∈ l, judgeCheck s.scan.next.val (clipPower reading.toInt) (checkOf s.pdu c) ≠ none) :
    ∃ b, (consumeResult m value (checksTaken reading ch s)).side.get x = { s.side.get x with late := b } ∧
      (consumeResult m value (checksTaken reading ch s)).pdu.stepdown.get x = some ⟨k, .checks l⟩ := by
  have hidle : checksTaken reading ch s = converted reading ch s := by
    rw [checksTaken_waits ho]; exact sideEvent_to (stepdownPassed_waits hx h) rfl
  rw [hidle]
  obtain ⟨hacts, -⟩ := consumeResult_beside (s := converted reading ch s) (x := x) (n := m) (value := value)
    (by rw [converted_stateOf, hs]; decide)
  obtain ⟨dark, hm⟩ := meets_still m value (converted reading ch s)
  obtain ⟨b, hb⟩ := converted_record reading ch s x
  have hr := hacts.record
  have hp := hacts.stepdown
  rw [Side.other_other, hm] at hr hp
  exact ⟨b, hr.trans hb, hp.trans hx⟩

end

end Sys2Proof.Machine
end

section
/-! O48: a conversion at the Monitor Scanner. -/

namespace Sys2Proof.Machine

section
variable {s t u v : State} {sd x : Side} {ch : Choices} {n k : Nat} {reading value : Word16} {l : List Nat} {d : Dark}

/-- An OUTPUT result at its side (R65, R104, R106). -/
theorem output_judged (reading : Word16) (ch : Choices) (s : State) (sd : Side) (n : Nat) (value : Word16) :
    let t := settle (sideEvent (outputScan n value) sd (converted reading ch s))
    let r := s.side.get sd
    (stateOf s sd = .probe → r.agree.probe.toInt + 50 < value.toInt → Trips ch sd .overLevel s t) ∧
    (stateOf s sd ∈ [.ramp, .run] → r.agree.launch.toInt + 50 < value.toInt → Trips ch sd .overLevel s t) ∧
    (stateOf s sd = .probe → value.toInt ≤ r.agree.probe.toInt + 50 → stateOf t sd = .probe) ∧
    (stateOf s sd = .run → value.toInt ≤ r.agree.launch.toInt + 50 → stateOf t sd = .run) ∧
    (∀ k, stateOf s sd = .ramp → value.toInt ≤ r.agree.launch.toInt + 50 → r.stepWindow ≠ none →
      stepPump s sd = some k → (planOf s.tab k).monitor = some n →
      let within : Prop := (planOf s.tab k).expected.toInt - 100 ≤ value.toInt ∧
        value.toInt ≤ (planOf s.tab k).expected.toInt + 100
      let passes : Prop := (planOf s.tab k).check = .free ∨ ((planOf s.tab k).check = .ownOutput ∧ within)
      (passes → StepPassed True ch sd k s t) ∧
      (¬ passes → stateOf t sd = .ramp ∧ (t.side.get sd).armed = true ∧
        (t.side.get sd).step = r.step ∧ (t.side.get sd).stepWindow = r.stepWindow ∧
        t.pdu.drive = s.pdu.drive)) ∧
    (stateOf s sd ∉ [.probe, .ramp, .run] → stateOf t sd = stateOf s sd) := by
  have hs := converted_stands reading ch s sd
  have hst := converted_stateOf reading ch s sd
  obtain ⟨b, hb⟩ := converted_record reading ch s sd
  have hprobe (h : stateOf s sd = .probe) : ceiling ((converted reading ch s).side.get sd) =
      some ((s.side.get sd).agree.probe.toInt + 50) := (converted_ceiling ..).trans (ceiling_probe h)
  have hlaunch (h : stateOf s sd = .ramp ∨ stateOf s sd = .run) : ceiling ((converted reading ch s).side.get sd) =
      some ((s.side.get sd).agree.launch.toInt + 50) := (converted_ceiling ..).trans (ceiling_launch h)
  intro t r
  refine ⟨fun h hv => ?_, fun h hv => ?_, fun h hv => ?_, fun h hv => ?_, fun k h hv hw hk hm => ⟨fun hp => ?_, fun hp => ?_⟩,
    fun h => ?_⟩
  · exact (output_trips hs rfl (by rw [h]; simp) (hprobe h) hv).settle
  · have h' : stateOf s sd = .ramp ∨ stateOf s sd = .run := by simpa using h
    exact (output_trips hs rfl (List.mem_cons_of_mem _ h) (hlaunch h') hv).settle
  · rw [settle_stateOf, output_within hs (by rw [h]; decide) (hprobe h) hv]; exact hst.trans h
  · rw [settle_stateOf, output_within hs (by rw [h]; decide) (hlaunch (.inr h)) hv]; exact hst.trans h
  · refine (output_passes hs rfl rfl h (hlaunch (.inl h)) hv (by rw [hb]; exact hw) ((converted_stepPump ..).trans hk) hm
      (hp.imp_right fun hin => ⟨hin.1, (withinExpected_iff ..).2 hin.2⟩)).settle
  · have hwaits : sideEvent (outputScan n value) sd (converted reading ch s) = armed sd (converted reading ch s) :=
      output_waits hs h (hlaunch (.inl h)) hv (by rw [hb]; exact hw) ((converted_stepPump ..).trans hk) hm
        fun hin => hp (hin.imp_right fun ho => ⟨ho.1, (withinExpected_iff ..).1 ho.2⟩)
    have hr : (armed sd (converted reading ch s)).side.get sd = { s.side.get sd with late := b, armed := true } := by
      unfold armed; rw [modSide_side, Sides.get_set, hb]
    unfold stateOf
    rw [settle_side, settle_pdu, hwaits, hr]
    exact ⟨h, rfl, rfl, rfl, rfl⟩
  · rw [settle_stateOf, output_idle hs h]; exact hst

/-- An INPUT result at its side (R66 to R68, R124). -/
theorem input_judged (reading : Word16) (ch : Choices) (s : State) (sd : Side) (n : Nat) (value : Word16) :
    let d := s.scan.dark.getD n ⟨false, 0⟩
    let e := spanOf s sd
    let r := s.side.get sd
    let g := darkAfter e (hdrHoldOff s.tab.tables) value d
    let t := settle (sideEvent (darkEvent d g value) sd (withDark n g (converted reading ch s)))
    (stateOf s sd = .run →
      (d.holding = false → value.toInt < e.dark.toInt → hdrHoldOff s.tab.tables ≤ d.count + 1 →
        DarkInputJudged True ch [] sd s t) ∧
      (d.holding = true → e.light.toInt ≤ value.toInt →
        stateOf t sd = .run ∧ (t.side.get sd).starved = false ∧ (t.side.get sd).rearm = 0) ∧
      (d.holding = true → value.toInt < e.light.toInt → r.starved = true →
        stateOf t sd = .run ∧ (t.side.get sd).starved = true) ∧
      (d.holding = true → value.toInt < e.light.toInt → r.starved = false → rxInput s sd = some n →
        (value.toInt < e.dark.toInt → r.rearm + 1 < hdrHoldOff s.tab.tables →
          stateOf t sd = .run ∧ (t.side.get sd).rearm = r.rearm + 1) ∧
        (value.toInt < e.dark.toInt → hdrHoldOff s.tab.tables ≤ r.rearm + 1 → Trips ch sd .darkInput s t) ∧
        (e.dark.toInt ≤ value.toInt → stateOf t sd = .run ∧ (t.side.get sd).rearm = 0)) ∧
      (d.holding = false → (e.dark.toInt ≤ value.toInt ∨ d.count + 1 < hdrHoldOff s.tab.tables) →
        stateOf t sd = .run)) ∧
    (stateOf s sd ≠ .run → stateOf t sd = stateOf s sd ∧ t.pdu.drive = s.pdu.drive) := by
  intro d e r g t
  have hs : StandsAs True sd s (withDark n g (converted reading ch s)) := (converted_stands reading ch s sd).withDark n g
  obtain ⟨b, hb⟩ := converted_record reading ch s sd
  have hr : (withDark n g (converted reading ch s)).side.get sd = { s.side.get sd with late := b } := hb
  have hmod (f : SideRecord → SideRecord) (ht : sideEvent (darkEvent d g value) sd (withDark n g (converted reading ch s)) =
      modSide sd f (withDark n g (converted reading ch s))) : t.side.get sd = f { s.side.get sd with late := b } := by
    rw [settle_side, ht, modSide_side, Sides.get_set, hr]
  have hsame (ht : sideEvent (darkEvent d g value) sd (withDark n g (converted reading ch s)) =
      withDark n g (converted reading ch s)) : t.side.get sd = { s.side.get sd with late := b } := by
    rw [settle_side, ht, hr]
  refine ⟨fun hrun => ⟨fun hd hv hk => ?_, fun hd hv => ?_, fun hd hv hx => ?_, fun hd hv hx hn => ?_, fun hd hv => ?_⟩,
    fun hst => ?_⟩
  · exact (input_begins hs rfl hrun hd (congrArg Dark.holding (darkAfter_begins hd hv hk))).settle
  · have := hmod _ (input_ends (hs.state.trans hrun) hd (congrArg Dark.holding (darkAfter_ends _ hd hv)))
    unfold stateOf; rw [this]
    exact ⟨hrun, rfl, rfl⟩
  · have hg : g.holding = true := (congrArg Dark.holding (darkAfter_holds _ hd hv)).trans hd
    have := hsame (input_starved hd hg (by rw [hr]; exact hx))
    unfold stateOf; rw [this]
    exact ⟨hrun, hx⟩
  · have hg : g.holding = true := (congrArg Dark.holding (darkAfter_holds _ hd hv)).trans hd
    have hin := converted_inRearm (reading := reading) (ch := ch) hrun hx hn hd hg
    refine ⟨fun hdark hk => ?_, fun hdark hk => ?_, fun hlight => ?_⟩
    · have := hmod _ (input_counts hd hg hin hdark (by rw [hr]; exact hk))
      unfold stateOf; rw [this]
      exact ⟨hrun, rfl⟩
    · exact (input_trips hs rfl hrun hd hg hin hdark (by rw [hr]; exact hk)).settle
    · have := hmod _ (input_relit hd hg hin hlight)
      unfold stateOf; rw [this]
      exact ⟨hrun, rfl⟩
  · have hg : g.holding = false := by
      by_cases hlight : e.dark.toInt ≤ value.toInt
      · exact congrArg Dark.holding (darkAfter_light _ hd hlight)
      · exact congrArg Dark.holding (darkAfter_counts hd (by omega) (hv.resolve_left hlight))
    have := hsame (input_none hd hg)
    unfold stateOf; rw [this]
    exact hrun
  · have ht := input_elsewhere (d := d) (e := g) (value := value) (fun h => hst (hs.state.symm.trans h))
    have := hsame ht
    unfold stateOf; rw [this]
    exact ⟨rfl, by rw [settle_pdu, ht]; rfl⟩

/-- The stored detection of an INPUT result (R124). -/
theorem dark_stored {l : List Dark} (n k : Nat) (e : SpanEntry) (value : Word16) (d : Dark) :
    let dark := l.set n (darkAfter e k value d)
    (d.holding = true → value.toInt < e.light.toInt → dark = l.set n d) ∧
    (d.holding = true → e.light.toInt ≤ value.toInt → dark = l.set n ⟨false, d.count⟩) ∧
    (d.holding = false → e.dark.toInt ≤ value.toInt → dark = l.set n ⟨false, 0⟩) ∧
    (d.holding = false → value.toInt < e.dark.toInt → d.count + 1 < k → dark = l.set n ⟨false, d.count + 1⟩) ∧
    (d.holding = false → value.toInt < e.dark.toInt → k ≤ d.count + 1 → dark = l.set n ⟨true, 0⟩) :=
  ⟨fun h hv => congrArg (l.set n) (darkAfter_holds k h hv), fun h hv => congrArg (l.set n) (darkAfter_ends k h hv),
    fun h hv => congrArg (l.set n) (darkAfter_light k h hv), fun h hv hk => congrArg (l.set n) (darkAfter_counts h hv hk),
    fun h hv hk => congrArg (l.set n) (darkAfter_begins h hv hk)⟩

/-- Settles O48: the conversion judges the checks, and its consumer takes the result at one side. -/
theorem scanResultStoredAndJudged : Obligations.ScanResultStoredAndJudged := by
  intro reading ch s hp n raw value d sd e r waiting taken judged
  obtain ⟨-, hpos, htime, hlines, hports, htx, htab, hscan, hhold, hloc, hstore, -, hpend, hlatch, hcut⟩ :=
    still_fields (conversion_still (n := n) (value := value) reading ch s)
  obtain ⟨-, kpos, ktime, klines, kports, ktx, ktab, kscan, khold, kloc, kstore, -, kpend, klatch, kcut⟩ :=
    settle_fields (consumeResult n value (checksTaken reading ch s))
  obtain ⟨dark, hmeets⟩ := meets_still n value (converted reading ch s)
  have hexec : exec (.monitorScanResult reading ch) s =
      .next (settle (consumeResult n value (checksTaken reading ch s))) := exec_scanResult hp
  have hnone (h : ∀ x, ¬ waiting x) : checksTaken reading ch s = converted reading ch s := checksTaken_none h
  refine ⟨judgeCheck_some n raw, fun h => ⟨?_, fun hm => consumeResult_unmapped (s := judged) hm⟩,
    ⟨_, hexec, fun h hm ho => ?_, fun h hm ho => ?_, fun x k l hx ho => ⟨fun hs hany hall => ?_, fun hs hl => ?_⟩,
    ?_, ?_, ?_, fun h => ?_, fun hm ho => ?_, ?_⟩⟩
  · rw [hexec, hnone h]; rfl
  · rw [hnone h, consumeResult_output (s := converted reading ch s) hm ho]
    exact output_judged reading ch s sd n value
  · rw [hnone h, consumeResult_input (s := converted reading ch s) hm ho rfl rfl rfl]
    exact input_judged reading ch s sd n value
  · exact (checksTaken_ended hx ho hs hany hall).settle
  · obtain ⟨b, hr, hw⟩ := checksTaken_stays (m := n) (value := value) (ch := ch) hx ho hs hl
    unfold stateOf
    rw [settle_side, settle_pdu, hr]
    exact ⟨hs, rfl, hw⟩
  · rw [kscan, hscan, hmeets]; rfl
  · rw [kscan, hscan, hmeets]; rfl
  · rw [kscan, hscan, hmeets]; rfl
  · rw [kscan, hscan, meets_kept (s := converted reading ch s) h]; rfl
  · rw [kscan, hscan, meets_input (s := converted reading ch s) hm ho]
    exact dark_stored n (hdrHoldOff s.tab.tables) e value d
  · rw [hmeets] at hpos htime hlines hports htx htab hhold hloc hstore hpend hlatch hcut
    exact ⟨kports.trans hports, ktx.trans htx, ktab.trans htab, khold.trans hhold, kloc.trans hloc, kstore.trans hstore,
      ktime.trans htime, klines.trans hlines, kpos.trans hpos, klatch.trans hlatch, kcut.trans hcut, kpend.trans hpend⟩

end

end Sys2Proof.Machine
end

section
/-! The events of sides that are at rest or have only begun to listen: each changes its own record alone, and the lead
has nothing to judge (R53, R54, R56, R58, R59, R94, R139). -/

namespace Sys2Proof.Machine

/-- The record of a side at rest, or of one that has only begun to listen. -/
def QuietRecord (r : SideRecord) : Prop := r.state.active = false ∨ (r.state = .listen ∧ r.ready = false)

/-- Both sides are at rest or have only begun to listen. -/
def Quiet (s : State) : Prop := ∀ sd, QuietRecord (s.side.get sd)

/-- Each side's record changed, by its side. -/
def modEach (g : Side → SideRecord → SideRecord) (s : State) : State :=
  { s with side := ⟨g .west s.side.west, g .east s.side.east⟩ }

/-- What R54 asks of a side in DARK beside its retry timer. -/
def hears (s : State) (sd : Side) : Bool :=
  !(s.ports.get sd).loss && (s.ports.get sd).condition != .withdrawn && !(s.ports.get sd).neighbour &&
    s.tab.validated && s.hold.view == 0 && !s.lines.trip.get sd

/-- The record of a side that has judged R54. -/
def judgedRecord (s : State) (sd : Side) (r : SideRecord) : SideRecord :=
  if r.state = .dark ∧ r.retry = none ∧ hears s sd = true then r.listening (hdrSettle s.tab.tables) else r

/-- The record of a side that has taken hold-ended (R59). -/
def endedRecord (s : State) (sd : Side) (r : SideRecord) : SideRecord :=
  if r.state = .hold then r.darkened r.reason (tripRest s) else judgedRecord s sd r

section
variable {s t u x : State} {sd : Side} {r : SideRecord} {g : Side → SideRecord → SideRecord} {f : Side → State → State}

theorem modEach_get (g : Side → SideRecord → SideRecord) (s : State) (sd : Side) :
    (modEach g s).side.get sd = g sd (s.side.get sd) := by cases sd <;> rfl

theorem modEach_same (h : ∀ sd, g sd (s.side.get sd) = s.side.get sd) : modEach g s = s := by
  show { s with side := (⟨g .west s.side.west, g .east s.side.east⟩ : Sides SideRecord) } = s
  rw [show g .west s.side.west = s.side.west from h .west, show g .east s.side.east = s.side.east from h .east]

theorem NoneActive.quiet (h : NoneActive s) : Quiet s := fun sd => Or.inl (h sd)

/-- The lead has nothing to judge: a side that has only begun to listen is not READY. -/
theorem leadJudge_quiet (h : QuietRecord (s.side.get .east)) : leadJudge s = s := by
  rcases h with h | ⟨hs, hr⟩
  · refine leadJudge_idle s (fun e => ?_) fun e => ?_
    all_goals
      rw [show (s.side.get .east).state = _ from e] at h
      exact Bool.noConfusion h
  · have hno : mayProbe s .east = false := by unfold mayProbe; rw [hr]; simp
    unfold leadJudge
    rw [show stateOf s .east = .listen from hs]
    exact if_neg (by rw [hno]; exact Bool.false_ne_true)

theorem sideEvent_quiet (h : Quiet (f sd s)) : sideEvent f sd s = f sd s := by
  unfold sideEvent; dsimp only; split
  · exact leadJudge_quiet (h .east)
  · rfl

theorem Quiet.modSide {g : SideRecord → SideRecord} (h : Quiet s) (hg : ∀ r, QuietRecord r → QuietRecord (g r)) (sd : Side) :
    Quiet (modSide sd g s) := fun y => by
  by_cases hy : y = sd
  · subst hy; rw [modSide_side, Sides.get_set]; exact hg _ (h y)
  · rw [modSide_side, Sides.get_set_ne _ _ _ _ hy]; exact h y

theorem Quiet.modEach (h : Quiet s) (hg : ∀ sd r, QuietRecord r → QuietRecord (g sd r)) : Quiet (modEach g s) :=
  fun sd => by rw [modEach_get]; exact hg sd _ (h sd)

/-- An event that changes its side's record alone reaches both records. -/
theorem bothSides_quiet (hg : ∀ sd r, QuietRecord r → QuietRecord (g sd r))
    (hf : ∀ sd x, still x = still s → Quiet x → f sd x = modSide sd (g sd) x) (h : Quiet s) :
    bothSides (sideEvent f) s = modEach g s := by
  have hevent (sd : Side) {x : State} (hx : still x = still s) (hq : Quiet x) : sideEvent f sd x = modSide sd (g sd) x := by
    rw [sideEvent_quiet, hf sd x hx hq]
    rw [hf sd x hx hq]; exact hq.modSide (hg sd) sd
  unfold bothSides; split
  · rw [hevent .east rfl h, hevent .west (x := Machine.modSide .east (g .east) s) rfl (h.modSide (hg .east) .east)]; rfl
  · rw [hevent .west rfl h, hevent .east (x := Machine.modSide .west (g .west) s) rfl (h.modSide (hg .west) .west)]; rfl

/-! ### The judgment of R54 and the end of a hold, as changes of a record -/

theorem judgedRecord_stays (h : r.state ≠ .dark ∨ r.retry ≠ none ∨ hears s sd = false) : judgedRecord s sd r = r := by
  refine if_neg fun hc => ?_
  obtain ⟨hs, hr, hh⟩ := hc
  rcases h with h | h | h
  · exact h hs
  · exact h hr
  · rw [hh] at h; exact Bool.noConfusion h

theorem judgedRecord_cases (s : State) (sd : Side) (r : SideRecord) :
    judgedRecord s sd r = r ∨ (r.state = .dark ∧ judgedRecord s sd r = r.listening (hdrSettle s.tab.tables)) := by
  unfold judgedRecord; split
  · rename_i h; exact Or.inr ⟨h.1, rfl⟩
  · exact Or.inl rfl

theorem endedRecord_cases (s : State) (sd : Side) (r : SideRecord) : endedRecord s sd r = r ∨
    (r.state = .hold ∧ endedRecord s sd r = r.darkened r.reason (tripRest s)) ∨
    (r.state = .dark ∧ endedRecord s sd r = r.listening (hdrSettle s.tab.tables)) := by
  unfold endedRecord; split
  · rename_i h; exact Or.inr (Or.inl ⟨h, rfl⟩)
  · rcases judgedRecord_cases s sd r with h | h
    · exact Or.inl h
    · exact Or.inr (Or.inr h)

theorem endedRecord_same (h : r.state ∉ [.dark, .hold]) : endedRecord s sd r = r := by
  rcases endedRecord_cases s sd r with he | ⟨hs, -⟩ | ⟨hs, -⟩
  · exact he
  · rw [hs] at h; exact absurd (by simp) h
  · rw [hs] at h; exact absurd (by simp) h

theorem endedRecord_keeps (s : State) (sd : Side) (r : SideRecord) :
    (endedRecord s sd r).failures = r.failures ∧ (endedRecord s sd r).lock = r.lock := by
  rcases endedRecord_cases s sd r with he | ⟨-, he⟩ | ⟨-, he⟩ <;> rw [he] <;> exact ⟨rfl, rfl⟩

theorem judgedRecord_keeps (s : State) (sd : Side) (r : SideRecord) :
    (judgedRecord s sd r).failures = r.failures ∧ (judgedRecord s sd r).lock = r.lock := by
  rcases judgedRecord_cases s sd r with he | ⟨-, he⟩ <;> rw [he] <;> exact ⟨rfl, rfl⟩

theorem listening_quiet (k : Nat) (r : SideRecord) : QuietRecord (r.listening k) := Or.inr ⟨rfl, rfl⟩

theorem judgedRecord_quiet (s : State) (sd : Side) (r : SideRecord) (h : QuietRecord r) :
    QuietRecord (judgedRecord s sd r) := by
  rcases judgedRecord_cases s sd r with he | ⟨-, he⟩ <;> rw [he]
  · exact h
  · exact listening_quiet ..

theorem endedRecord_quiet (s : State) (sd : Side) (r : SideRecord) (h : QuietRecord r) :
    QuietRecord (endedRecord s sd r) := by
  rcases endedRecord_cases s sd r with he | ⟨-, he⟩ | ⟨-, he⟩ <;> rw [he]
  · exact h
  · exact Or.inl rfl
  · exact listening_quiet ..

theorem mayListen_eq (s : State) (sd : Side) : mayListen s sd = true ↔
    stateOf s sd = .dark ∧ (s.side.get sd).retry = none ∧ hears s sd = true := by
  unfold mayListen hears
  simp only [Bool.and_eq_true, beq_iff_eq, Option.isNone_iff_eq_none]
  tauto

theorem judgeDark_eq (sd : Side) (s : State) : judgeDark sd s = modSide sd (judgedRecord s sd) s := by
  by_cases h : mayListen s sd = true
  · unfold judgeDark; rw [if_pos h]
    exact modSide_congr (if_pos ((mayListen_eq s sd).1 h)).symm
  · unfold judgeDark; rw [if_neg h]
    exact (modSide_same (if_neg fun hc => h ((mayListen_eq s sd).2 hc))).symm

theorem judgedRecord_still (h : still x = still s) : judgedRecord x = judgedRecord s := by
  obtain ⟨-, -, -, hlines, hports, -, htab, -, hhold, -⟩ := still_fields h
  funext sd r
  unfold judgedRecord hears; rw [hlines, hports, htab, hhold]

theorem endedRecord_still (h : still x = still s) : endedRecord x = endedRecord s := by
  have htab : x.tab = s.tab := congrArg Still.tab h
  funext sd r
  unfold endedRecord tripRest; rw [judgedRecord_still h, htab]

theorem holdEnded_eq (hv : s.hold.view = 0) (sd : Side) : holdEnded sd s = modSide sd (endedRecord s sd) s := by
  obtain ⟨-, -, hother⟩ := holdEnded_taken sd s hv
  by_cases hh : stateOf s sd = .hold
  · have hdarkened : enterDark sd (tripRest s) s = modSide sd (fun r => r.darkened r.reason (tripRest s)) s :=
      if_neg fun hc => hc.2 hv
    have hrests : judgeDark sd (modSide sd (fun r => r.darkened r.reason (tripRest s)) s) =
        modSide sd (fun r => r.darkened r.reason (tripRest s)) s := by
      rw [judgeDark_eq]
      refine modSide_same (judgedRecord_stays (Or.inr (Or.inl ?_)))
      rw [modSide_side, Sides.get_set]; simp [SideRecord.darkened]
    unfold holdEnded; rw [hh]; dsimp only
    rw [hdarkened, hrests]
    exact modSide_congr (if_pos hh).symm
  · have hrec : endedRecord s sd (s.side.get sd) = judgedRecord s sd (s.side.get sd) := if_neg hh
    by_cases hd : stateOf s sd = .dark
    · unfold holdEnded; rw [hd]; dsimp only
      rw [judgeDark_eq]; exact modSide_congr hrec.symm
    · rw [hother (by simp [hh, hd])]
      exact (modSide_same (hrec.trans (judgedRecord_stays (Or.inl hd)))).symm

/-- Both sides judge R54. -/
theorem bothSides_judgeDark (h : Quiet s) : bothSides (sideEvent judgeDark) s = modEach (judgedRecord s) s :=
  bothSides_quiet (judgedRecord_quiet s) (fun sd x hx _ => by rw [judgeDark_eq, judgedRecord_still hx]) h

/-! ### A recomputation of the view that begins no hold -/

/-- What a recomputation of the view does to the records, where it begins no hold. -/
def viewEnded (s : State) (sd : Side) (r : SideRecord) : SideRecord :=
  if s.hold.view ≠ 0 ∧ heldView s = 0 then endedRecord (reviewed s) sd r else r

theorem viewEnded_quiet (s : State) (sd : Side) (r : SideRecord) (h : QuietRecord r) : QuietRecord (viewEnded s sd r) := by
  unfold viewEnded; split
  · exact endedRecord_quiet _ _ _ h
  · exact h

theorem recomputeView_quiet (h : Quiet s) (hv : s.hold.view = 0 → heldView s = 0) :
    recomputeView s = modEach (viewEnded s) (reviewed s) := by
  by_cases hends : s.hold.view ≠ 0 ∧ heldView s = 0
  · have hg : viewEnded s = endedRecord (reviewed s) := by funext sd r; exact if_pos hends
    rw [recomputeView_ends hends.1 hends.2, hg]
    refine bothSides_quiet (s := reviewed s) (endedRecord_quiet _) (fun sd x hx _ => ?_) h
    rw [holdEnded_eq ((congrArg (fun y : Still => y.hold.view) hx).trans hends.2), endedRecord_still hx]
  · rw [recomputeView_still_held ⟨hv, fun h0 => not_not.1 fun hn => hends ⟨hn, h0⟩⟩]
    exact (modEach_same (g := viewEnded s) (s := reviewed s) fun sd => if_neg hends).symm

/-- A recomputation under the clear flag's rest that begins a hold. -/
theorem recomputeView_holds (h : NoneActive s) (h0 : s.hold.view = 0) (h1 : heldView s ≠ 0) :
    recomputeView s = modEach (fun _ => restHeld) (reviewed s) := by
  rw [recomputeView_begins h0 h1]
  exact bothSides_rest (s := reviewed s) restHeld_rest (fun sd x _ hr => holdBegun_rest hr sd) h

end

end Sys2Proof.Machine
end

section
/-! What a validation keeps while it moves the sides (R43, R44): a frame for the whole part, and the record of one side
as it passes the other side's move. -/

namespace Sys2Proof.Machine

/-- A validation's first two steps but for the recomputed view (R43, R125). -/
def flagged (s : State) : State :=
  { s with
    tab := { s.tab with validated := true }
    scan := { s.scan with dark := noDark }
    loc := { s.loc with rateInForce := siteRate s.tab.tables } }

/-- A side that the route length leaves out (R40, R44). -/
def leftOut (s : State) (sd : Side) : Bool := absentUnder (pos s) (hdrLength s.tab.tables) sd

/-- What holds of the whole part at each point of a validation. -/
structure Validating (s x : State) : Prop where
  tab : x.tab = { s.tab with validated := true }
  rate : x.loc.rateInForce = siteRate s.tab.tables
  position : x.position = s.position
  time : x.time = s.time
  lines : x.lines = s.lines
  store : x.store = s.store
  pending : x.pending = s.pending
  latch : x.pdu.latch = s.pdu.latch
  startCut : x.pdu.startCut = s.pdu.startCut
  latest : x.scan.latest = s.scan.latest
  own : x.hold.own = s.hold.own
  order : firstSide x.choices = firstSide s.choices
  quiet : Quiet x
  inForce : heldView x = x.hold.view
  kept : ∀ sd, leftOut s sd = isAbsent s sd → x.ports.get sd = s.ports.get sd ∧ x.hold.sets.get sd = s.hold.sets.get sd
  reset : ∀ sd, (x.ports.get sd = s.ports.get sd ∧ x.hold.sets.get sd = s.hold.sets.get sd) ∨
    (x.ports.get sd = PortRecord.reset ∧ x.hold.sets.get sd = 0)

/-- A side that does not act passes from one point to the next: its record takes the end of the hold, if the view has
become empty. -/
structure Passed (sd : Side) (x t : State) : Prop where
  tab : t.tab = x.tab
  view : x.hold.view = 0 → t.hold.view = 0
  record : t.side.get sd = if x.hold.view ≠ 0 ∧ t.hold.view = 0 then endedRecord t sd (x.side.get sd) else x.side.get sd
  reset : x.ports.get sd = PortRecord.reset → t.ports.get sd = PortRecord.reset
  out : isAbsent x sd = true → t.msg.out.get sd = x.msg.out.get sd

section
variable {s t u x : State} {sd y : Side} {r : SideRecord} {l : LockRecord}

/-! ### The view -/

/-- A view of sets of which some are emptied lies within the view of the sets. -/
theorem heldView_within (htab : t.tab = x.tab) (hpos : t.position = x.position) (hown : t.hold.own = x.hold.own)
    (hsets : ∀ sd, t.hold.sets.get sd = x.hold.sets.get sd ∨ t.hold.sets.get sd = 0) :
    heldView t &&& heldView x = heldView t := by
  have hwithin (a b c m o w e : PosSet) (hw : a = w ∨ a = 0) (he : b = e ∨ b = 0) :
      (((a ||| b) &&& c ||| o) &&& m) &&& (((w ||| e) &&& c ||| o) &&& m) = ((a ||| b) &&& c ||| o) &&& m := by
    refine BitVec.eq_of_getLsbD_eq fun i _ => ?_
    rcases hw with rfl | rfl <;> rcases he with rfl | rfl <;>
      simp only [BitVec.getLsbD_and, BitVec.getLsbD_or] <;> grind
  unfold heldView obeySet pos
  rw [htab, hpos, hown]
  exact hwithin _ _ _ _ _ _ _ (hsets .west) (hsets .east)

theorem within_zero {a b : PosSet} (h : a &&& b = a) (hb : b = 0) : a = 0 := by
  rw [hb] at h; rw [← h]; exact BitVec.and_zero

theorem Validating.within (h : Validating s x) : x.hold.view &&& heldView (flagged s) = x.hold.view := by
  rw [← h.inForce]
  exact heldView_within (x := flagged s) h.tab h.position h.own fun sd => (h.reset sd).imp And.right And.right

theorem Validating.view_kept (h : Validating s x) (hk : ∀ sd, leftOut s sd = isAbsent s sd) : x.hold.view = heldView (flagged s) := by
  have hw := (h.kept .west (hk .west)).2
  have he := (h.kept .east (hk .east)).2
  have htab : x.tab = (flagged s).tab := h.tab
  rw [← h.inForce]
  unfold heldView obeySet pos
  rw [htab, h.position, h.own, show x.hold.sets.west = s.hold.sets.west from hw,
    show x.hold.sets.east = s.hold.sets.east from he]
  rfl

theorem Validating.leftOut_eq (h : Validating s x) (sd : Side) : absentUnder (pos x) (hdrLength x.tab.tables) sd = leftOut s sd := by
  unfold leftOut pos; rw [h.tab, h.position]

theorem Validating.rest_eq (h : Validating s x) : tripRest x = tripRest s := by unfold tripRest; rw [h.tab]

/-- An act that leaves the still part as it is keeps the frame. -/
theorem Validating.of_still (h : Validating s x) (hs : still t = still x) (hq : Quiet t) : Validating s t := by
  obtain ⟨-, hpos, htime, hlines, hports, -, htab, hscan, hhold, hloc, hstore, -, hpend, hlatch, hcut⟩ := still_fields hs
  have hview : heldView t = heldView x := by unfold heldView obeySet pos; rw [htab, hpos, hhold]
  refine ⟨htab.trans h.tab, ?_, hpos.trans h.position, htime.trans h.time, hlines.trans h.lines, hstore.trans h.store,
    hpend.trans h.pending, hlatch.trans h.latch, hcut.trans h.startCut, ?_, ?_, (firstSide_still hs).trans h.order, hq, ?_, ?_, ?_⟩
  · rw [hloc]; exact h.rate
  · rw [hscan]; exact h.latest
  · rw [hhold]; exact h.own
  · rw [hview, hhold]; exact h.inForce
  · rw [hports, hhold]; exact h.kept
  · rw [hports, hhold]; exact h.reset

/-! ### The port that starts again (R23, R138) -/

/-- The state with a port's record and transmitter started again. -/
def linkReset (y : Side) (x : State) : State :=
  let v := setPort y PortRecord.reset x
  modTx y (fun a => { a with frameTimer := originating v y && !isAbsent v y }) v

/-- And with its hold set, before the view is recomputed. -/
def portReset (y : Side) (x : State) : State :=
  { linkReset y x with hold := { x.hold with sets := x.hold.sets.set y 0 } }

theorem restartPort_eq (y : Side) (x : State) : restartPort y x = recomputeView (portReset y x) := by
  have hset : ((linkReset y x).ports.get y).holdSet = 0 := congrArg PortRecord.holdSet (Sides.get_set ..)
  show takeHoldSet y (linkReset y x) = _
  unfold takeHoldSet; rw [hset]; rfl

theorem portReset_within (hx : heldView x = x.hold.view) (y : Side) :
    heldView (portReset y x) &&& x.hold.view = heldView (portReset y x) := by
  rw [← hx]
  refine heldView_within rfl rfl rfl fun sd => ?_
  by_cases hy : sd = y
  · subst hy; exact Or.inr (Sides.get_set ..)
  · exact Or.inl (Sides.get_set_ne _ _ _ _ hy)

theorem restartPort_quiet (hx : heldView x = x.hold.view) (hq : Quiet x) (y : Side) :
    restartPort y x = modEach (viewEnded (portReset y x)) (reviewed (portReset y x)) := by
  rw [restartPort_eq]
  exact recomputeView_quiet (s := portReset y x) hq fun h0 => within_zero (portReset_within hx y) h0

theorem restartPort_ports (hx : heldView x = x.hold.view) (hq : Quiet x) (y : Side) :
    (restartPort y x).ports = x.ports.set y PortRecord.reset := by rw [restartPort_quiet hx hq]; rfl

theorem restartPort_passes (hx : heldView x = x.hold.view) (hq : Quiet x) (y sd : Side) :
    Passed sd x (restartPort y x) := by
  have hv := fun h0 => within_zero (portReset_within hx y) h0
  rw [restartPort_quiet hx hq]
  refine ⟨rfl, hv, ?_, fun hr => ?_, fun _ => rfl⟩
  · rw [modEach_get]; rfl
  · show (x.ports.set y PortRecord.reset).get sd = _
    by_cases hy : sd = y
    · subst hy; exact Sides.get_set ..
    · rw [Sides.get_set_ne _ _ _ _ hy]; exact hr

/-- The store is asked nothing. -/
theorem restartPort_takes (hx : heldView x = x.hold.view) (hq : Quiet x) (y : Side) : Takes [] x (restartPort y x) := by
  rw [restartPort_quiet hx hq]; exact .none rfl rfl

theorem Validating.restartPort (h : Validating s x) (hy : leftOut s y ≠ isAbsent s y) : Validating s (restartPort y x) := by
  rw [restartPort_quiet h.inForce h.quiet]
  refine ⟨h.tab, h.rate, h.position, h.time, h.lines, h.store, h.pending, h.latch, h.startCut, h.latest, h.own, h.order,
    Quiet.modEach (s := reviewed (portReset y x)) h.quiet (viewEnded_quiet _), rfl, fun sd hk => ?_, fun sd => ?_⟩
  · have hne : sd ≠ y := fun e => hy (e ▸ hk)
    show (x.ports.set y PortRecord.reset).get sd = _ ∧ (x.hold.sets.set y 0).get sd = _
    rw [Sides.get_set_ne _ _ _ _ hne, Sides.get_set_ne _ _ _ _ hne]
    exact h.kept sd hk
  · show ((x.ports.set y PortRecord.reset).get sd = _ ∧ (x.hold.sets.set y 0).get sd = _) ∨
      ((x.ports.set y PortRecord.reset).get sd = _ ∧ (x.hold.sets.set y 0).get sd = _)
    by_cases hne : sd = y
    · subst hne; rw [Sides.get_set, Sides.get_set]; exact Or.inr ⟨rfl, rfl⟩
    · rw [Sides.get_set_ne _ _ _ _ hne, Sides.get_set_ne _ _ _ _ hne]; exact h.reset sd

/-! ### A record that passes -/

theorem Passed.cases (h : Passed sd x t) : t.side.get sd = x.side.get sd ∨
    (x.hold.view ≠ 0 ∧ t.hold.view = 0 ∧ t.side.get sd = endedRecord t sd (x.side.get sd)) := by
  have hr := h.record
  split at hr
  · rename_i hv; exact Or.inr ⟨hv.1, hv.2, hr⟩
  · exact Or.inl hr

theorem Passed.same (h : Passed sd x t) (hs : stateOf x sd ∉ [.dark, .hold]) : t.side.get sd = x.side.get sd := by
  rcases h.cases with hr | ⟨-, -, hr⟩
  · exact hr
  · rw [hr]; exact endedRecord_same hs

theorem Passed.keeps (h : Passed sd x t) :
    (t.side.get sd).failures = (x.side.get sd).failures ∧ (t.side.get sd).lock = (x.side.get sd).lock := by
  rcases h.cases with hr | ⟨-, -, hr⟩
  · rw [hr]; exact ⟨rfl, rfl⟩
  · rw [hr]; exact endedRecord_keeps ..

theorem Passed.state_ne (h : Passed sd x t) {a : SideState} (ha : a ∉ [.dark, .hold, .listen]) :
    stateOf t sd = a ↔ stateOf x sd = a := by
  have hne (b : SideState) (hb : b ∈ [SideState.dark, .hold, .listen]) : b ≠ a := fun e => ha (e ▸ hb)
  unfold stateOf
  rcases h.cases with hr | ⟨-, -, hr⟩
  · rw [hr]
  · rw [hr]
    rcases endedRecord_cases t sd (x.side.get sd) with he | ⟨hs, he⟩ | ⟨hs, he⟩ <;> rw [he]
    · rw [hs]; exact iff_of_false (hne .dark (by decide)) (hne .hold (by decide))
    · rw [hs]; exact iff_of_false (hne .listen (by decide)) (hne .dark (by decide))

/-- A side in HOLD under a view that is not empty: it stays there, or goes to DARK as the view becomes empty. -/
theorem Passed.hold (h : Passed sd x t) (hs : x.hold.view ≠ 0 → stateOf x sd = .hold) :
    (t.hold.view ≠ 0 → t.side.get sd = x.side.get sd) ∧
      (t.hold.view = 0 → x.hold.view ≠ 0 →
        t.side.get sd = (x.side.get sd).darkened (x.side.get sd).reason (tripRest t)) ∧
      (x.hold.view = 0 → t.side.get sd = x.side.get sd) := by
  have hr := h.record
  refine ⟨fun hv => ?_, fun hv hx => ?_, fun hx => ?_⟩
  · rw [if_neg fun hc => hv hc.2] at hr; exact hr
  · rw [if_pos ⟨hx, hv⟩] at hr; rw [hr]; exact if_pos (hs hx)
  · rw [if_neg fun hc => hc.1 hx] at hr; exact hr

theorem Passed.rest_eq (h : Passed sd x t) : tripRest t = tripRest x := by unfold tripRest; rw [h.tab]

/-- A side that has left UNCONFIGURED or ABSENT stands as R43 states under the view that is then in force. -/
theorem Configured.passed (h : Configured sd l s x) (hp : Passed sd x t) : Configured sd l s t := by
  obtain ⟨hlocked, hcut, hfree⟩ := h
  have hlockout (hs : stateOf x sd = .lockout) : t.side.get sd = x.side.get sd := hp.same (by rw [hs]; decide)
  refine ⟨fun hl => ?_, fun hl hc => ?_, fun hl hc => ?_⟩
  · obtain ⟨h1, h2, h3⟩ := hlocked hl
    unfold stateOf; rw [hlockout h1]; exact ⟨h1, h2, h3⟩
  · obtain ⟨h1, h2, h3⟩ := hcut hl hc
    unfold stateOf; rw [hlockout h1]; exact ⟨h1, h2, h3⟩
  · obtain ⟨hstate, hlock, hretry⟩ := hfree hl hc
    obtain ⟨hstays, hdark, hempty⟩ := hp.hold fun hv => by rw [hstate, if_neg hv]
    refine ⟨?_, hp.keeps.2.trans hlock, fun hv => ?_⟩
    · by_cases hv : t.hold.view = 0
      · rw [if_pos hv]
        by_cases hx : x.hold.view = 0
        · unfold stateOf; rw [hempty hx]
          exact hstate.trans (if_pos hx)
        · unfold stateOf; rw [hdark hv hx]; rfl
      · have hx : x.hold.view ≠ 0 := fun e => hv (hp.view e)
        rw [if_neg hv]; unfold stateOf; rw [hstays hv]
        exact hstate.trans (if_neg hx)
    · by_cases hx : x.hold.view = 0
      · rw [hempty hx, hretry hx, hp.rest_eq]
      · rw [hdark hv hx]; rfl

end

end Sys2Proof.Machine
end

section
/-! The moves of a validation at one side: out of UNCONFIGURED or ABSENT, and to ABSENT (R43, R44). -/

namespace Sys2Proof.Machine

section
variable {s t u x : State} {sd y : Side} {r : SideRecord} {l : LockRecord}

/-! ### What a notice leaves of an absent side's queue -/

theorem joinNotice_out_other (n : Message) (sd : Side) (m : MsgEngine) :
    (joinNotice n sd m).out.get sd.other = m.out.get sd.other := by
  unfold joinNotice; dsimp only; split
  · exact Sides.get_set_other ..
  · split
    · exact Sides.get_set_other ..
    · rw [discardMessage, releaseReset_out]; exact Sides.get_set_other ..

theorem postNotice_out {w e : Bool} {n : Message} {m : MsgEngine} (sd : Side)
    (h : (match sd with | .west => w | .east => e) = true) : (postNotice w e n m).out.get sd = m.out.get sd := by
  have hjoin (b : Bool) (m : MsgEngine) (x y : Side) (hy : y = x → b = true) :
      (if b then m else joinNotice n x m).out.get y = m.out.get y := by
    cases b
    · rcases eq_or_other x y with rfl | rfl
      · exact absurd (hy rfl) Bool.false_ne_true
      · exact joinNotice_out_other n x m
    · rfl
  unfold postNotice
  rw [deliver_out]
  refine (hjoin e _ .east sd fun hs => ?_).trans (hjoin w m .west sd fun hs => ?_)
  · subst hs; exact h
  · subst hs; exact h

theorem sideNotice_out (k : Octet) (c : Cause) (e : SideState) (ha : isAbsent s y = true) :
    (sideNotice k sd c e s).msg.out.get y = s.msg.out.get y :=
  postNotice_out y (by cases y <;> exact ha)

theorem enterLockout_out (c k : Cause) (ha : isAbsent s sd.other = true) :
    (enterLockout sd c k s).msg.out.get sd.other = s.msg.out.get sd.other := by
  have hnot (v : State) (hv : v.side.get sd.other = s.side.get sd.other) (hm : v.msg = s.msg) :
      (sideNotice 114 sd c .lockout (queueRecord (lockRecordOf sd v) v)).msg.out.get sd.other = s.msg.out.get sd.other := by
    rw [sideNotice_out, queueRecord_msg, hm]
    unfold isAbsent; rw [queueRecord_side, hv]; exact ha
  unfold enterLockout; dsimp only
  refine hnot _ ?_ ?_ <;> split
  · rw [queueRecord_side]; exact Sides.get_set_other ..
  · exact Sides.get_set_other ..
  · rw [queueRecord_msg]; rfl
  · rfl

/-! ### The move out of UNCONFIGURED or ABSENT (R43) -/

theorem configure_still (sd : Side) (s : State) : still (configure sd s) = still s := by
  unfold configure; split
  · exact enterLockout_still ..
  · split
    · exact enterLockout_still ..
    · exact enterDark_still ..

theorem configure_other (sd : Side) (s : State) : (configure sd s).side.get sd.other = s.side.get sd.other := by
  unfold configure; split
  · exact enterLockout_other ..
  · split
    · exact enterLockout_other ..
    · exact enterDark_other ..

theorem configure_out (ha : isAbsent s sd.other = true) :
    (configure sd s).msg.out.get sd.other = s.msg.out.get sd.other := by
  unfold configure; split
  · exact enterLockout_out _ _ ha
  · split
    · exact enterLockout_out _ _ ha
    · rw [(enterDark_elsewhere ..).1]

theorem configure_configured (sd : Side) (s : State) : Configured sd (s.side.get sd).lock s (configure sd s) := by
  have hview : (configure sd s).hold.view = s.hold.view :=
    congrArg (fun a : Still => a.hold.view) (configure_still sd s)
  have htab : (configure sd s).tab = s.tab := congrArg Still.tab (configure_still sd s)
  refine ⟨fun hl => ?_, fun hl hc => ?_, fun hl hc => ?_⟩
  · have he : (configure sd s).side.get sd = (s.side.get sd).lockedOut (s.side.get sd).lock.reason := by
      unfold configure; rw [if_pos hl, enterLockout_own]
    unfold stateOf; rw [he]; exact ⟨rfl, rfl, rfl⟩
  · have he : (configure sd s).side.get sd = (s.side.get sd).lockedOut .cut := by
      unfold configure; rw [if_neg (by rw [hl]; exact Bool.false_ne_true), if_pos hc, enterLockout_own]
    unfold stateOf; rw [he]; exact ⟨rfl, rfl, rfl⟩
  · have he : (configure sd s).side.get sd = if s.hold.view = 0
        then (s.side.get sd).darkened (s.side.get sd).reason (tripRest s)
        else ((s.side.get sd).darkened (s.side.get sd).reason (tripRest s)).held := by
      unfold configure
      rw [if_neg (by rw [hl]; exact Bool.false_ne_true), if_neg (by rw [hc]; exact Bool.false_ne_true), enterDark_own]
    have hrest : tripRest (configure sd s) = tripRest s := by unfold tripRest; rw [htab]
    unfold stateOf; rw [he, hview, hrest]
    by_cases hv : s.hold.view = 0
    · rw [if_pos hv, if_pos hv]; exact ⟨rfl, rfl, fun _ => rfl⟩
    · rw [if_neg hv, if_neg hv]; exact ⟨rfl, rfl, fun h => absurd h hv⟩

theorem configure_failures (sd : Side) (s : State) :
    ((configure sd s).side.get sd).failures = (s.side.get sd).failures := by
  unfold configure; split
  · rw [enterLockout_own]; rfl
  · split
    · rw [enterLockout_own]; rfl
    · rw [enterDark_own]; split <;> rfl

/-- The lock record that the move hands on: that of a new lockout (R171, R182). -/
def configureRecords (sd : Side) (s : State) : List StoreRecord :=
  if (s.side.get sd).lock.locked then
    [.lock sd true (s.side.get sd).lock.reason ((s.side.get sd).lock.count + 1)]
  else if s.pdu.latch then [.lock sd true .cut ((s.side.get sd).lock.count + 1)]
  else []

theorem configure_takes (h : (stateOf s sd).lights = false) : Takes (configureRecords sd s) s (configure sd s) := by
  have hlock (c : Cause) : Takes [.lock sd true c ((s.side.get sd).lock.count + 1)] s (enterLockout sd c c s) := by
    have := enterLockout_takes sd c c s
    rw [if_neg (by rw [h]; exact Bool.false_ne_true)] at this
    exact this
  unfold configure configureRecords; split
  · exact hlock _
  · split
    · exact hlock _
    · obtain ⟨-, hctl, hch, -⟩ := enterDark_elsewhere sd (tripRest s) s
      exact .none hctl hch

/-- Where the move leaves a side. -/
theorem Configured.state (h : Configured sd l s t) : stateOf t sd ∈ [.lockout, .dark, .hold] := by
  obtain ⟨hlocked, hcut, hfree⟩ := h
  cases hl : l.locked with
  | true => rw [(hlocked hl).1]; simp
  | false =>
    cases hc : s.pdu.latch with
    | true => rw [(hcut hl hc).1]; simp
    | false => rw [(hfree hl hc).1]; split <;> simp

theorem Configured.of_latch (h : Configured sd l x t) (hc : x.pdu.latch = s.pdu.latch) : Configured sd l s t := by
  unfold Configured at *; rw [hc] at h; exact h

theorem configure_quiet (h : Quiet s) (sd : Side) : Quiet (configure sd s) := fun y => by
  rcases eq_or_other sd y with rfl | rfl
  · have := (configure_configured y s).state
    unfold stateOf at this
    left
    simp only [List.mem_cons, List.not_mem_nil, or_false] at this
    rcases this with e | e | e <;> rw [e] <;> rfl
  · rw [configure_other]; exact h sd.other

/-- The other side passes the move. -/
theorem configure_passes (sd : Side) (s : State) : Passed sd.other s (configure sd s) := by
  have hst := configure_still sd s
  have hview : (configure sd s).hold.view = s.hold.view := congrArg (fun a : Still => a.hold.view) hst
  refine ⟨congrArg Still.tab hst, fun h => hview.trans h, ?_, fun h => ?_, configure_out⟩
  · rw [configure_other, if_neg]
    rintro ⟨h0, h1⟩
    exact h0 (hview ▸ h1)
  · rw [show (configure sd s).ports = s.ports from congrArg Still.ports hst]; exact h

/-! ### The move to ABSENT (R44) -/

/-- A side that has become ABSENT, before its port starts again. -/
def goneAbsent (sd : Side) (s : State) : State :=
  let s1 := modSide sd (SideRecord.gone (moveReason s sd)) (nextFree s)
  let s2 := if (stateOf s sd).lights then immediateCut sd s1 else s1
  let s3 := if stateOf s sd = .lockout then queueRecord (lockRecordOf sd s2) s2 else s2
  modTx sd (fun x => { x with transit := [] }) (onMsg (emptyQueue sd) s3)

theorem becomeAbsent_eq (sd : Side) (s : State) : becomeAbsent sd s = restartPort sd (goneAbsent sd s) := rfl

/-- A quiet side is not lit. -/
theorem QuietRecord.dark (h : QuietRecord r) : r.state.lights = false := by
  rcases h with h | ⟨h, -⟩
  · refine Bool.eq_false_iff.2 fun hl => ?_
    rw [lights_active hl] at h; exact Bool.noConfusion h
  · rw [h]; rfl

/-- The records that a side hands on as it becomes ABSENT: a side in LOCKOUT its lock record (R182). -/
def goneRecords (sd : Side) (s : State) : List StoreRecord :=
  if stateOf s sd = .lockout then [.lock sd (s.side.get sd).lock.locked (s.side.get sd).lock.reason (s.side.get sd).lock.count]
  else []

/-- The store's side of the move. -/
def goneHanded (sd : Side) (s : State) : State :=
  if stateOf s sd = .lockout then
    queueRecord (.lock sd (s.side.get sd).lock.locked (s.side.get sd).lock.reason (s.side.get sd).lock.count)
      (modSide sd (SideRecord.gone (moveReason s sd)) (nextFree s))
  else modSide sd (SideRecord.gone (moveReason s sd)) (nextFree s)

theorem goneAbsent_eq (h : QuietRecord (s.side.get sd)) : goneAbsent sd s =
    modTx sd (fun x => { x with transit := [] }) (onMsg (emptyQueue sd) (goneHanded sd s)) := by
  have hlock : lockRecordOf sd (modSide sd (SideRecord.gone (moveReason s sd)) (nextFree s)) =
      .lock sd (s.side.get sd).lock.locked (s.side.get sd).lock.reason (s.side.get sd).lock.count := by
    unfold lockRecordOf; rw [modSide_side, Sides.get_set]; rfl
  unfold goneAbsent goneHanded
  dsimp only
  rw [if_neg (show ¬ (stateOf s sd).lights = true from by unfold stateOf; rw [h.dark]; exact Bool.false_ne_true), hlock]

theorem goneHanded_takes (sd : Side) (s : State) : Takes (goneRecords sd s) s (goneHanded sd s) := by
  unfold goneHanded goneRecords; split
  · exact (queueRecord_takes _ _).before rfl rfl
  · exact .none rfl rfl

theorem goneHanded_still (sd : Side) (s : State) : still (goneHanded sd s) = { still s with free := s.free + 1 } := by
  unfold goneHanded; split
  · rw [queueRecord_still, modSide_still]; rfl
  · rw [modSide_still]; rfl

theorem goneHanded_side (sd : Side) (s : State) :
    (goneHanded sd s).side = s.side.set sd ((s.side.get sd).gone (moveReason s sd)) := by
  unfold goneHanded; split
  · rw [queueRecord_side]; rfl
  · rfl

theorem goneHanded_msg (sd : Side) (s : State) : (goneHanded sd s).msg = s.msg := by
  unfold goneHanded; split
  · rw [queueRecord_msg]; rfl
  · rfl

theorem emptyQueue_out (sd : Side) (m : MsgEngine) : (emptyQueue sd m).out = m.out.set sd ⟨[], []⟩ := by
  rw [emptyQueue, foldl_discard_out]

theorem goneAbsent_side (h : QuietRecord (s.side.get sd)) :
    (goneAbsent sd s).side = s.side.set sd ((s.side.get sd).gone (moveReason s sd)) := by
  rw [goneAbsent_eq h]; exact goneHanded_side sd s

theorem goneAbsent_takes (h : QuietRecord (s.side.get sd)) : Takes (goneRecords sd s) s (goneAbsent sd s) := by
  rw [goneAbsent_eq h]; exact (goneHanded_takes sd s).after rfl rfl

theorem goneAbsent_out (h : QuietRecord (s.side.get sd)) : (goneAbsent sd s).msg.out = s.msg.out.set sd ⟨[], []⟩ := by
  rw [goneAbsent_eq h]
  refine (emptyQueue_out sd (goneHanded sd s).msg).trans ?_
  rw [goneHanded_msg]

theorem goneAbsent_quiet (h : Quiet s) (sd : Side) : Quiet (goneAbsent sd s) := fun y => by
  rw [goneAbsent_side (h sd)]
  by_cases hy : y = sd
  · subst hy; rw [Sides.get_set]; exact Or.inl rfl
  · rw [Sides.get_set_ne _ _ _ _ hy]; exact h y

theorem goneAbsent_inForce (h : Quiet s) (hv : heldView s = s.hold.view) :
    heldView (goneAbsent sd s) = (goneAbsent sd s).hold.view := by
  have hst := goneHanded_still sd s
  have hhold : (goneHanded sd s).hold = s.hold := congrArg Still.hold hst
  have htab : (goneHanded sd s).tab = s.tab := congrArg Still.tab hst
  have hpos : (goneHanded sd s).position = s.position := congrArg Still.position hst
  rw [goneAbsent_eq (h sd)]
  show heldView (goneHanded sd s) = (goneHanded sd s).hold.view
  rw [hhold, ← hv]
  unfold heldView obeySet pos; rw [hhold, htab, hpos]

theorem Validating.goneAbsent (h : Validating s x) (sd : Side) : Validating s (goneAbsent sd x) := by
  have hst := goneHanded_still sd x
  have hq := goneAbsent_quiet h.quiet sd
  have hv := goneAbsent_inForce (sd := sd) h.quiet h.inForce
  have hscan : (goneHanded sd x).scan = x.scan := congrArg Still.scan hst
  have hhold : (goneHanded sd x).hold = x.hold := congrArg Still.hold hst
  have hports : (goneHanded sd x).ports = x.ports := congrArg Still.ports hst
  have hloc : (goneHanded sd x).loc = x.loc := congrArg Still.loc hst
  rw [goneAbsent_eq (h.quiet sd)] at hq hv ⊢
  refine ⟨(congrArg Still.tab hst).trans h.tab, ?_, (congrArg Still.position hst).trans h.position,
    (congrArg Still.time hst).trans h.time, (congrArg Still.lines hst).trans h.lines,
    (congrArg Still.store hst).trans h.store, (congrArg Still.pending hst).trans h.pending,
    (congrArg Still.latch hst).trans h.latch, (congrArg Still.startCut hst).trans h.startCut, ?_, ?_, ?_, hq, hv, ?_, ?_⟩
  · show (goneHanded sd x).loc.rateInForce = _
    rw [hloc]; exact h.rate
  · show (goneHanded sd x).scan.latest = _
    rw [hscan]; exact h.latest
  · show (goneHanded sd x).hold.own = _
    rw [hhold]; exact h.own
  · show firstSide (goneHanded sd x).choices = _
    rw [← h.order]
    unfold firstSide; rw [show (goneHanded sd x).choices.eastFirst = x.choices.eastFirst from congrArg Still.eastFirst hst]
  · show ∀ y, _ → (goneHanded sd x).ports.get y = _ ∧ (goneHanded sd x).hold.sets.get y = _
    rw [hports, hhold]; exact h.kept
  · show ∀ y, ((goneHanded sd x).ports.get y = _ ∧ (goneHanded sd x).hold.sets.get y = _) ∨
      ((goneHanded sd x).ports.get y = _ ∧ (goneHanded sd x).hold.sets.get y = _)
    rw [hports, hhold]; exact h.reset

/-- The other side passes the move. -/
theorem goneAbsent_passes (h : Quiet s) (sd : Side) : Passed sd.other s (goneAbsent sd s) := by
  have hst := goneHanded_still sd s
  have hview : (goneAbsent sd s).hold.view = s.hold.view := by
    rw [goneAbsent_eq (h sd)]; exact congrArg (fun a : Still => a.hold.view) hst
  refine ⟨?_, fun h => hview.trans h, ?_, fun hr => ?_, fun _ => ?_⟩
  · rw [goneAbsent_eq (h sd)]; exact congrArg Still.tab hst
  · rw [goneAbsent_side (h sd), Sides.get_set_other, if_neg]
    rintro ⟨h0, h1⟩
    exact h0 (hview ▸ h1)
  · have hports : (goneAbsent sd s).ports = s.ports := by
      rw [goneAbsent_eq (h sd)]; exact congrArg Still.ports hst
    rw [hports]; exact hr
  · rw [goneAbsent_out (h sd)]; exact Sides.get_set_other ..

/-! ### Two acts in a row -/

theorem Passed.after (h : Passed sd x t) (hv : t.hold.view = x.hold.view) (hr : t.side.get sd = x.side.get sd)
    (k : Passed sd t u) : Passed sd x u := by
  refine ⟨k.tab.trans h.tab, fun h0 => k.view (h.view h0), ?_, fun h0 => k.reset (h.reset h0), fun ha => ?_⟩
  · rw [k.record, hv, hr]
  · have ha' : isAbsent t sd = true := by unfold isAbsent; rw [hr]; exact ha
    rw [k.out ha', h.out ha]

end

end Sys2Proof.Machine
end

section
/-! The sides through a validation (R43, R44): how each stands before its absence is judged, after it, and placed. -/

namespace Sys2Proof.Machine

/-- A side that keeps its place: it takes the changes of the view alone (R58, R59). -/
structure SideRests (s x : State) (sd : Side) : Prop where
  state : stateOf x sd ∉ [.unconfigured, .absent]
  failures : (x.side.get sd).failures = (s.side.get sd).failures
  lock : (x.side.get sd).lock = (s.side.get sd).lock
  lockout : stateOf s sd = .lockout → x.side.get sd = s.side.get sd
  dark : stateOf s sd = .dark → s.hold.view = 0 → heldView (flagged s) = 0 → x.side.get sd = s.side.get sd
  held : stateOf s sd = .dark → s.hold.view = 0 → heldView (flagged s) ≠ 0 → (x.side.get sd).reason = .hold ∧
    (x.hold.view ≠ 0 → stateOf x sd = .hold ∧ (x.side.get sd).retry = none) ∧
    (x.hold.view = 0 → stateOf x sd = .dark ∧ (x.side.get sd).retry = some (tripRest s))
  hold : stateOf s sd = .hold → s.hold.view ≠ 0 → (x.hold.view ≠ 0 → x.side.get sd = s.side.get sd) ∧
    (x.hold.view = 0 → stateOf x sd = .dark ∧ (x.side.get sd).reason = (s.side.get sd).reason ∧
      (x.side.get sd).retry = some (tripRest s))

/-- A side that the route length leaves out, ABSENT (R44). -/
structure SideGone (s x : State) (sd : Side) : Prop where
  state : stateOf x sd = .absent
  left : stateOf s sd ≠ .absent → (x.side.get sd).failures = [] ∧
    (x.side.get sd).lock = { (s.side.get sd).lock with arming := none } ∧
    x.ports.get sd = PortRecord.reset ∧ x.msg.out.get sd = ⟨[], []⟩
  stayed : stateOf s sd = .absent → (x.side.get sd).lock = (s.side.get sd).lock

/-- A side that has left UNCONFIGURED or ABSENT (R43, R44, R79). -/
structure SideJoined (s x : State) (sd : Side) : Prop where
  configured : Configured sd (s.side.get sd).lock s x
  failures : (x.side.get sd).failures = (s.side.get sd).failures

/-- The lock records that the judgment of a side's absence hands on. -/
def judgedRecords (s : State) (sd : Side) : List StoreRecord :=
  if leftOut s sd then (if isAbsent s sd then [] else goneRecords sd s)
  else (if isAbsent s sd then configureRecords sd s else [])

/-- The lock records that a side hands on as it leaves UNCONFIGURED. -/
def placedRecords (s : State) (sd : Side) : List StoreRecord :=
  if leftOut s sd = false ∧ stateOf s sd = .unconfigured then configureRecords sd s else []

/-- A side before its absence is judged. -/
structure SideStands (s x : State) (sd : Side) : Prop where
  leaves : leftOut s sd = true → isAbsent x sd = isAbsent s sd ∧ (stateOf x sd = .lockout ↔ stateOf s sd = .lockout) ∧
    (x.side.get sd).lock = (s.side.get sd).lock
  joins : leftOut s sd = false → stateOf s sd ∈ [.unconfigured, .absent] → x.side.get sd = s.side.get sd
  rests : leftOut s sd = false → stateOf s sd ∉ [.unconfigured, .absent] → SideRests s x sd

/-- A side whose absence has been judged. -/
structure SideJudged (s x : State) (sd : Side) : Prop where
  gone : leftOut s sd = true → SideGone s x sd
  waits : leftOut s sd = false → stateOf s sd = .unconfigured → x.side.get sd = s.side.get sd
  joined : leftOut s sd = false → stateOf s sd = .absent → SideJoined s x sd
  rests : leftOut s sd = false → stateOf s sd ∉ [.unconfigured, .absent] → SideRests s x sd

/-- A side that a validation has placed. -/
structure SidePlaced (s x : State) (sd : Side) : Prop where
  gone : leftOut s sd = true → SideGone s x sd
  joined : leftOut s sd = false → stateOf s sd ∈ [.unconfigured, .absent] → SideJoined s x sd
  rests : leftOut s sd = false → stateOf s sd ∉ [.unconfigured, .absent] → SideRests s x sd

section
variable {s t u x : State} {sd y : Side}

/-! ### Passing the other side's move -/

theorem Passed.refl (sd : Side) (x : State) : Passed sd x x := by
  refine ⟨rfl, id, ?_, id, fun _ => rfl⟩
  rw [if_neg]
  rintro ⟨h0, h1⟩
  exact h0 h1

theorem SideRests.passed (h : SideRests s x sd) (hf : Validating s x) (hp : Passed sd x t) : SideRests s t sd := by
  have hrest : tripRest t = tripRest s := hp.rest_eq.trans hf.rest_eq
  refine ⟨?_, hp.keeps.1.trans h.failures, hp.keeps.2.trans h.lock, fun hs => ?_, fun hs h0 hv => ?_, fun hs h0 hv => ?_,
    fun hs h0 => ?_⟩
  · have hst := h.state
    simp only [List.mem_cons, List.not_mem_nil, or_false, not_or] at hst ⊢
    exact ⟨fun e => hst.1 ((hp.state_ne (by decide)).1 e), fun e => hst.2 ((hp.state_ne (by decide)).1 e)⟩
  · have hx := h.lockout hs
    refine (hp.same ?_).trans hx
    unfold stateOf; rw [hx]
    rw [show (s.side.get sd).state = .lockout from hs]; decide
  · rcases hp.cases with hr | ⟨hx, -, -⟩
    · exact hr.trans (h.dark hs h0 hv)
    · exact absurd (within_zero hf.within hv) hx
  · obtain ⟨hreason, hhold, hdark⟩ := h.held hs h0 hv
    obtain ⟨hstays, hends, hempty⟩ := hp.hold fun hx => (hhold hx).1
    unfold stateOf at hhold hdark ⊢
    refine ⟨?_, fun ht => ?_, fun ht => ?_⟩
    · rcases hp.cases with hr | ⟨hx, ht, -⟩
      · rw [hr]; exact hreason
      · rw [hends ht hx]; exact hreason
    · rw [hstays ht]; exact hhold fun e => ht (hp.view e)
    · by_cases hx : x.hold.view = 0
      · rw [hempty hx]; exact hdark hx
      · rw [hends ht hx, hrest]; exact ⟨rfl, rfl⟩
  · obtain ⟨hsame, hdark⟩ := h.hold hs h0
    obtain ⟨hstays, hends, hempty⟩ := hp.hold fun hx => by unfold stateOf; rw [hsame hx]; exact hs
    refine ⟨fun ht => (hstays ht).trans (hsame fun e => ht (hp.view e)), fun ht => ?_⟩
    unfold stateOf at hdark ⊢
    by_cases hx : x.hold.view = 0
    · rw [hempty hx]; exact hdark hx
    · rw [hends ht hx, hsame hx, hrest]; exact ⟨rfl, rfl, rfl⟩

theorem SideGone.passed (h : SideGone s x sd) (hp : Passed sd x t) : SideGone s t sd := by
  have hsame := hp.same (by rw [h.state]; decide)
  have habsent : isAbsent x sd = true := (isAbsent_eq_true_iff x sd).2 h.state
  refine ⟨(congrArg SideRecord.state hsame).trans h.state, fun hs => ?_, fun hs => ?_⟩
  · obtain ⟨h1, h2, h3, h4⟩ := h.left hs
    rw [hsame]
    exact ⟨h1, h2, hp.reset h3, (hp.out habsent).trans h4⟩
  · rw [hsame]; exact h.stayed hs

theorem Passed.same_of (h : Passed sd x t) (hr : x.side.get sd = s.side.get sd)
    (hs : stateOf s sd ∈ [.unconfigured, .absent]) : t.side.get sd = s.side.get sd := by
  refine (h.same fun hm => ?_).trans hr
  unfold stateOf at hs hm
  rw [hr] at hm
  simp only [List.mem_cons, List.not_mem_nil, or_false] at hs hm
  rcases hs with e | e <;> rw [e] at hm <;> simp at hm

theorem SideJoined.passed (h : SideJoined s x sd) (hp : Passed sd x t) : SideJoined s t sd :=
  ⟨h.configured.passed hp, hp.keeps.1.trans h.failures⟩

theorem configureRecords_congr (hr : x.side.get sd = s.side.get sd) (hc : x.pdu.latch = s.pdu.latch) :
    configureRecords sd x = configureRecords sd s := by unfold configureRecords; rw [hr, hc]

theorem SideStands.passed (h : SideStands s x sd) (hf : Validating s x) (hp : Passed sd x t) : SideStands s t sd := by
  refine ⟨fun hl => ?_, fun hl hs => hp.same_of (h.joins hl hs) hs, fun hl hs => (h.rests hl hs).passed hf hp⟩
  obtain ⟨h1, h2, h3⟩ := h.leaves hl
  refine ⟨?_, (hp.state_ne (by decide)).trans h2, hp.keeps.2.trans h3⟩
  rw [← h1, Bool.eq_iff_iff, isAbsent_eq_true_iff, isAbsent_eq_true_iff]
  exact hp.state_ne (by decide)

theorem SideJudged.passed (h : SideJudged s x sd) (hf : Validating s x) (hp : Passed sd x t) : SideJudged s t sd :=
  ⟨fun hl => (h.gone hl).passed hp, fun hl hs => hp.same_of (h.waits hl hs) (by rw [hs]; decide),
    fun hl hs => (h.joined hl hs).passed hp, fun hl hs => (h.rests hl hs).passed hf hp⟩

theorem SidePlaced.passed (h : SidePlaced s x sd) (hf : Validating s x) (hp : Passed sd x t) : SidePlaced s t sd :=
  ⟨fun hl => (h.gone hl).passed hp, fun hl hs => (h.joined hl hs).passed hp, fun hl hs => (h.rests hl hs).passed hf hp⟩

/-! ### The moves -/

theorem SideStands.absent (h : SideStands s x sd) : isAbsent x sd = isAbsent s sd := by
  cases hl : leftOut s sd with
  | true => exact (h.leaves hl).1
  | false =>
    by_cases hs : stateOf s sd ∈ [.unconfigured, .absent]
    · unfold isAbsent; rw [h.joins hl hs]
    · have hx := (h.rests hl hs).state
      simp only [List.mem_cons, List.not_mem_nil, or_false, not_or] at hs hx
      rw [Bool.eq_iff_iff, isAbsent_eq_true_iff, isAbsent_eq_true_iff]
      exact iff_of_false hx.2 hs.2

/-- The judgment of a side's absence (R44). -/
theorem judgeAbsent_places (hf : Validating s x) (h : SideStands s x sd) :
    Validating s (judgeAbsent sd x) ∧ SideJudged s (judgeAbsent sd x) sd ∧ Passed sd.other x (judgeAbsent sd x) ∧
      Takes (judgedRecords s sd) x (judgeAbsent sd x) := by
  have habsent := h.absent
  have hstate : isAbsent s sd = true ↔ stateOf s sd = .absent := isAbsent_eq_true_iff s sd
  unfold judgeAbsent judgedRecords
  rw [hf.leftOut_eq, habsent]
  cases ha : isAbsent s sd <;> cases hl : leftOut s sd <;> dsimp only
  · have hs : stateOf s sd ≠ .absent := fun e => by rw [hstate.2 e] at ha; cases ha
    refine ⟨hf, ⟨fun e => ?_, fun _ hu => h.joins hl (by rw [hu]; decide), fun _ e => absurd e hs, fun _ => h.rests hl⟩,
      .refl .., .none rfl rfl⟩
    rw [hl] at e; cases e
  · have hs : stateOf s sd ≠ .absent := fun e => by rw [hstate.2 e] at ha; cases ha
    have hz := hf.goneAbsent sd
    have hne : leftOut s sd ≠ isAbsent s sd := by rw [hl, ha]; decide
    have hrec : (goneAbsent sd x).side.get sd = (x.side.get sd).gone (moveReason x sd) := by
      rw [goneAbsent_side (hf.quiet sd), Sides.get_set]
    have hgone : stateOf (goneAbsent sd x) sd = .absent := congrArg SideRecord.state hrec
    have hpass := restartPort_passes hz.inForce hz.quiet sd sd
    have hsame := (hpass.same (by rw [hgone]; decide)).trans hrec
    have hover := goneAbsent_passes hf.quiet sd
    have hrecords : goneRecords sd x = goneRecords sd s := by
      obtain ⟨-, h2, h3⟩ := h.leaves hl
      unfold goneRecords
      by_cases hk : stateOf s sd = .lockout
      · rw [if_pos hk, if_pos (h2.2 hk), h3]
      · rw [if_neg hk, if_neg fun e => hk (h2.1 e)]
    rw [becomeAbsent_eq]
    refine ⟨hz.restartPort hne, ⟨fun _ => ⟨congrArg SideRecord.state hsame, fun _ => ?_, fun e => absurd e hs⟩, fun e => ?_,
      fun e => ?_, fun e => ?_⟩, ?_, ?_⟩
    · rw [hsame, restartPort_ports hz.inForce hz.quiet, hpass.out ((isAbsent_eq_true_iff _ sd).2 hgone),
        goneAbsent_out (hf.quiet sd), Sides.get_set, Sides.get_set]
      refine ⟨rfl, ?_, rfl, rfl⟩
      show { (x.side.get sd).lock with arming := none } = _
      rw [(h.leaves hl).2.2]
    · exact nomatch hl.symm.trans e
    · exact nomatch hl.symm.trans e
    · exact nomatch hl.symm.trans e
    · refine hover.after ?_ ?_ (restartPort_passes hz.inForce hz.quiet sd sd.other)
      · rw [goneAbsent_eq (hf.quiet sd)]
        exact congrArg (fun a : Still => a.hold.view) (goneHanded_still sd x)
      · rw [goneAbsent_side (hf.quiet sd), Sides.get_set_other]
    · have htakes := (goneAbsent_takes (hf.quiet sd)).trans (restartPort_takes hz.inForce hz.quiet sd)
      rw [List.append_nil, hrecords] at htakes
      exact htakes
  · have hs : stateOf s sd = .absent := hstate.1 ha
    have hjoin := h.joins hl (by rw [hs]; decide)
    have hst := configure_still sd x
    have hz : Validating s (configure sd x) := hf.of_still hst (configure_quiet hf.quiet sd)
    have hne : leftOut s sd ≠ isAbsent s sd := by rw [hl, ha]; decide
    have hconf := (configure_configured sd x).of_latch hf.latch
    rw [hjoin] at hconf
    refine ⟨hz.restartPort hne, ⟨fun e => ?_, fun _ hu => ?_, fun _ _ =>
      SideJoined.passed ⟨hconf, (configure_failures sd x).trans (by rw [hjoin])⟩
        (restartPort_passes hz.inForce hz.quiet sd sd), fun _ hm => absurd (by rw [hs]; decide) hm⟩, ?_, ?_⟩
    · rw [hl] at e; cases e
    · rw [hs] at hu; cases hu
    · refine (configure_passes sd x).after ?_ (configure_other sd x) (restartPort_passes hz.inForce hz.quiet sd sd.other)
      exact congrArg (fun a : Still => a.hold.view) hst
    · have hdark : (stateOf x sd).lights = false := (hf.quiet sd).dark
      have htakes := (configure_takes hdark).trans (restartPort_takes hz.inForce hz.quiet sd)
      rw [List.append_nil, configureRecords_congr hjoin hf.latch] at htakes
      exact htakes
  · have hs : stateOf s sd = .absent := hstate.1 ha
    refine ⟨hf, ⟨fun _ => ⟨(isAbsent_eq_true_iff x sd).1 (habsent.trans ha), fun e => absurd hs e, fun _ => (h.leaves hl).2.2⟩,
      fun e => ?_, fun e => ?_, fun e => ?_⟩, .refl .., .none rfl rfl⟩
    all_goals rw [hl] at e; cases e

/-- The judgment of a side that is UNCONFIGURED (R43). -/
theorem judgeUnconfigured_places (hf : Validating s x) (h : SideJudged s x sd) :
    Validating s (judgeUnconfigured sd x) ∧ SidePlaced s (judgeUnconfigured sd x) sd ∧
      Passed sd.other x (judgeUnconfigured sd x) ∧ Takes (placedRecords s sd) x (judgeUnconfigured sd x) := by
  unfold judgeUnconfigured; split
  · rename_i hu
    have hst := configure_still sd x
    have hwaits : leftOut s sd = false ∧ stateOf s sd = .unconfigured := by
      cases hl : leftOut s sd with
      | true => have := (h.gone hl).state; rw [hu] at this; cases this
      | false =>
        by_cases hs : stateOf s sd ∈ [.unconfigured, .absent]
        · simp only [List.mem_cons, List.not_mem_nil, or_false] at hs
          rcases hs with hs | hs
          · exact ⟨rfl, hs⟩
          · have := (h.joined hl hs).configured.state
            rw [hu] at this; simp at this
        · have := (h.rests hl hs).state
          rw [hu] at this; simp at this
    obtain ⟨hl, hs⟩ := hwaits
    have hconf := (configure_configured sd x).of_latch hf.latch
    rw [h.waits hl hs] at hconf
    have htakes := configure_takes (s := x) (sd := sd) (by rw [hu]; rfl)
    rw [configureRecords_congr (h.waits hl hs) hf.latch] at htakes
    unfold placedRecords
    rw [if_pos ⟨hl, hs⟩]
    refine ⟨hf.of_still hst (configure_quiet hf.quiet sd), ⟨fun e => ?_, fun _ _ =>
      ⟨hconf, (configure_failures sd x).trans (by rw [h.waits hl hs])⟩, fun _ hm => ?_⟩, configure_passes sd x, htakes⟩
    · rw [hl] at e; cases e
    · exact absurd (by rw [hs]; decide) hm
  · rename_i hu
    have hnone : placedRecords s sd = [] := if_neg fun hc =>
      hu ((congrArg SideRecord.state (h.waits hc.1 hc.2)).trans hc.2)
    rw [hnone]
    refine ⟨hf, ⟨h.gone, fun hl hs => ?_, h.rests⟩, .refl .., .none rfl rfl⟩
    simp only [List.mem_cons, List.not_mem_nil, or_false] at hs
    rcases hs with hs | hs
    · have hsame := h.waits hl hs
      exact absurd ((congrArg SideRecord.state hsame).trans hs) hu
    · exact h.joined hl hs

/-- An event that places a side and lets the other pass places both. -/
theorem bothSides_places {P Q : State → Side → Prop} {f : Side → State → State} {l : Side → List StoreRecord}
    (hf : ∀ x sd, Validating s x → P x sd →
      Validating s (f sd x) ∧ Q (f sd x) sd ∧ Passed sd.other x (f sd x) ∧ Takes (l sd) x (f sd x))
    (hP : ∀ x t sd, P x sd → Validating s x → Passed sd x t → P t sd)
    (hQ : ∀ x t sd, Q x sd → Validating s x → Passed sd x t → Q t sd)
    (hx : Validating s x) (h : ∀ sd, P x sd) :
    Validating s (bothSides (sideEvent f) x) ∧ (∀ sd, Q (bothSides (sideEvent f) x) sd) ∧
      Takes (l (firstSide s.choices) ++ l (firstSide s.choices).other) x (bothSides (sideEvent f) x) := by
  have hevent {x : State} {sd : Side} (hx : Validating s x) (h : P x sd) : sideEvent f sd x = f sd x :=
    sideEvent_quiet (hf x sd hx h).1.quiet
  rw [bothSides_inOrder, hx.order]
  generalize firstSide s.choices = a
  obtain ⟨hx1, hq1, hp1, ht1⟩ := hf x a hx (h a)
  have hother := hP _ _ _ (h a.other) hx hp1
  obtain ⟨hx2, hq2, hp2, ht2⟩ := hf _ a.other hx1 hother
  rw [Side.other_other] at hp2
  rw [hevent hx (h a), hevent hx1 hother]
  refine ⟨hx2, fun sd => ?_, ht1.trans ht2⟩
  rcases eq_or_other a sd with rfl | rfl
  · exact hQ _ _ _ hq1 hx1 hp2
  · exact hq2

theorem moveSides_places (hx : Validating s x) (h : ∀ sd, SideStands s x sd) :
    Validating s (moveSides x) ∧ (∀ sd, SidePlaced s (moveSides x) sd) ∧
      Takes ((judgedRecords s (firstSide s.choices) ++ judgedRecords s (firstSide s.choices).other) ++
        (placedRecords s (firstSide s.choices) ++ placedRecords s (firstSide s.choices).other)) x (moveSides x) := by
  obtain ⟨hf, hj, ht⟩ := bothSides_places (s := s) (P := SideStands s) (Q := SideJudged s) (l := judgedRecords s)
    (fun x sd => judgeAbsent_places) (fun x t sd h => h.passed) (fun x t sd h => h.passed) hx h
  obtain ⟨kf, kp, kt⟩ := bothSides_places (s := s) (P := SideJudged s) (Q := SidePlaced s) (l := placedRecords s)
    (fun x sd => judgeUnconfigured_places) (fun x t sd h => h.passed) (fun x t sd h => h.passed) hf hj
  exact ⟨kf, kp, ht.trans kt⟩

end

end Sys2Proof.Machine
end

section
/-! O31: TABLES-CHECK (R38, R41 to R44, R53, R54, R58, R59, R79). -/

namespace Sys2Proof.Machine

/-- How a side that stood at rest has taken the view of a validation (R43, R58, R59). -/
structure ViewTaken (s : State) (r q : SideRecord) : Prop where
  elsewhere : r.state ∉ [.dark, .hold] → q = r
  between : r.state ∈ [.dark, .hold] → q.state ∈ [.dark, .hold, .listen]
  failures : q.failures = r.failures
  lock : q.lock = r.lock
  dark : r.state = .dark → s.hold.view = 0 → (heldView (flagged s) = 0 → q = r) ∧ (heldView (flagged s) ≠ 0 → q = r.held)
  hold : r.state = .hold → s.hold.view ≠ 0 →
    (heldView (flagged s) ≠ 0 → q = r) ∧ (heldView (flagged s) = 0 → q = r.darkened r.reason (tripRest s))

section
variable {s t u x : State} {sd y : Side} {r : SideRecord} {req : Request} {ch : Choices}

/-! ### Steps 1 and 2 of R43 -/

theorem restHeld_taken (h0 : s.hold.view = 0) (h1 : heldView (flagged s) ≠ 0) (r : SideRecord) :
    ViewTaken s r (restHeld r) := by
  have hheld (h : r.state = .dark) : restHeld r = r.held := if_pos h
  have hsame (h : r.state ≠ .dark) : restHeld r = r := if_neg h
  refine ⟨fun h => hsame fun e => h (by rw [e]; decide), fun h => ?_, ?_, ?_, fun h _ => ⟨fun e => absurd e h1, fun _ => hheld h⟩,
    fun _ hv => absurd h0 hv⟩
  · by_cases hd : r.state = .dark
    · rw [hheld hd]; simp [SideRecord.held]
    · rw [hsame hd]; simp only [List.mem_cons, List.not_mem_nil, or_false] at h ⊢; tauto
  all_goals
    unfold restHeld; split <;> rfl

theorem viewEnded_taken (h : s.hold.view = 0 → heldView (flagged s) = 0) (sd : Side) (r : SideRecord) :
    ViewTaken s r (viewEnded (flagged s) sd r) := by
  by_cases hends : s.hold.view ≠ 0 ∧ heldView (flagged s) = 0
  · have hg : viewEnded (flagged s) sd r = endedRecord (reviewed (flagged s)) sd r := if_pos hends
    rw [hg]
    refine ⟨endedRecord_same, fun hr => ?_, (endedRecord_keeps ..).1, (endedRecord_keeps ..).2, fun _ h0 =>
      absurd h0 hends.1, fun hr _ => ⟨fun h1 => absurd hends.2 h1, fun _ => if_pos hr⟩⟩
    rcases endedRecord_cases (reviewed (flagged s)) sd r with he | ⟨-, he⟩ | ⟨-, he⟩ <;> rw [he]
    · simp only [List.mem_cons, List.not_mem_nil, or_false] at hr ⊢; tauto
    · simp [SideRecord.darkened]
    · simp [SideRecord.listening]
  · have hg : viewEnded (flagged s) sd r = r := if_neg hends
    rw [hg]
    refine ⟨fun _ => rfl, fun hr => ?_, rfl, rfl, fun _ h0 => ⟨fun _ => rfl, fun h1 => absurd (h h0) h1⟩,
      fun _ h0 => ⟨fun _ => rfl, fun h1 => absurd ⟨h0, h1⟩ hends⟩⟩
    simp only [List.mem_cons, List.not_mem_nil, or_false] at hr ⊢; tauto

theorem bringInForce_eq (hr : NoneActive s) : ∃ g, bringInForce s = modEach g (reviewed (flagged s)) ∧
    Quiet (bringInForce s) ∧ ∀ sd r, ViewTaken s r (g sd r) := by
  have hrest : NoneActive (flagged s) := hr
  by_cases h : s.hold.view = 0 ∧ heldView (flagged s) ≠ 0
  · have heq : bringInForce s = modEach (fun _ => restHeld) (reviewed (flagged s)) :=
      recomputeView_holds (s := flagged s) hr h.1 h.2
    refine ⟨fun _ => restHeld, heq, ?_, fun sd r => restHeld_taken h.1 h.2 r⟩
    rw [heq]
    exact fun sd => by rw [modEach_get]; exact Or.inl (restHeld_rest _ (hr sd))
  · have hnone (h0 : s.hold.view = 0) : heldView (flagged s) = 0 := not_not.1 fun h1 => h ⟨h0, h1⟩
    have heq : bringInForce s = modEach (viewEnded (flagged s)) (reviewed (flagged s)) :=
      recomputeView_quiet (s := flagged s) hr.quiet hnone
    refine ⟨_, heq, ?_, viewEnded_taken hnone⟩
    rw [heq]
    exact Quiet.modEach (s := reviewed (flagged s)) hr.quiet (viewEnded_quiet _)

theorem ViewTaken.rests (h : ViewTaken s (s.side.get sd) (x.side.get sd)) (hv : x.hold.view = heldView (flagged s))
    (hs : stateOf s sd ∉ [.unconfigured, .absent]) : SideRests s x sd := by
  obtain ⟨helse, hbetween, hfail, hlock, hdark, hhold⟩ := h
  unfold stateOf at hs
  refine ⟨?_, hfail, hlock, fun e => helse ?_, fun e h0 h1 => (hdark e h0).1 h1, fun e h0 h1 => ?_, fun e h0 => ?_⟩
  · unfold stateOf
    by_cases hm : (s.side.get sd).state ∈ [.dark, .hold]
    · have := hbetween hm
      simp only [List.mem_cons, List.not_mem_nil, or_false] at this
      rcases this with e | e | e <;> rw [e] <;> decide
    · rw [helse hm]; exact hs
  · rw [show (s.side.get sd).state = .lockout from e]; decide
  · rw [hv]; unfold stateOf; rw [(hdark e h0).2 h1]
    exact ⟨rfl, fun _ => ⟨rfl, rfl⟩, fun h => absurd h h1⟩
  · rw [hv]; unfold stateOf
    refine ⟨fun h1 => (hhold e h0).1 h1, fun h1 => ?_⟩
    rw [(hhold e h0).2 h1]; exact ⟨rfl, rfl, rfl⟩

theorem bringInForce_takes (hr : NoneActive s) : Takes [] s (bringInForce s) := by
  obtain ⟨g, heq, -⟩ := bringInForce_eq hr
  rw [heq]; exact .none rfl rfl

/-- The part before the sides move. -/
theorem bringInForce_stands (hr : NoneActive s) :
    Validating s (bringInForce s) ∧ ∀ sd, SideStands s (bringInForce s) sd := by
  obtain ⟨g, heq, hquiet, hg⟩ := bringInForce_eq hr
  have hrec (sd : Side) : (bringInForce s).side.get sd = g sd (s.side.get sd) := by rw [heq, modEach_get]; rfl
  have htaken (sd : Side) : ViewTaken s (s.side.get sd) ((bringInForce s).side.get sd) := by rw [hrec]; exact hg ..
  have hview : (bringInForce s).hold.view = heldView (flagged s) := by rw [heq]; rfl
  refine ⟨?_, fun sd => ⟨fun _ => ⟨?_, ?_, (htaken sd).lock⟩, fun _ hs => (htaken sd).elsewhere ?_, fun _ hs =>
    (htaken sd).rests hview hs⟩⟩
  · rw [heq] at hquiet ⊢
    exact ⟨rfl, rfl, rfl, rfl, rfl, rfl, rfl, rfl, rfl, rfl, rfl, rfl, hquiet, rfl, fun _ _ => ⟨rfl, rfl⟩,
      fun _ => Or.inl ⟨rfl, rfl⟩⟩
  · unfold isAbsent
    by_cases hm : (s.side.get sd).state ∈ [.dark, .hold]
    · have hq := (htaken sd).between hm
      simp only [List.mem_cons, List.not_mem_nil, or_false] at hm hq
      rcases hm with e | e <;> rcases hq with k | k | k <;> rw [e, k] <;> rfl
    · rw [(htaken sd).elsewhere hm]
  · unfold stateOf
    by_cases hm : (s.side.get sd).state ∈ [.dark, .hold]
    · have hq := (htaken sd).between hm
      simp only [List.mem_cons, List.not_mem_nil, or_false] at hm hq
      rcases hm with e | e <;> rcases hq with k | k | k <;> rw [e, k] <;> decide
    · rw [(htaken sd).elsewhere hm]
  · unfold stateOf at hs
    simp only [List.mem_cons, List.not_mem_nil, or_false] at hs
    rcases hs with e | e <;> rw [e] <;> decide

/-! ### The whole validation -/

/-- The sides of a validation, before they judge R54. -/
def placed (s : State) : State := moveSides (bringInForce s)

theorem placed_places (hr : NoneActive s) : Validating s (placed s) ∧ (∀ sd, SidePlaced s (placed s) sd) ∧
    Takes ((judgedRecords s (firstSide s.choices) ++ judgedRecords s (firstSide s.choices).other) ++
      (placedRecords s (firstSide s.choices) ++ placedRecords s (firstSide s.choices).other)) s (placed s) := by
  obtain ⟨hf, hs⟩ := bringInForce_stands hr
  obtain ⟨kf, kp, kt⟩ := moveSides_places hf hs
  exact ⟨kf, kp, (bringInForce_takes hr).trans kt⟩

theorem validate_eq (hr : NoneActive s) (hv : s.tab.validated = false) :
    validate s = modEach (judgedRecord (placed s)) (placed s) := by
  unfold validate
  rw [if_neg (by rw [hv]; exact Bool.false_ne_true)]
  exact bothSides_judgeDark (placed_places hr).1.quiet

theorem judged_same (h : stateOf x sd ≠ .dark ∨ (x.side.get sd).retry ≠ none) :
    judgedRecord x sd (x.side.get sd) = x.side.get sd :=
  judgedRecord_stays (h.imp_right Or.inl)

/-- A side that has left UNCONFIGURED or ABSENT is not called to LISTEN: its trip rest runs. -/
theorem Configured.judged {l : LockRecord} (h : Configured sd l s x) :
    judgedRecord x sd (x.side.get sd) = x.side.get sd := by
  obtain ⟨hlocked, hcut, hfree⟩ := h
  apply judged_same
  cases hl : l.locked with
  | true => rw [(hlocked hl).1]; exact Or.inl (by decide)
  | false =>
    cases hc : s.pdu.latch with
    | true => rw [(hcut hl hc).1]; exact Or.inl (by decide)
    | false =>
      obtain ⟨hstate, -, hretry⟩ := hfree hl hc
      by_cases hv : x.hold.view = 0
      · exact Or.inr (by rw [hretry hv]; exact Option.some_ne_none _)
      · exact Or.inl (by rw [hstate, if_neg hv]; decide)

/-- The count of the moved sides (log 24). -/
theorem movedSides_eq (hv : s.tab.validated = false) :
    movedSides s = movedOne (bringInForce s) (placed s) .west + movedOne (bringInForce s) (placed s) .east := by
  unfold movedSides; rw [if_neg (by rw [hv]; exact Bool.false_ne_true)]; rfl

theorem movedOne_le (a b : State) (sd : Side) : movedOne a b sd ≤ 1 := by unfold movedOne; split <;> omega

/-- A side that was UNCONFIGURED has moved. -/
theorem movedOne_unconfigured (hr : NoneActive s) (hs : stateOf s sd = .unconfigured) :
    movedOne (bringInForce s) (placed s) sd = 1 := by
  obtain ⟨g, heq, -, hg⟩ := bringInForce_eq hr
  have hbefore : stateOf (bringInForce s) sd = .unconfigured := by
    unfold stateOf
    rw [heq, modEach_get, (hg sd ((reviewed (flagged s)).side.get sd)).elsewhere]
    · exact hs
    · rw [show ((reviewed (flagged s)).side.get sd).state = .unconfigured from hs]; decide
  have hafter : stateOf (placed s) sd ≠ .unconfigured := by
    have hp := (placed_places hr).2.1 sd
    cases hl : leftOut s sd with
    | true => rw [(hp.gone hl).state]; decide
    | false =>
      have := (hp.joined hl (by rw [hs]; decide)).configured.state
      intro e
      rw [e] at this; simp at this
  unfold movedOne
  rw [if_neg]
  rw [hbefore]; exact fun e => hafter e.symm

/-! ### The request -/

/-- R38 and R43 at a request that R163 lets through. -/
def tablesCheckRule (r : Request) (s : State) : State :=
  if 23 < r.len.toNat then reply 6 r (alone .value) s
  else if s.ctl.op.isLoading then reply 6 r (alone .busy) s
  else
    match runChecks (pos s) s.tab.tables with
    | some f => reply 6 r [Status.value.code, f.table, f.index, f.code] s
    | none =>
      reply 6 r ([Status.done.code] ++ octets16 (hdrEdition s.tab.tables) ++ [natOctet (movedSides s)]) (validate s)

theorem exec_tablesCheck (h : Accepted s req) (ch : Choices) : exec (.tablesCheck req ch) s =
    .next (settle (tablesCheckRule (taken s req) (withChoices ch s))) :=
  exec_settles (f := fun t => reqTablesCheck (taken t req) t) rfl h.1 (judgeModifying_accepted h ch 6 _ _)

theorem tablesCheckRule_long (h : 23 < req.len.toNat) : tablesCheckRule (taken s req) (withChoices ch s) =
    answer 6 req [4] (withChoices ch s) := by
  unfold tablesCheckRule
  rw [taken_len, if_pos h, reply_begun]; rfl

theorem tablesCheckRule_loading (h : req.len.toNat ≤ 23) (hl : s.ctl.op.isLoading = true) :
    tablesCheckRule (taken s req) (withChoices ch s) = answer 6 req [1] (withChoices ch s) := by
  unfold tablesCheckRule
  rw [taken_len, if_neg (by omega), if_pos (by rw [withChoices_ctl, hl]), reply_begun]; rfl

theorem tablesCheckRule_fails {f : CheckFailure} (h : req.len.toNat ≤ 23) (hl : s.ctl.op.isLoading = false)
    (hc : runChecks (pos s) s.tab.tables = some f) : tablesCheckRule (taken s req) (withChoices ch s) =
      answer 6 req [4, f.table, f.index, f.code] (withChoices ch s) := by
  unfold tablesCheckRule
  rw [taken_len, if_neg (by omega), if_neg (by rw [withChoices_ctl, hl]; exact Bool.false_ne_true),
    show runChecks (pos (withChoices ch s)) (withChoices ch s).tab.tables = some f from hc]
  dsimp only
  rw [reply_begun]; rfl

theorem tablesCheckRule_passes (h : req.len.toNat ≤ 23) (hl : s.ctl.op.isLoading = false)
    (hc : runChecks (pos s) s.tab.tables = none) (hpos : (validate (withChoices ch s)).position = s.position) :
    tablesCheckRule (taken s req) (withChoices ch s) = answer 6 req
      ([0] ++ octets16 (hdrEdition s.tab.tables) ++ [natOctet (movedSides (withChoices ch s))])
      (validate (withChoices ch s)) := by
  unfold tablesCheckRule
  rw [taken_len, if_neg (by omega), if_neg (by rw [withChoices_ctl, hl]; exact Bool.false_ne_true),
    show runChecks (pos (withChoices ch s)) (withChoices ch s).tab.tables = none from hc]
  dsimp only
  rw [reply_taken _ _ _ s _ hpos]; rfl

end

end Sys2Proof.Machine
end

section
/-! O31: the validation's result, from the sides as they were placed. -/

namespace Sys2Proof.Machine

section
variable {s t u x : State} {sd y : Side} {r : SideRecord} {req : Request} {ch : Choices}

/-- What a side in DARK must find to be called to LISTEN as the view becomes empty (R54). -/
def Hearing (s : State) (sd : Side) : Prop :=
  (s.ports.get sd).loss = false ∧ (s.ports.get sd).condition ≠ .withdrawn ∧ (s.ports.get sd).neighbour = false ∧
    (s.side.get sd).retry = none ∧ s.lines.trip.get sd = false

theorem hears_iff (hports : x.ports.get sd = s.ports.get sd) (hlines : x.lines = s.lines)
    (hv : x.hold.view = 0) (hf : x.tab.validated = true) :
    (s.side.get sd).retry = none ∧ hears x sd = true ↔ Hearing s sd := by
  unfold hears Hearing
  rw [hports, hlines, hv, hf]
  simp only [Bool.and_eq_true, Bool.not_eq_true', bne_iff_ne, ne_eq, beq_self_eq_true]
  tauto

/-- The end of a validation leaves every side that does not listen as it was placed. -/
theorem judged_passes (h : judgedRecord x sd (x.side.get sd) = x.side.get sd) :
    Passed sd x (modEach (judgedRecord x) x) := by
  refine ⟨rfl, id, ?_, id, fun _ => rfl⟩
  rw [modEach_get, h, if_neg]
  rintro ⟨h0, h1⟩
  exact h0 h1

/-- A side that keeps its place is called to LISTEN only from a DARK under an empty view. -/
theorem SideRests.judged (h : SideRests s x sd) (hf : Validating s x) (hk : leftOut s sd = isAbsent s sd)
    (hs : stateOf s sd = .dark) (h0 : s.hold.view = 0) :
    (heldView (flagged s) = 0 → Hearing s sd → judgedRecord x sd (x.side.get sd) =
      (s.side.get sd).listening (hdrSettle s.tab.tables)) ∧
    (heldView (flagged s) = 0 → ¬ Hearing s sd → judgedRecord x sd (x.side.get sd) = s.side.get sd) ∧
    (heldView (flagged s) ≠ 0 → judgedRecord x sd (x.side.get sd) = x.side.get sd) := by
  have hiff (hv : heldView (flagged s) = 0) := hears_iff (hf.kept sd hk).1 hf.lines (within_zero hf.within hv)
    (by rw [hf.tab])
  have htables : x.tab.tables = s.tab.tables := by rw [hf.tab]
  refine ⟨fun hv hl => ?_, fun hv hl => ?_, fun hv => judged_same ?_⟩
  · rw [h.dark hs h0 hv, ← htables]
    exact if_pos ⟨hs, (hiff hv).2 hl⟩
  · rw [h.dark hs h0 hv]
    exact if_neg fun hc => hl ((hiff hv).1 hc.2)
  · obtain ⟨-, hhold, hdark⟩ := h.held hs h0 hv
    by_cases hx : x.hold.view = 0
    · exact Or.inr (by rw [(hdark hx).2]; exact Option.some_ne_none _)
    · exact Or.inl (by rw [(hhold hx).1]; decide)

/-- A side that is in HOLD under a hold is not called to LISTEN. -/
theorem SideRests.judged_hold (h : SideRests s x sd) (hs : stateOf s sd = .hold) (h0 : s.hold.view ≠ 0) :
    judgedRecord x sd (x.side.get sd) = x.side.get sd := by
  obtain ⟨hsame, hdark⟩ := h.hold hs h0
  apply judged_same
  by_cases hx : x.hold.view = 0
  · exact Or.inr (by rw [(hdark hx).2.2]; exact Option.some_ne_none _)
  · refine Or.inl ?_
    unfold stateOf; rw [hsame hx]
    rw [show (s.side.get sd).state = .hold from hs]; decide

theorem SideRests.judged_lockout (h : SideRests s x sd) (hs : stateOf s sd = .lockout) :
    judgedRecord x sd (x.side.get sd) = s.side.get sd := by
  have hsame := h.lockout hs
  rw [judged_same (Or.inl ?_), hsame]
  unfold stateOf; rw [hsame]
  rw [show (s.side.get sd).state = .lockout from hs]; decide

/-- Settles O31: the view, the sides that leave or become ABSENT, those that leave UNCONFIGURED, and the judgments of
R54, in the order of R43. -/
theorem tablesCheckJudgesAndValidates : Obligations.TablesCheckJudgesAndValidates := by
  intro req ch s hacc
  have hexec := exec_tablesCheck hacc ch
  refine ⟨fun h => ?_, fun h hl => ?_, fun f h hl hc => ?_, fun h hl hc hv => ?_, fun hlaw h hl hc hv => ?_⟩
  · rw [hexec, tablesCheckRule_long h]
  · rw [hexec, tablesCheckRule_loading h hl]
  · rw [hexec, tablesCheckRule_fails h hl hc]
  · have hsame : validate (withChoices ch s) = withChoices ch s := if_pos hv
    have hmoved : movedSides (withChoices ch s) = 0 := if_pos hv
    rw [hexec, tablesCheckRule_passes h hl hc (by rw [hsame]; rfl), hsame, hmoved]; rfl
  · intro bit view listens
    have hrest : NoneActive (withChoices ch s) := hlaw hv
    obtain ⟨hf, hp, -⟩ := placed_places hrest
    have heq := validate_eq (s := withChoices ch s) hrest hv
    have hrec (sd : Side) : (modEach (judgedRecord (placed (withChoices ch s))) (placed (withChoices ch s))).side.get sd =
        judgedRecord (placed (withChoices ch s)) sd ((placed (withChoices ch s)).side.get sd) := modEach_get ..
    refine ⟨validate (withChoices ch s), movedSides (withChoices ch s), ?_, ?_, ?_⟩
    · rw [hexec, tablesCheckRule_passes h hl hc (by rw [heq]; exact hf.position)]
    · rw [movedSides_eq (s := withChoices ch s) hv]
      have hw := movedOne_le (bringInForce (withChoices ch s)) (placed (withChoices ch s)) .west
      have he := movedOne_le (bringInForce (withChoices ch s)) (placed (withChoices ch s)) .east
      omega
    rw [heq]
    refine ⟨hf.tab, hf.rate, fun sd hl => ⟨fun hs => ?_, fun hs => ?_⟩, fun sd hl => ?_, hf.within, hf.view_kept,
      fun sd hl hs => ?_, fun sd hl hs h0 => ?_, fun sd hl hs h0 => ?_, fun hs => ?_, hf.position, hf.time, hf.lines,
      hf.store, hf.latch, hf.latest⟩
    · have hconf := ((hp sd).joined hl hs).configured
      exact hconf.passed (judged_passes hconf.judged)
    · have hr := (hp sd).rests hl (by rw [show stateOf (withChoices ch s) sd = _ from hs]; decide)
      exact (hrec sd).trans (hr.judged_lockout hs)
    · have hgone := (hp sd).gone hl
      have hu := hgone.passed (judged_passes (judged_same (Or.inl (by rw [hgone.state]; decide))))
      exact ⟨hu.state, hu.left, hu.stayed⟩
    · have hr := (hp sd).rests hl (fun hm => ?_)
      · have hkeeps := judgedRecord_keeps (placed (withChoices ch s)) sd ((placed (withChoices ch s)).side.get sd)
        rw [hrec]
        refine ⟨(hf.kept sd (hl.trans ?_)).1, hkeeps.1.trans hr.failures, hkeeps.2.trans hr.lock⟩
        refine (Bool.eq_false_iff.2 fun ha => ?_).symm
        rw [(isAbsent_eq_true_iff s sd).1 ha] at hs; simp at hs
      · rw [show stateOf (withChoices ch s) sd = stateOf s sd from rfl] at hm
        simp only [List.mem_cons, List.not_mem_nil, or_false] at hs hm
        rcases hs with e | e <;> rw [e] at hm <;> simp at hm
    · have hr := (hp sd).rests hl (by rw [show stateOf (withChoices ch s) sd = _ from hs]; decide)
      have hk : leftOut (withChoices ch s) sd = isAbsent (withChoices ch s) sd := by
        refine Eq.trans hl (Bool.eq_false_iff.2 fun ha => ?_).symm
        rw [show stateOf s sd = .absent from (isAbsent_eq_true_iff s sd).1 ha] at hs; cases hs
      obtain ⟨hlisten, hstay, hkeep⟩ := hr.judged hf hk hs h0
      unfold stateOf
      rw [hrec]
      refine ⟨fun hv hh => ?_, fun hv hh => hstay hv hh, fun hv => ?_, fun hv hw => ?_, fun hv hw => ?_⟩
      · rw [hlisten hv hh]; exact ⟨rfl, rfl, rfl, rfl⟩
      · rw [hkeep hv]; exact (hr.held hs h0 hv).1
      · rw [hkeep hv]; exact (hr.held hs h0 hv).2.1 hw
      · rw [hkeep hv]; exact (hr.held hs h0 hv).2.2 hw
    · have hr := (hp sd).rests hl (by rw [show stateOf (withChoices ch s) sd = _ from hs]; decide)
      unfold stateOf
      rw [hrec, hr.judged_hold hs h0]
      exact hr.hold hs h0
    · rw [movedSides_eq (s := withChoices ch s) hv, movedOne_unconfigured hrest (hs .west),
        movedOne_unconfigured hrest (hs .east)]

end

end Sys2Proof.Machine
end

section
/-! Step 1 of a loader run's end (R51, R79, R186, log 22): every side that is not in LOCKOUT is UNCONFIGURED, or locked
out under the latch. -/

namespace Sys2Proof.Machine

/-- How a record that stands at rest under the clear flag may take a change of the view. -/
structure TakesView (r q : SideRecord) : Prop where
  elsewhere : r.state ∉ [.dark, .hold] → q = r
  between : r.state ∈ [.dark, .hold] → q.state ∈ [.dark, .hold]
  failures : q.failures = r.failures
  lock : q.lock = r.lock

/-- What holds of the whole part through step 1. -/
structure Clearing (s x : State) : Prop where
  tab : x.tab = s.tab
  position : x.position = s.position
  time : x.time = s.time
  lines : x.lines = s.lines
  store : x.store = s.store
  pending : x.pending = s.pending
  latch : x.pdu.latch = s.pdu.latch
  order : firstSide x.choices = firstSide s.choices
  flag : x.tab.validated = false
  rest : NoneActive x

/-- A side before step 1 reaches it. -/
structure SideWaits (s x : State) (sd : Side) : Prop where
  takes : TakesView (s.side.get sd) (x.side.get sd)

/-- A side after step 1. -/
structure SideCleared (s x : State) (sd : Side) : Prop where
  failures : (x.side.get sd).failures = (s.side.get sd).failures
  kept : stateOf s sd ∈ [.lockout, .unconfigured] → x.side.get sd = s.side.get sd
  forced : latchForced s sd = true → stateOf x sd = .lockout ∧ (x.side.get sd).reason = .cut ∧
    (x.side.get sd).lock = (s.side.get sd).lock.entered .cut
  moved : latchForced s sd = false → (stateOf x sd = if stateOf s sd = .lockout then .lockout else .unconfigured) ∧
    (x.side.get sd).lock = (s.side.get sd).lock
  port : isAbsent s sd = true → x.ports.get sd = PortRecord.reset ∧ x.hold.sets.get sd = 0

/-- A side that step 1 does not reach meanwhile. -/
structure Bypassed (sd : Side) (x t : State) : Prop where
  takes : TakesView (x.side.get sd) (t.side.get sd)
  port : x.ports.get sd = PortRecord.reset → x.hold.sets.get sd = 0 →
    t.ports.get sd = PortRecord.reset ∧ t.hold.sets.get sd = 0

section
variable {s t u x : State} {sd y : Side} {r q p : SideRecord}

/-! ### Views under the clear flag -/

theorem TakesView.refl (r : SideRecord) : TakesView r r := ⟨fun _ => rfl, id, rfl, rfl⟩

theorem TakesView.trans (h : TakesView r q) (k : TakesView q p) : TakesView r p := by
  refine ⟨fun hr => ?_, fun hr => k.between (h.between hr), k.failures.trans h.failures, k.lock.trans h.lock⟩
  have hq := h.elsewhere hr
  rw [k.elsewhere (by rw [hq]; exact hr), hq]

theorem restHeld_takes (r : SideRecord) : TakesView r (restHeld r) := by
  by_cases hd : r.state = .dark
  · have hheld : restHeld r = r.held := if_pos hd
    rw [hheld]
    exact ⟨fun h => absurd (by rw [hd]; decide) h, fun _ => by simp [SideRecord.held], rfl, rfl⟩
  · have hsame : restHeld r = r := if_neg hd
    rw [hsame]; exact .refl r

theorem endedRecord_takes (hf : s.tab.validated = false) (sd : Side) (r : SideRecord) :
    TakesView r (endedRecord s sd r) := by
  have hdeaf : hears s sd = false := by unfold hears; rw [hf]; simp
  by_cases hh : r.state = .hold
  · have hdark : endedRecord s sd r = r.darkened r.reason (tripRest s) := if_pos hh
    rw [hdark]
    exact ⟨fun h => absurd (by rw [hh]; decide) h, fun _ => by simp [SideRecord.darkened], rfl, rfl⟩
  · have hsame : endedRecord s sd r = r := (if_neg hh).trans (judgedRecord_stays (Or.inr (Or.inr hdeaf)))
    rw [hsame]; exact .refl r

/-- A recomputation of the view at rest under the clear flag. -/
theorem recomputeView_cleared (h : NoneActive s) (hf : s.tab.validated = false) :
    ∃ g, recomputeView s = modEach g (reviewed s) ∧ ∀ sd r, TakesView r (g sd r) := by
  by_cases hb : s.hold.view = 0 ∧ heldView s ≠ 0
  · exact ⟨_, recomputeView_holds h hb.1 hb.2, fun _ r => restHeld_takes r⟩
  · refine ⟨_, recomputeView_quiet h.quiet fun h0 => not_not.1 fun h1 => hb ⟨h0, h1⟩, fun sd r => ?_⟩
    unfold viewEnded; split
    · exact endedRecord_takes (s := reviewed s) hf sd r
    · exact .refl r

theorem TakesView.inactive (h : TakesView r q) (hr : r.state.active = false) : q.state.active = false := by
  by_cases hm : r.state ∈ [.dark, .hold]
  · have := h.between hm
    simp only [List.mem_cons, List.not_mem_nil, or_false] at this
    rcases this with e | e <;> rw [e] <;> rfl
  · rw [h.elsewhere hm]; exact hr

theorem TakesView.state_ne (h : TakesView r q) {a : SideState} (ha : a ∉ [.dark, .hold]) : q.state = a ↔ r.state = a := by
  by_cases hm : r.state ∈ [.dark, .hold]
  · exact iff_of_false (fun e => ha (e ▸ h.between hm)) fun e => ha (e ▸ hm)
  · rw [h.elsewhere hm]

theorem restartPort_cleared (h : NoneActive s) (hf : s.tab.validated = false) (y : Side) :
    ∃ g, restartPort y s = modEach g (reviewed (portReset y s)) ∧ ∀ sd r, TakesView r (g sd r) := by
  rw [restartPort_eq]
  exact recomputeView_cleared (s := portReset y s) h hf

/-! ### A port that starts again -/

theorem Clearing.restartPort (h : Clearing s x) (y : Side) : Clearing s (restartPort y x) := by
  obtain ⟨g, heq, hg⟩ := restartPort_cleared h.rest h.flag y
  rw [heq]
  refine ⟨h.tab, h.position, h.time, h.lines, h.store, h.pending, h.latch, h.order, h.flag, fun sd => ?_⟩
  unfold stateOf
  rw [modEach_get]
  exact (hg sd _).inactive (h.rest sd)

theorem restartPort_bypasses (h : NoneActive s) (hf : s.tab.validated = false) (y sd : Side) :
    Bypassed sd s (restartPort y s) := by
  obtain ⟨g, heq, hg⟩ := restartPort_cleared h hf y
  rw [heq]
  refine ⟨by rw [modEach_get]; exact hg .., fun hp hs => ?_⟩
  show (s.ports.set y PortRecord.reset).get sd = _ ∧ (s.hold.sets.set y 0).get sd = _
  by_cases hy : sd = y
  · subst hy; exact ⟨Sides.get_set .., Sides.get_set ..⟩
  · rw [Sides.get_set_ne _ _ _ _ hy, Sides.get_set_ne _ _ _ _ hy]; exact ⟨hp, hs⟩

theorem restartPort_resets (h : NoneActive s) (hf : s.tab.validated = false) (y : Side) :
    (restartPort y s).ports.get y = PortRecord.reset ∧ (restartPort y s).hold.sets.get y = 0 := by
  obtain ⟨g, heq, -⟩ := restartPort_cleared h hf y
  rw [heq]
  exact ⟨Sides.get_set .., Sides.get_set ..⟩

theorem restartPort_cleared_takes (h : NoneActive s) (hf : s.tab.validated = false) (y : Side) :
    Takes [] s (restartPort y s) ∧ (restartPort y s).msg = s.msg := by
  obtain ⟨g, heq, -⟩ := restartPort_cleared h hf y
  rw [heq]; exact ⟨.none rfl rfl, rfl⟩

/-! ### The move to UNCONFIGURED (R51, R79) -/

/-- The record of a side as a loader run ends. -/
def clearedRecord (s : State) (r : SideRecord) : SideRecord :=
  if s.pdu.latch then r.lockedOut .cut
  else { r.cleared with state := .unconfigured, reason := Config.unstatedCause s.free }

theorem unconfigure_unlatched (hl : s.pdu.latch = false) (hd : (stateOf s sd).lights = false) : unconfigure sd s =
    modSide sd (fun r => { r.cleared with state := .unconfigured, reason := Config.unstatedCause s.free }) (nextFree s) := by
  unfold unconfigure
  rw [if_neg (by rw [hl]; exact Bool.false_ne_true)]
  exact if_neg (by rw [hd]; exact Bool.false_ne_true)

theorem unconfigure_latched (hl : s.pdu.latch = true) : unconfigure sd s = enterLockout sd .cut .cut s := if_pos hl

theorem unconfigure_own (hd : (stateOf s sd).lights = false) :
    (unconfigure sd s).side.get sd = clearedRecord s (s.side.get sd) := by
  unfold clearedRecord
  cases hl : s.pdu.latch with
  | true => rw [unconfigure_latched hl, enterLockout_own]; rfl
  | false => rw [unconfigure_unlatched hl hd, modSide_side, Sides.get_set]; rfl

theorem unconfigure_still (hd : (stateOf s sd).lights = false) :
    ∃ n, still (unconfigure sd s) = { still s with free := n } := by
  cases hl : s.pdu.latch with
  | true => exact ⟨s.free, by rw [unconfigure_latched hl, enterLockout_still]; rfl⟩
  | false => exact ⟨s.free + 1, by rw [unconfigure_unlatched hl hd, modSide_still]; rfl⟩

theorem unconfigure_takes (hd : (stateOf s sd).lights = false) :
    Takes (if s.pdu.latch then [lockedRecord sd .cut s] else []) s (unconfigure sd s) := by
  cases hl : s.pdu.latch with
  | true =>
    have := enterLockout_takes sd .cut .cut s
    rw [if_neg (by rw [hd]; exact Bool.false_ne_true)] at this
    rw [unconfigure_latched hl]; exact this
  | false => rw [unconfigure_unlatched hl hd]; exact .none rfl rfl

theorem unconfigure_msg (hl : s.pdu.latch = false) (hd : (stateOf s sd).lights = false) :
    (unconfigure sd s).msg = s.msg := by rw [unconfigure_unlatched hl hd]; rfl

theorem clearedRecord_state (s : State) (r : SideRecord) :
    (clearedRecord s r).state = if s.pdu.latch then .lockout else .unconfigured := by unfold clearedRecord; split <;> rfl

theorem clearedRecord_failures (s : State) (r : SideRecord) : (clearedRecord s r).failures = r.failures := by
  unfold clearedRecord; split <;> rfl

theorem Clearing.unconfigure (h : Clearing s x) (sd : Side) : Clearing s (unconfigure sd x) := by
  have hd : (stateOf x sd).lights = false := (h.rest.quiet sd).dark
  obtain ⟨n, hst⟩ := unconfigure_still hd
  have htab : (Machine.unconfigure sd x).tab = x.tab := congrArg Still.tab hst
  refine ⟨htab.trans h.tab, (congrArg Still.position hst).trans h.position, (congrArg Still.time hst).trans h.time,
    (congrArg Still.lines hst).trans h.lines, (congrArg Still.store hst).trans h.store,
    (congrArg Still.pending hst).trans h.pending, (congrArg Still.latch hst).trans h.latch, ?_, by rw [htab]; exact h.flag,
    fun y => ?_⟩
  · rw [← h.order]
    unfold firstSide
    rw [show (Machine.unconfigure sd x).choices.eastFirst = x.choices.eastFirst from congrArg Still.eastFirst hst]
  · rcases eq_or_other sd y with rfl | rfl
    · unfold stateOf
      rw [unconfigure_own hd, clearedRecord_state]; split <;> rfl
    · unfold stateOf
      rw [unconfigure_other]; exact h.rest sd.other

theorem unconfigure_bypasses (h : NoneActive s) (sd : Side) : Bypassed sd.other s (unconfigure sd s) := by
  obtain ⟨n, hst⟩ := unconfigure_still (h.quiet sd).dark
  refine ⟨by rw [unconfigure_other]; exact .refl _, fun hp hs => ?_⟩
  rw [show (unconfigure sd s).ports = s.ports from congrArg Still.ports hst,
    show (unconfigure sd s).hold = s.hold from congrArg Still.hold hst]
  exact ⟨hp, hs⟩

theorem Bypassed.trans (h : Bypassed sd x t) (k : Bypassed sd t u) : Bypassed sd x u :=
  ⟨h.takes.trans k.takes, fun hp hs => k.port (h.port hp hs).1 (h.port hp hs).2⟩

theorem Bypassed.refl (sd : Side) (x : State) : Bypassed sd x x := ⟨.refl _, fun hp hs => ⟨hp, hs⟩⟩

theorem SideWaits.bypassed (h : SideWaits s x sd) (hb : Bypassed sd x t) : SideWaits s t sd := ⟨h.takes.trans hb.takes⟩

theorem SideCleared.bypassed (h : SideCleared s x sd) (hb : Bypassed sd x t) : SideCleared s t sd := by
  have hstate : stateOf x sd ∈ [.lockout, .unconfigured] := by
    cases hf : latchForced s sd with
    | true => rw [(h.forced hf).1]; simp
    | false => rw [(h.moved hf).1]; split <;> simp
  have hsame : t.side.get sd = x.side.get sd := hb.takes.elsewhere fun hm => by
    unfold stateOf at hstate
    simp only [List.mem_cons, List.not_mem_nil, or_false] at hstate hm
    rcases hstate with e | e <;> rw [e] at hm <;> simp at hm
  have hst : stateOf t sd = stateOf x sd := congrArg SideRecord.state hsame
  refine ⟨?_, ?_, ?_, ?_, fun ha => hb.port (h.port ha).1 (h.port ha).2⟩
  · rw [hsame]; exact h.failures
  · rw [hsame]; exact h.kept
  · rw [hst, hsame]; exact h.forced
  · rw [hst, hsame]; exact h.moved

theorem latchForced_iff (s : State) (sd : Side) : latchForced s sd = true ↔
    s.pdu.latch = true ∧ stateOf s sd ∉ [.lockout, .unconfigured] := by
  unfold latchForced
  simp only [Bool.and_eq_true, bne_iff_ne, List.mem_cons, List.not_mem_nil, or_false, not_or]
  exact and_assoc

/-- A side that leaves its state as step 1 reaches it. -/
theorem unconfigure_clears (hf : Clearing s x) (h : SideWaits s x sd) (hs : stateOf s sd ∉ [.lockout, .unconfigured])
    (ht : Bypassed sd (unconfigure sd x) t)
    (hport : isAbsent s sd = true → t.ports.get sd = PortRecord.reset ∧ t.hold.sets.get sd = 0) : SideCleared s t sd := by
  have hown := unconfigure_own (hf.rest.quiet sd).dark
  have hstate : (clearedRecord x (x.side.get sd)).state ∉ [.dark, .hold] := by
    rw [clearedRecord_state]; split <;> decide
  have hsame : t.side.get sd = clearedRecord x (x.side.get sd) :=
    (ht.takes.elsewhere (by rw [hown]; exact hstate)).trans hown
  have hforced : latchForced s sd = true ↔ x.pdu.latch = true := by
    rw [latchForced_iff, hf.latch]; exact ⟨And.left, fun h => ⟨h, hs⟩⟩
  refine ⟨?_, fun hm => absurd hm hs, fun hl => ?_, fun hl => ?_, hport⟩
  · rw [hsame, clearedRecord_failures, h.takes.failures]
  · have hrec : clearedRecord x (x.side.get sd) = (x.side.get sd).lockedOut .cut := if_pos (hforced.1 hl)
    unfold stateOf
    rw [hsame, hrec, ← h.takes.lock]; exact ⟨rfl, rfl, rfl⟩
  · have hlatch : ¬ x.pdu.latch = true := fun e => by rw [hforced.2 e] at hl; cases hl
    have hrec : clearedRecord x (x.side.get sd) =
        { (x.side.get sd).cleared with state := .unconfigured, reason := Config.unstatedCause x.free } := if_neg hlatch
    have hlock : stateOf s sd ≠ .lockout := fun e => hs (by rw [e]; decide)
    rw [if_neg hlock]
    unfold stateOf
    rw [hsame, hrec, ← h.takes.lock]; exact ⟨rfl, rfl⟩

theorem toUnconfigured_elsewhere (h : stateOf s sd ∉ [.absent, .lockout, .unconfigured]) :
    toUnconfigured sd s = unconfigure sd s := by
  unfold toUnconfigured
  cases hs : stateOf s sd
  case absent | lockout | unconfigured =>
    rw [hs] at h; exact absurd (by decide) h
  all_goals rfl

/-- Step 1 at one side. -/
theorem toUnconfigured_clears (hf : Clearing s x) (h : SideWaits s x sd) :
    Clearing s (toUnconfigured sd x) ∧ SideCleared s (toUnconfigured sd x) sd ∧ Bypassed sd.other x (toUnconfigured sd x) ∧
      Takes (if latchForced s sd then [lockedRecord sd .cut s] else []) x (toUnconfigured sd x) ∧
      (latchForced s sd = false → (toUnconfigured sd x).msg = x.msg) := by
  have hd : (stateOf x sd).lights = false := (hf.rest.quiet sd).dark
  by_cases hs : stateOf s sd ∈ [.lockout, .unconfigured]
  · have hsame : x.side.get sd = s.side.get sd := h.takes.elsewhere fun hm => by
      unfold stateOf at hs
      simp only [List.mem_cons, List.not_mem_nil, or_false] at hs hm
      rcases hs with e | e <;> rw [e] at hm <;> simp at hm
    have hnot : latchForced s sd = false := Bool.eq_false_iff.2 fun e => ((latchForced_iff s sd).1 e).2 hs
    have hstate : stateOf x sd = stateOf s sd := congrArg SideRecord.state hsame
    have hstays : toUnconfigured sd x = x := by
      unfold toUnconfigured
      rw [hstate]
      simp only [List.mem_cons, List.not_mem_nil, or_false] at hs
      rcases hs with e | e <;> rw [e]
    rw [hstays, hnot]
    refine ⟨hf, ⟨by rw [hsame], fun _ => hsame, fun e => (Bool.false_ne_true (hnot.symm.trans e)).elim, fun _ => ⟨?_, by rw [hsame]⟩,
      fun ha => ?_⟩, .refl .., .none rfl rfl, fun _ => rfl⟩
    · rw [hstate]
      simp only [List.mem_cons, List.not_mem_nil, or_false] at hs
      rcases hs with e | e <;> rw [e] <;> rfl
    · rw [(isAbsent_eq_true_iff s sd).1 ha] at hs; simp at hs
  · have htakes := unconfigure_takes hd
    have hrecord : (if x.pdu.latch then [lockedRecord sd .cut x] else []) =
        if latchForced s sd then [lockedRecord sd .cut s] else [] := by
      have hlock : lockedRecord sd .cut x = lockedRecord sd .cut s := by unfold lockedRecord; rw [h.takes.lock]
      have hiff : x.pdu.latch = latchForced s sd := by
        rw [Bool.eq_iff_iff, latchForced_iff, hf.latch]; exact ⟨fun h => ⟨h, hs⟩, And.left⟩
      rw [hlock, hiff]
    have hmsg (hl : latchForced s sd = false) : (unconfigure sd x).msg = x.msg := by
      refine unconfigure_msg (Bool.eq_false_iff.2 fun e => ?_) hd
      rw [(latchForced_iff s sd).2 ⟨hf.latch ▸ e, hs⟩] at hl; cases hl
    rw [hrecord] at htakes
    have hz := hf.unconfigure sd
    by_cases ha : stateOf s sd = .absent
    · have hax : stateOf x sd = .absent := (h.takes.state_ne (by decide)).2 ha
      have heq : toUnconfigured sd x = restartPort sd (unconfigure sd x) := by unfold toUnconfigured; rw [hax]
      obtain ⟨hnone, hkeeps⟩ := restartPort_cleared_takes hz.rest hz.flag sd
      rw [heq]
      refine ⟨hz.restartPort sd, unconfigure_clears hf h hs (restartPort_bypasses hz.rest hz.flag sd sd) fun _ =>
        restartPort_resets hz.rest hz.flag sd, (unconfigure_bypasses hf.rest sd).trans
          (restartPort_bypasses hz.rest hz.flag sd sd.other), ?_, fun hl => hkeeps.trans (hmsg hl)⟩
      have := htakes.trans hnone
      rw [List.append_nil] at this; exact this
    · have hx : stateOf x sd ∉ [.absent, .lockout, .unconfigured] := by
        have hne (a : SideState) (hm : a ∉ [SideState.dark, .hold]) (e : stateOf s sd ≠ a) : stateOf x sd ≠ a :=
          fun k => e ((h.takes.state_ne hm).1 k)
        simp only [List.mem_cons, List.not_mem_nil, or_false, not_or] at hs ⊢
        exact ⟨hne _ (by decide) ha, hne _ (by decide) hs.1, hne _ (by decide) hs.2⟩
      rw [toUnconfigured_elsewhere hx]
      exact ⟨hz, unconfigure_clears hf h hs (.refl ..) fun e => absurd ((isAbsent_eq_true_iff s sd).1 e) ha,
        unconfigure_bypasses hf.rest sd, htakes, hmsg⟩

/-- Step 1 at both sides. -/
theorem bothSides_clear (hr : NoneActive s) (hv : s.tab.validated = false) :
    let t := bothSides (sideEvent toUnconfigured) s
    let a := firstSide s.choices
    Clearing s t ∧ (∀ sd, SideCleared s t sd) ∧
      Takes ((if latchForced s a then [lockedRecord a .cut s] else []) ++
        (if latchForced s a.other then [lockedRecord a.other .cut s] else [])) s t ∧
      ((∀ sd, latchForced s sd = false) → t.msg = s.msg) := by
  intro t a
  have hs : Clearing s s := ⟨rfl, rfl, rfl, rfl, rfl, rfl, rfl, rfl, hv, hr⟩
  have hevent {x : State} {sd : Side} (hx : Clearing s (toUnconfigured sd x)) :
      sideEvent toUnconfigured sd x = toUnconfigured sd x := sideEvent_quiet hx.rest.quiet
  obtain ⟨hf1, hc1, hb1, ht1, hm1⟩ := toUnconfigured_clears (sd := a) hs ⟨.refl _⟩
  obtain ⟨hf2, hc2, hb2, ht2, hm2⟩ := toUnconfigured_clears (sd := a.other) hf1 (SideWaits.bypassed ⟨.refl _⟩ hb1)
  rw [Side.other_other] at hb2
  have heq : t = toUnconfigured a.other (toUnconfigured a s) := by
    rw [show t = _ from bothSides_inOrder (sideEvent toUnconfigured) s, hevent hf1, hevent hf2]
  rw [heq]
  refine ⟨hf2, fun sd => ?_, ht1.trans ht2, fun hl => (hm2 (hl _)).trans (hm1 (hl _))⟩
  rcases eq_or_other a sd with rfl | rfl
  · exact hc1.bypassed hb2
  · exact hc2

end

end Sys2Proof.Machine
end

section
/-! Step 2 of a loader run's end (R182, R183, R186): the stored lock records, and what the controller queues meanwhile
(R190). -/

namespace Sys2Proof.Machine

/-- The controller of `t` is that of `s` with these records queued, but for notes of what was read. -/
structure QueuedAs (l : List StoreRecord) (s t : State) : Prop where
  op : t.ctl.op = s.ctl.op
  queue : t.ctl.queue = (l.foldl (fun c r => joinRecord r c) s.ctl).queue
  lost : t.ctl.lost = (l.foldl (fun c r => joinRecord r c) s.ctl).lost
  choices : t.choices = s.choices

/-- A lockout record after the stored one is applied to it (R182). -/
def storedLock (copy : Option (Bool × List Octet)) (l : LockRecord) : LockRecord :=
  if l.locked then l
  else match copy with
    | none => LockRecord.reset
    | some c => recordFromCopy c.2

/-- The record that hands on the release of a stored CUT lock (R182). -/
def releasedRecords (copy : Option (Bool × List Octet)) (sd : Side) (l : LockRecord) : List StoreRecord :=
  if l.locked then []
  else match copy with
    | none => []
    | some c => if octetAt c.2 2 = 1 ∧ octetAt c.2 3 = 16 then [.lock sd false .cut (word16At c.2 4)] else []

/-- A lockout record after step 2 (R182, R186). -/
def lockAfter (origin : LoaderOrigin) (copy : Option (Bool × List Octet)) (l : LockRecord) : LockRecord :=
  if origin = .powerUp then storedLock copy l else l

section
variable {s t u x : State} {sd y : Side} {l m : List StoreRecord} {copy : Option (Bool × List Octet)}

/-! ### Records queued -/

theorem joinRecord_congr (r : StoreRecord) {c d : StoreCtl} (hq : c.queue = d.queue) (hl : c.lost = d.lost) :
    (joinRecord r c).queue = (joinRecord r d).queue ∧ (joinRecord r c).lost = (joinRecord r d).lost := by
  have hend : (joinEnd r c).queue = (joinEnd r d).queue ∧ (joinEnd r c).lost = (joinEnd r d).lost := by
    unfold joinEnd; rw [hq]; split
    · exact ⟨rfl, hl⟩
    · exact ⟨rfl, congrArg satInc hl⟩
  unfold joinRecord; split
  · exact hend
  · rw [hq]; split
    · exact ⟨rfl, hl⟩
    · exact hend

theorem foldl_joinRecord_congr (l : List StoreRecord) {c d : StoreCtl} (hq : c.queue = d.queue) (hl : c.lost = d.lost) :
    (l.foldl (fun c r => joinRecord r c) c).queue = (l.foldl (fun c r => joinRecord r c) d).queue ∧
      (l.foldl (fun c r => joinRecord r c) c).lost = (l.foldl (fun c r => joinRecord r c) d).lost := by
  induction l generalizing c d with
  | nil => exact ⟨hq, hl⟩
  | cons r l ih =>
    obtain ⟨h1, h2⟩ := joinRecord_congr r hq hl
    exact ih h1 h2

theorem QueuedAs.refl (s : State) : QueuedAs [] s s := ⟨rfl, rfl, rfl, rfl⟩

theorem QueuedAs.takes (h : QueuedAs l s t) (hb : Busy s) (k : Takes m t u) : QueuedAs (l ++ m) s u := by
  have hbt : Busy t := by unfold Busy; rw [h.op]; exact hb
  obtain ⟨hc, hch⟩ := k hbt
  obtain ⟨hq, hl⟩ := foldl_joinRecord_congr m h.queue h.lost
  refine ⟨?_, ?_, ?_, hch.trans h.choices⟩
  · rw [hc, foldl_joinRecord_op]; exact h.op
  · rw [hc, List.foldl_append]; exact hq
  · rw [hc, List.foldl_append]; exact hl

theorem QueuedAs.other (h : QueuedAs l s t) (hop : u.ctl.op = t.ctl.op) (hq : u.ctl.queue = t.ctl.queue)
    (hl : u.ctl.lost = t.ctl.lost) (hch : u.choices = t.choices) : QueuedAs l s u :=
  ⟨hop.trans h.op, hq.trans h.queue, hl.trans h.lost, hch.trans h.choices⟩

/-! ### A stored lock record -/

theorem releasesCut_iff (o : List Octet) : releasesCut o = true ↔ octetAt o 2 = 1 ∧ octetAt o 3 = 16 := by
  unfold releasesCut; rw [Bool.and_eq_true, beq_iff_eq, beq_iff_eq]

theorem recordFromCopy_released {o : List Octet} (h : octetAt o 2 = 1 ∧ octetAt o 3 = 16) :
    recordFromCopy o = { locked := false, reason := .cut, count := word16At o 4, arming := none } := by
  unfold recordFromCopy
  rw [h.1, h.2]; rfl

/-- The side's record with its lockout record replaced. -/
theorem applyLock_eq (copy : Option (Bool × List Octet)) (sd : Side) (s : State) : ∃ v,
    v = modSide sd (fun r => { r with lock := storedLock copy r.lock }) s ∧
      ((releasedRecords copy sd (s.side.get sd).lock = [] ∧ applyLock copy sd s = v) ∨
        ∃ r, releasedRecords copy sd (s.side.get sd).lock = [r] ∧ applyLock copy sd s = queueRecord r v) := by
  refine ⟨_, rfl, ?_⟩
  unfold applyLock releasedRecords
  by_cases hl : (s.side.get sd).lock.locked = true
  · rw [if_pos hl, if_pos hl]
    refine Or.inl ⟨rfl, (modSide_same ?_).symm⟩
    rw [show storedLock copy (s.side.get sd).lock = (s.side.get sd).lock from if_pos hl]
  · have hmod {k : LockRecord} (hk : storedLock copy (s.side.get sd).lock = k) :
        modSide sd (fun r => { r with lock := k }) s = modSide sd (fun r => { r with lock := storedLock copy r.lock }) s :=
      modSide_congr (by rw [hk])
    rw [if_neg hl, if_neg hl]
    cases copy with
    | none => exact Or.inl ⟨rfl, hmod (if_neg hl)⟩
    | some c =>
      have hv := hmod (k := recordFromCopy c.2) (if_neg hl)
      dsimp only
      rw [hv]
      by_cases hc : octetAt c.2 2 = 1 ∧ octetAt c.2 3 = 16
      · rw [if_pos hc, if_pos ((releasesCut_iff c.2).2 hc)]
        refine Or.inr ⟨_, rfl, ?_⟩
        have hlock : storedLock (some c) (s.side.get sd).lock = recordFromCopy c.2 := if_neg hl
        have hrecord : lockRecordOf sd (modSide sd (fun r => { r with lock := storedLock (some c) r.lock }) s) =
            .lock sd false .cut (word16At c.2 4) := by
          unfold lockRecordOf
          rw [modSide_side, Sides.get_set]
          dsimp only
          rw [hlock, recordFromCopy_released hc]
        rw [hrecord]
      · rw [if_neg hc, if_neg fun e => hc ((releasesCut_iff c.2).1 e)]
        exact Or.inl ⟨rfl, rfl⟩

theorem applyLock_applies (copy : Option (Bool × List Octet)) (sd : Side) (s : State) :
    (applyLock copy sd s).side = s.side.set sd { s.side.get sd with lock := storedLock copy (s.side.get sd).lock } ∧
      still (applyLock copy sd s) = still s ∧ (applyLock copy sd s).msg = s.msg ∧
      Takes (releasedRecords copy sd (s.side.get sd).lock) s (applyLock copy sd s) := by
  obtain ⟨v, hv, ⟨hnone, heq⟩ | ⟨r, hr, heq⟩⟩ := applyLock_eq copy sd s <;> rw [heq]
  · rw [hv, hnone]
    exact ⟨rfl, modSide_still .., rfl, .none rfl rfl⟩
  · rw [queueRecord_side, queueRecord_still, queueRecord_msg, hv, hr]
    have htakes := queueRecord_takes r (modSide sd (fun r => { r with lock := storedLock copy r.lock }) s)
    exact ⟨rfl, modSide_still .., rfl, htakes.before rfl rfl⟩

/-! ### Step 2 -/

/-- Step 2 but for the notes. -/
def locksApplied (origin : LoaderOrigin) (read : Bool) (s : State) : State :=
  match origin with
  | .powerUp => bothSides (fun sd t => applyLock (copyOf read s sd) sd t) s
  | .routeReset => s
  | .reload _ => s

theorem applyLocks_notes (origin : LoaderOrigin) (read : Bool) (s : State) : applyLocks origin read s =
    onCtl (fun c => { c with notes := if read then ⟨copyNote s.store .west, copyNote s.store .east⟩ else ⟨none, none⟩ })
      (locksApplied origin read s) := by cases origin <;> rfl

/-- The records that step 2 hands on at a side. -/
def lockRecords (origin : LoaderOrigin) (copy : Option (Bool × List Octet)) (sd : Side) (l : LockRecord) :
    List StoreRecord := if origin = .powerUp then releasedRecords copy sd l else []

/-- What step 2 leaves, but for the notes. -/
theorem locksApplied_applies (origin : LoaderOrigin) (read : Bool) (s : State) :
    let t := locksApplied origin read s
    let a := firstSide s.choices
    let f := fun sd => lockRecords origin (copyOf read s sd) sd (s.side.get sd).lock
    (∀ sd, t.side.get sd = { s.side.get sd with lock := lockAfter origin (copyOf read s sd) (s.side.get sd).lock }) ∧
      still t = still s ∧ t.msg = s.msg ∧ Takes (f a ++ f a.other) s t := by
  intro t a f
  have hnone (ho : origin ≠ .powerUp) (hid : t = s) : (∀ sd, t.side.get sd =
      { s.side.get sd with lock := lockAfter origin (copyOf read s sd) (s.side.get sd).lock }) ∧
      still t = still s ∧ t.msg = s.msg ∧ Takes (f a ++ f a.other) s t := by
    have hf (sd : Side) : f sd = [] := if_neg ho
    rw [hid, hf, hf]
    refine ⟨fun sd => ?_, rfl, rfl, .none rfl rfl⟩
    rw [lockAfter, if_neg ho]
  cases origin with
  | routeReset => exact hnone (by decide) rfl
  | reload who => exact hnone (fun e => by cases e) rfl
  | powerUp =>
    have heq : t = applyLock (copyOf read s a.other) a.other (applyLock (copyOf read s a) a s) :=
      bothSides_inOrder (fun sd t => applyLock (copyOf read s sd) sd t) s
    obtain ⟨h1, h2, h3, h4⟩ := applyLock_applies (copyOf read s a) a s
    obtain ⟨k1, k2, k3, k4⟩ :=
      applyLock_applies (copyOf read s a.other) a.other (applyLock (copyOf read s a) a s)
    rw [h1, Sides.get_set_other] at k1 k4
    rw [heq]
    refine ⟨fun sd => ?_, k2.trans h2, k3.trans h3, h4.trans k4⟩
    rw [k1]
    rcases eq_or_other a sd with rfl | rfl
    · rw [Sides.get_set_ne _ _ _ _ (Side.ne_other a), Sides.get_set]; rfl
    · rw [Sides.get_set]; rfl

end

end Sys2Proof.Machine
end

section
/-! The sides and the queue after the lock records (R182, R186 step 2), and the three ways of step 3 (R27, R46, R72). -/

namespace Sys2Proof.Machine

/-- What a loader run's end leaves of the part beside the sides, the pumps and the queues. -/
structure RunKeeps (s x : State) : Prop where
  position : x.position = s.position
  time : x.time = s.time
  lines : x.lines = s.lines
  store : x.store = s.store
  pending : x.pending = s.pending
  latch : x.pdu.latch = s.pdu.latch

/-- A side after step 2, `stored` its lockout record where the latch has not locked it out. -/
structure SideStored (s x : State) (stored : LockRecord) (sd : Side) : Prop where
  lockout : stateOf s sd = .lockout →
    stateOf x sd = .lockout ∧ (x.side.get sd).reason = (s.side.get sd).reason ∧ (x.side.get sd).lock = stored
  forced : latchForced s sd = true → stateOf x sd = .lockout ∧ (x.side.get sd).reason = .cut ∧
    (x.side.get sd).lock = (s.side.get sd).lock.entered .cut
  moved : latchForced s sd = false → stateOf s sd ≠ .lockout → stateOf x sd = .unconfigured ∧
    (stateOf s sd = .unconfigured → (x.side.get sd).reason = (s.side.get sd).reason) ∧ (x.side.get sd).lock = stored

/-- The part after step 2. -/
structure AfterLocks (read : Bool) (s x : State) (stored : Side → LockRecord) (l : List StoreRecord) : Prop where
  keeps : RunKeeps s x
  tab : x.tab = s.tab
  rest : NoneActive x
  order : firstSide x.choices = firstSide s.choices
  side : ∀ sd, SideStored s x (stored sd) sd
  failures : ∀ sd, (x.side.get sd).failures = (s.side.get sd).failures
  port : ∀ sd, isAbsent s sd = true → x.ports.get sd = PortRecord.reset ∧ x.hold.sets.get sd = 0
  msg : (∀ sd, latchForced s sd = false) → x.msg = s.msg
  queued : QueuedAs l s x
  notes : x.ctl.notes = if read then ⟨copyNote s.store .west, copyNote s.store .east⟩ else ⟨none, none⟩

/-! ### The records of a run's end, by step -/

/-- Step 1: new lockouts under the latch. -/
def latchedRecords (s : State) (sd : Side) : List StoreRecord :=
  if latchForced s sd then [lockedRecord sd .cut s] else []

/-- Step 2: released CUT locks. -/
def releasedAt (origin : LoaderOrigin) (copy : Side → Option (Bool × List Octet)) (s : State) (sd : Side) :
    List StoreRecord :=
  if origin = .powerUp ∧ latchForced s sd = false ∧ (s.side.get sd).lock.locked = false then
    match copy sd with
    | none => []
    | some c => if octetAt c.2 2 = 1 ∧ octetAt c.2 3 = 16 then [.lock sd false .cut (word16At c.2 4)] else []
  else []

/-- Step 3: the records of sides in LOCKOUT that become ABSENT. -/
def leftOutRecords (stored : Side → LockRecord) (s : State) (l : Nat) (sd : Side) : List StoreRecord :=
  if absentUnder (pos s) l sd = false then []
  else if latchForced s sd then [lockedRecord sd .cut s]
  else if stateOf s sd = .lockout then [.lock sd (stored sd).locked (stored sd).reason (stored sd).count]
  else []

/-- Step 3: new lockouts of sides that leave UNCONFIGURED. -/
def joinedRecords (stored : Side → LockRecord) (s : State) (l : Nat) (sd : Side) : List StoreRecord :=
  if absentUnder (pos s) l sd = true ∨ latchForced s sd = true ∨ stateOf s sd = .lockout then []
  else if (stored sd).locked then [.lock sd true (stored sd).reason ((stored sd).count + 1)]
  else if s.pdu.latch then [.lock sd true .cut ((stored sd).count + 1)]
  else []

/-- Both sides' records, from one of them on. -/
def fromSide (a : Side) (f : Side → List StoreRecord) : List StoreRecord := f a ++ f a.other

theorem runEndRecords_eq (ch : Choices) (origin : LoaderOrigin) (copy : Side → Option (Bool × List Octet))
    (stored : Side → LockRecord) (length : Option Nat) (s : State) : runEndRecords ch origin copy stored length s =
      (fromSide (firstSide ch) (latchedRecords s) ++ fromSide (firstSide ch) (releasedAt origin copy s)) ++
        match length with
        | none => []
        | some l => fromSide (firstSide ch) (leftOutRecords stored s l) ++ fromSide (firstSide ch) (joinedRecords stored s l) := by
  have horder (f : Side → List StoreRecord) : fromSide (firstSide ch) f =
      if ch.eastFirst then f .east ++ f .west else f .west ++ f .east := by
    unfold fromSide firstSide; cases ch.eastFirst <;> rfl
  rw [horder, horder]
  cases length with
  | none => exact List.append_nil _
  | some k =>
    dsimp only
    rw [horder, horder, ← List.append_assoc]; rfl

section
variable {s t u x : State} {sd y : Side} {l m : List StoreRecord} {stored : Side → LockRecord} {origin : LoaderOrigin}
  {read : Bool} {result : LoaderResult}

/-! ### Step 2 -/

theorem lockAfter_locked {copy : Option (Bool × List Octet)} {k : LockRecord} (h : k.locked = true) :
    lockAfter origin copy k = k := by
  unfold lockAfter storedLock; rw [if_pos h, ite_self]

theorem lockRecords_locked {copy : Option (Bool × List Octet)} {k : LockRecord} (h : k.locked = true) (sd : Side) :
    lockRecords origin copy sd k = [] := by
  unfold lockRecords releasedRecords; rw [if_pos h, ite_self]

theorem lockRecords_released {copy : Side → Option (Bool × List Octet)} (hf : latchForced s sd = false) :
    lockRecords origin (copy sd) sd (s.side.get sd).lock = releasedAt origin copy s sd := by
  unfold lockRecords releasedRecords releasedAt
  by_cases ho : origin = .powerUp
  · by_cases hl : (s.side.get sd).lock.locked = true
    · rw [if_pos ho, if_pos hl, if_neg fun hc => by rw [hl] at hc; exact Bool.noConfusion hc.2.2]
    · exact (if_pos ho).trans ((if_neg hl).trans (if_pos ⟨ho, hf, Bool.eq_false_iff.2 hl⟩).symm)
  · rw [if_neg ho, if_neg fun hc => ho hc.1]

/-- The lockout records after step 2, but for sides that the latch locks out. -/
def storedAt (origin : LoaderOrigin) (read : Bool) (s : State) (sd : Side) : LockRecord :=
  lockAfter origin (copyOf read s sd) (s.side.get sd).lock

theorem applyLocks_after (hr : NoneActive s) (hv : s.tab.validated = false) (hb : Busy s) (origin : LoaderOrigin)
    (read : Bool) : AfterLocks read s (applyLocks origin read (bothSides (sideEvent toUnconfigured) s)) (storedAt origin read s)
      (fromSide (firstSide s.choices) (latchedRecords s) ++
        fromSide (firstSide s.choices) (releasedAt origin (copyOf read s) s)) := by
  obtain ⟨hf, hside, htakes, hmsg⟩ := bothSides_clear hr hv
  obtain ⟨hlock, hst, hmsg', htakes'⟩ := locksApplied_applies origin read (bothSides (sideEvent toUnconfigured) s)
  rw [applyLocks_notes]
  generalize bothSides (sideEvent toUnconfigured) s = A at *
  have hcopy (sd : Side) : copyOf read A sd = copyOf read s sd := by unfold copyOf; rw [hf.store]
  have hrecords (sd : Side) : lockRecords origin (copyOf read A sd) sd (A.side.get sd).lock =
      releasedAt origin (copyOf read s) s sd := by
    rw [hcopy]
    cases hl : latchForced s sd with
    | true =>
      rw [((hside sd).forced hl).2.2, lockRecords_locked rfl, releasedAt, if_neg]
      rintro ⟨-, h, -⟩
      rw [hl] at h; cases h
    | false => rw [((hside sd).moved hl).2]; exact lockRecords_released hl
  have hget (sd : Side) : (onCtl (fun c => { c with
      notes := if read then ⟨copyNote A.store .west, copyNote A.store .east⟩ else ⟨none, none⟩ })
        (locksApplied origin read A)).side.get sd =
      { A.side.get sd with lock := lockAfter origin (copyOf read s sd) (A.side.get sd).lock } := by
    rw [← hcopy]; exact hlock sd
  refine ⟨⟨(congrArg Still.position hst).trans hf.position, (congrArg Still.time hst).trans hf.time,
    (congrArg Still.lines hst).trans hf.lines, (congrArg Still.store hst).trans hf.store,
    (congrArg Still.pending hst).trans hf.pending, (congrArg Still.latch hst).trans hf.latch⟩,
    (congrArg Still.tab hst).trans hf.tab, fun sd => ?_, (firstSide_still hst).trans hf.order, fun sd => ⟨fun hs => ?_, fun hl => ?_,
    fun hl hs => ?_⟩, fun sd => ?_, fun sd ha => ?_, fun hl => hmsg'.trans (hmsg hl), ?_, by rw [← hf.store]; rfl⟩
  · unfold stateOf; rw [hget]; exact hf.rest sd
  · have hsame := (hside sd).kept (by rw [hs]; decide)
    unfold stateOf
    rw [hget, hsame]
    exact ⟨hs, rfl, rfl⟩
  · obtain ⟨h1, h2, h3⟩ := (hside sd).forced hl
    unfold stateOf
    rw [hget]
    refine ⟨h1, h2, ?_⟩
    show lockAfter origin _ (A.side.get sd).lock = _
    rw [h3]; exact lockAfter_locked rfl
  · obtain ⟨h1, h2⟩ := (hside sd).moved hl
    rw [if_neg hs] at h1
    unfold stateOf
    rw [hget]
    refine ⟨h1, fun hu => ?_, ?_⟩
    · rw [(hside sd).kept (by unfold stateOf; rw [hu]; decide)]
    · show lockAfter origin _ (A.side.get sd).lock = _
      rw [h2]; rfl
  · rw [hget]; exact (hside sd).failures
  · have hports : (locksApplied origin read A).ports = A.ports := congrArg Still.ports hst
    have hhold : (locksApplied origin read A).hold = A.hold := congrArg Still.hold hst
    show (locksApplied origin read A).ports.get sd = _ ∧ (locksApplied origin read A).hold.sets.get sd = _
    rw [hports, hhold]; exact (hside sd).port ha
  · rw [hf.order, funext hrecords] at htakes'
    have hq := ((QueuedAs.refl s).takes hb htakes).takes hb htakes'
    exact hq.other rfl rfl rfl rfl

/-! ### Step 3 -/

theorem emptyTables_get (s : State) (sd : Side) :
    (emptyTables s).side.get sd = { s.side.get sd with failures := [] } := by cases sd <;> rfl

/-- The part with the stored tables in place, before they are checked. -/
def imaged (s : State) : State :=
  trimSides (hdrBudget (storedTables s.store))
    { s with tab := { s.tab with tables := storedTables s.store, loadCheck := none } }

/-- The part with the stored tables in place, found to fail a check. -/
def imageFailed (f : CheckFailure) (s : State) : State :=
  { imaged s with tab := { (imaged s).tab with loadCheck := some f } }

theorem takeImage_fails {f : CheckFailure} (h : runChecks (pos s) (storedTables s.store) = some f) :
    takeImage s = imageFailed f s := by
  unfold takeImage; dsimp only; rw [h]; rfl

theorem takeImage_passes (h : runChecks (pos s) (storedTables s.store) = none) : takeImage s = validate (imaged s) := by
  unfold takeImage; dsimp only; rw [h]; rfl

/-- The failure list of a record as a budget trims it (R72). -/
def trimmedFailures (b : Nat) (r : SideRecord) : List Word32 :=
  if r.budgetHeld then r.failures else trimFailures b r.failures

theorem imaged_get (s : State) (sd : Side) : (imaged s).side.get sd =
    { s.side.get sd with failures := trimmedFailures (hdrBudget (storedTables s.store)) (s.side.get sd) } := by
  have hget : (imaged s).side.get sd = if (s.side.get sd).budgetHeld then s.side.get sd else
      { s.side.get sd with failures := trimFailures (hdrBudget (storedTables s.store)) (s.side.get sd).failures } := by
    cases sd <;> rfl
  rw [hget]
  unfold trimmedFailures; split <;> rfl

theorem SideStored.congr {k : LockRecord} (h : SideStored s x k sd) (hst : stateOf t sd = stateOf x sd)
    (hr : (t.side.get sd).reason = (x.side.get sd).reason) (hl : (t.side.get sd).lock = (x.side.get sd).lock) :
    SideStored s t k sd := by
  obtain ⟨h1, h2, h3⟩ := h
  rw [← hst, ← hr, ← hl] at h1 h2 h3
  exact ⟨h1, h2, h3⟩

theorem SideStored.emptied {k : LockRecord} (h : SideStored s x k sd) : SideStored s (emptyTables x) k sd :=
  h.congr (by unfold stateOf; rw [emptyTables_get]) (by rw [emptyTables_get]) (by rw [emptyTables_get])

theorem SideStored.imaged {k : LockRecord} (h : SideStored s x k sd) : SideStored s (imaged x) k sd :=
  h.congr (by unfold stateOf; rw [imaged_get]) (by rw [imaged_get]) (by rw [imaged_get])

/-- The failure lists after the trimming, by the sides before the run's end. -/
theorem SideStored.trimmed {k : LockRecord} (h : SideStored s x k sd) (hf : (x.side.get sd).failures = (s.side.get sd).failures)
    (b : Nat) : trimmedFailures b (x.side.get sd) =
      if stateOf s sd = .lockout ∧ (s.side.get sd).reason = .budget then (s.side.get sd).failures
      else (s.side.get sd).failures.drop ((s.side.get sd).failures.length - (b - 1)) := by
  have hheld : (x.side.get sd).budgetHeld = true ↔ stateOf s sd = .lockout ∧ (s.side.get sd).reason = .budget := by
    rw [budgetHeld_iff]
    by_cases hs : stateOf s sd = .lockout
    · obtain ⟨h1, h2, -⟩ := h.lockout hs
      rw [h2]
      exact ⟨fun hc => ⟨hs, hc.2⟩, fun hc => ⟨h1, hc.2⟩⟩
    · refine iff_of_false (fun hc => ?_) fun hc => hs hc.1
      cases hl : latchForced s sd with
      | true => rw [(h.forced hl).2.1] at hc; exact absurd hc.2 (by decide)
      | false =>
        have := (h.moved hl hs).1
        unfold stateOf at this; rw [hc.1] at this; cases this
  unfold trimmedFailures
  rw [hf]
  by_cases hc : stateOf s sd = .lockout ∧ (s.side.get sd).reason = .budget
  · rw [if_pos hc, if_pos (hheld.2 hc)]
  · rw [if_neg hc, if_neg fun e => hc (hheld.1 e)]; rfl

end

end Sys2Proof.Machine
end

section
/-! A loader run whose image passes its checks (R43, R44, R186 step 3), and the end of a run's command (R184, R186
steps 4 and 5, R187). -/

namespace Sys2Proof.Machine

/-- Every side is in LOCKOUT or UNCONFIGURED, as step 1 leaves them. -/
def Grounded (s : State) : Prop := ∀ sd, stateOf s sd ∈ [.lockout, .unconfigured]

/-- What a validation makes of a part whose sides are all in LOCKOUT or UNCONFIGURED. -/
structure GroundedValidation (s t : State) : Prop where
  keeps : RunKeeps s t
  tab : t.tab = { s.tab with validated := true }
  stays : ∀ sd, leftOut s sd = false → stateOf s sd = .lockout → t.side.get sd = s.side.get sd
  joins : ∀ sd, leftOut s sd = false → stateOf s sd = .unconfigured →
    Configured sd (s.side.get sd).lock s t ∧ (t.side.get sd).failures = (s.side.get sd).failures
  gone : ∀ sd, leftOut s sd = true → stateOf t sd = .absent
  port : ∀ sd, s.ports.get sd = PortRecord.reset → s.hold.sets.get sd = 0 →
    t.ports.get sd = PortRecord.reset ∧ t.hold.sets.get sd = 0
  takes : Takes (fromSide (firstSide s.choices) (judgedRecords s) ++ fromSide (firstSide s.choices) (placedRecords s)) s t

section
variable {s t u x : State} {sd y : Side} {l m : List StoreRecord} {stored : Side → LockRecord} {origin : LoaderOrigin}
  {read : Bool} {result : LoaderResult}

/-! ### A validation of grounded sides -/

theorem validate_grounded (hg : Grounded s) (hr : NoneActive s) (hv : s.tab.validated = false) :
    GroundedValidation s (validate s) := by
  obtain ⟨hf, hp, ht⟩ := placed_places hr
  rw [validate_eq hr hv]
  have hrec (sd : Side) : (modEach (judgedRecord (placed s)) (placed s)).side.get sd =
      judgedRecord (placed s) sd ((placed s).side.get sd) := modEach_get ..
  have hnot (a : SideState) (ha : a ∉ [SideState.lockout, .unconfigured]) (sd : Side) : stateOf s sd ≠ a :=
    fun e => ha (e ▸ hg sd)
  refine ⟨⟨hf.position, hf.time, hf.lines, hf.store, hf.pending, hf.latch⟩, hf.tab, fun sd hl hs => ?_, fun sd hl hs => ?_,
    fun sd hl => ?_, fun sd hport hset => ?_, ht.after rfl rfl⟩
  · exact (hrec sd).trans (((hp sd).rests hl (by rw [hs]; decide)).judged_lockout hs)
  · have hjoined := (hp sd).joined hl (by rw [hs]; decide)
    have hpassed := hjoined.passed (judged_passes hjoined.configured.judged)
    exact ⟨hpassed.configured, hpassed.failures⟩
  · have hgone := (hp sd).gone hl
    exact (hgone.passed (judged_passes (judged_same (Or.inl (by rw [hgone.state]; decide))))).state
  · rcases hf.reset sd with ⟨h1, h2⟩ | h
    · exact ⟨h1.trans hport, h2.trans hset⟩
    · exact h

theorem AfterLocks.grounded (h : AfterLocks read s x stored l) : Grounded x := fun sd => by
  by_cases hs : stateOf s sd = .lockout
  · rw [((h.side sd).lockout hs).1]; decide
  · cases hl : latchForced s sd with
    | true => rw [((h.side sd).forced hl).1]; decide
    | false => rw [((h.side sd).moved hl hs).1]; decide

theorem imaged_stateOf (s : State) (sd : Side) : stateOf (imaged s) sd = stateOf s sd := by
  unfold stateOf; rw [imaged_get]

theorem judgedRecords_grounded (hk : SideStored s x (stored sd) sd) (hg : Grounded x) {k : Nat}
    (hl : leftOut x sd = absentUnder (pos s) k sd) : judgedRecords x sd = leftOutRecords stored s k sd := by
  have ha : isAbsent x sd = false := Bool.eq_false_iff.2 fun e => by
    have := hg sd
    rw [(isAbsent_eq_true_iff x sd).1 e] at this; simp at this
  unfold judgedRecords leftOutRecords
  rw [ha, hl]
  cases absentUnder (pos s) k sd with
  | false => rfl
  | true =>
    rw [if_pos rfl, if_neg Bool.false_ne_true, if_neg (by decide)]
    unfold goneRecords
    by_cases hf : latchForced s sd = true
    · obtain ⟨h1, -, h3⟩ := hk.forced hf
      rw [if_pos h1, if_pos hf, h3]; rfl
    · have hf' := Bool.eq_false_iff.2 hf
      rw [if_neg hf]
      by_cases hs : stateOf s sd = .lockout
      · obtain ⟨h1, -, h3⟩ := hk.lockout hs
        rw [if_pos h1, if_pos hs, h3]
      · rw [if_neg hs, if_neg]
        rw [(hk.moved hf' hs).1]; decide

theorem placedRecords_grounded (hk : SideStored s x (stored sd) sd) (hc : x.pdu.latch = s.pdu.latch) {k : Nat}
    (hl : leftOut x sd = absentUnder (pos s) k sd) : placedRecords x sd = joinedRecords stored s k sd := by
  have hlocked (h : latchForced s sd = true ∨ stateOf s sd = .lockout) : stateOf x sd = .lockout :=
    h.elim (fun h => (hk.forced h).1) fun h => (hk.lockout h).1
  unfold placedRecords joinedRecords
  rw [hl]
  by_cases hno : absentUnder (pos s) k sd = true ∨ latchForced s sd = true ∨ stateOf s sd = .lockout
  · rw [if_pos hno, if_neg]
    rintro ⟨h1, h2⟩
    rcases hno with h | h
    · rw [h] at h1; cases h1
    · rw [hlocked h] at h2; cases h2
  · obtain ⟨hin, hfs⟩ := not_or.1 hno
    obtain ⟨hf, hs⟩ := not_or.1 hfs
    obtain ⟨h1, -, h3⟩ := hk.moved (Bool.eq_false_iff.2 hf) hs
    rw [if_neg hno, if_pos ⟨Bool.eq_false_iff.2 hin, h1⟩]
    unfold configureRecords
    rw [h3, hc]

/-! ### The end of the command -/

theorem startRecords_closes {w : Option RecordWrite} (l : List StoreRecord) (h : s.ctl.op = .recording w) :
    (startRecords l s).ctl.result = s.ctl.result ∧ (startRecords l s).ctl.op.isLoading = false := by
  induction l generalizing s with
  | nil =>
    simp only [startRecords, recordsDone, h, setOp, onCtl, true_and]
    split <;> rfl
  | cons r l ih =>
    unfold startRecords; split
    · refine ⟨rfl, ?_⟩
      show (withRecord ⟨r, recordWrite s r⟩ s.ctl.op).isLoading = false
      rw [h]; rfl
    · obtain ⟨h1, h2⟩ := ih (s := popAck (onCtl (fun c => { faultRecord r c with queue := l }) s))
        ((faultRecord_op r s.ctl).trans h)
      refine ⟨h1.trans ?_, h2⟩
      show (faultRecord r s.ctl).result = s.ctl.result
      cases r <;> rfl

theorem settle_closes (h : s.ctl.op = .idle) : (settle s).ctl.result = s.ctl.result ∧ (settle s).ctl.op.isLoading = false := by
  show (startIfWaiting s).ctl.result = _ ∧ (startIfWaiting s).ctl.op.isLoading = _
  unfold startIfWaiting; split
  · rw [h]; exact ⟨rfl, rfl⟩
  · rw [h]; exact startRecords_closes s.ctl.queue (s := setOp (.recording none) s) rfl

/-- An idle controller whose next access the store acknowledges keeps its notes and log position. -/
theorem settle_idle_ctl (h : s.ctl.op = .idle) (ha : ackOf s = true) : (settle s).ctl.lastFault = s.ctl.lastFault ∧
    (settle s).ctl.notes = s.ctl.notes ∧ (settle s).ctl.nextSlot = s.ctl.nextSlot ∧
    (settle s).ctl.nextNumber = s.ctl.nextNumber := by
  cases hq : s.ctl.queue with
  | nil => rw [settle_empty s hq]; exact ⟨rfl, rfl, rfl, rfl⟩
  | cons r q => rw [settle_writes h hq ha]; exact ⟨rfl, rfl, rfl, rfl⟩

theorem runEndQueued_of (hop : t.ctl.op = .idle) (hq : t.ctl.queue = (l.foldl (fun c r => joinRecord r c) s.ctl).queue)
    (hl : t.ctl.lost = (l.foldl (fun c r => joinRecord r c) s.ctl).lost) : RunEndQueued (ackOf t) l s (settle t) := by
  refine ⟨⟨t, rfl, hop, hq, hl⟩, fun he => ?_, fun r q he ha => ?_⟩
  · have hempty : t.ctl.queue = [] := hq.trans he
    rw [settle_empty t hempty]
    exact ⟨hop, hempty, hl⟩
  · obtain ⟨-, hpos, htime, -, -, -, htab, -⟩ := settle_fields t
    obtain ⟨-, hnotes, hslot, hnumber⟩ := settle_idle_ctl hop ha
    rw [recordWrite_congr r hslot hnumber hnotes htime htab hpos, settle_writes hop (hq.trans he) ha]
    exact ⟨rfl, rfl, hl⟩

/-- The end of a run but for its response (R186 steps 4 and 5). -/
def runClosed (read : Bool) (result : LoaderResult) (s : State) : State :=
  onPdu (fun u => { u with startCut := false })
    (onCtl (fun c => { c with op := .idle, result := result, lastFault := decide (result = .absent) })
      (takeLogPosition read s))

/-- The end of a run with its response (R187). -/
def runAnswered (origin : LoaderOrigin) (result : LoaderResult) (s : State) : State :=
  match origin with
  | .powerUp => s
  | .routeReset => s
  | .reload who => respond 14 who.dest who.tag
      ([if result = .absent then 10 else 0, loaderOctet result] ++ loadCheckOctets s.tab.loadCheck) s

theorem endRun_eq (origin : LoaderOrigin) (result : LoaderResult) (read : Bool) (s : State) :
    endRun origin result (takeLogPosition read s) = runAnswered origin result (runClosed read result s) := by
  cases origin with
  | powerUp => rfl
  | routeReset => rfl
  | reload who =>
    unfold runAnswered
    dsimp only
    rw [← show (reloadStatus result).code = if result = .absent then 10 else 0 from by
      unfold reloadStatus; split <;> rfl]
    rfl

theorem runAnswered_keeps (origin : LoaderOrigin) (result : LoaderResult) (s : State) :
    still (runAnswered origin result s) = still s ∧ (runAnswered origin result s).side = s.side ∧
      (runAnswered origin result s).ctl = s.ctl ∧ (runAnswered origin result s).choices = s.choices := by
  cases origin with
  | powerUp => exact ⟨rfl, rfl, rfl, rfl⟩
  | routeReset => exact ⟨rfl, rfl, rfl, rfl⟩
  | reload who => exact ⟨respond_still .., respond_side .., respond_ctl .., routeResponse_choices ..⟩

/-- What the command's end leaves of the state after step 3. -/
structure RunEnded (origin : LoaderOrigin) (result : LoaderResult) (read : Bool) (x t : State) : Prop where
  keeps : RunKeeps x t
  side : t.side = x.side
  ports : t.ports = x.ports
  hold : t.hold = x.hold
  tab : t.tab = x.tab
  verdict : t.ctl.result = result
  closed : t.ctl.op.isLoading = false
  startCut : t.pdu.startCut = false
  answer : ∀ who, origin = .reload who → ∃ u, t = settle (respond 14 who.dest who.tag
    ([if result = .absent then 10 else 0, loaderOctet result] ++ loadCheckOctets t.tab.loadCheck) u) ∧ u.msg = x.msg
  ctl : ackOf x = true → t.ctl.lastFault = decide (result = .absent) ∧ t.ctl.notes = x.ctl.notes ∧
    (t.ctl.nextSlot, t.ctl.nextNumber) = if read then logPosition x.store x.free else (0, 1)
  queued : ∀ l s, QueuedAs l s x → RunEndQueued (ackOf x) l s t

theorem endRun_ended (origin : LoaderOrigin) (result : LoaderResult) (read : Bool) (x : State) :
    RunEnded origin result read x (settle (endRun origin result (takeLogPosition read x))) := by
  rw [endRun_eq]
  obtain ⟨hst, hside, hctl, hch⟩ := runAnswered_keeps origin result (runClosed read result x)
  obtain ⟨-, kpos, ktime, klines, kports, -, ktab, -, khold, -, kstore, -, kpend, klatch, kcut⟩ :=
    settle_fields (runAnswered origin result (runClosed read result x))
  have hop : (runAnswered origin result (runClosed read result x)).ctl.op = .idle := by rw [hctl]; rfl
  have hack : ackOf (runAnswered origin result (runClosed read result x)) = ackOf x := by unfold ackOf; rw [hch]; rfl
  have htab := ktab.trans (congrArg Still.tab hst)
  obtain ⟨hresult, hclosed⟩ := settle_closes hop
  refine ⟨⟨kpos.trans (congrArg Still.position hst), ktime.trans (congrArg Still.time hst),
    klines.trans (congrArg Still.lines hst), kstore.trans (congrArg Still.store hst),
    kpend.trans (congrArg Still.pending hst), klatch.trans (congrArg Still.latch hst)⟩, (settle_side _).trans hside,
    kports.trans (congrArg Still.ports hst), khold.trans (congrArg Still.hold hst), htab, hresult.trans (by rw [hctl]; rfl),
    hclosed, kcut.trans (congrArg Still.startCut hst), fun who ho => ⟨runClosed read result x, ?_, rfl⟩, fun ha => ?_,
    fun l s hq => ?_⟩
  · rw [htab, ho]; rfl
  · obtain ⟨h1, h2, h3, h4⟩ := settle_idle_ctl hop (hack.trans ha)
    rw [h1, h2, h3, h4, hctl]
    exact ⟨rfl, rfl, rfl⟩
  · rw [← hack]
    refine runEndQueued_of hop ?_ ?_ <;> rw [hctl]
    · exact hq.queue
    · exact hq.lost

theorem logPosition_of_one {m : Memory} {k free : Nat} (h : highestNumber m ≠ 0) (hk : highestSlots m = [k]) :
    logPosition m free = ((k + 1) % 64, if highestNumber m = 4294967295 then 1 else BitVec.ofNat 32 (highestNumber m + 1)) := by
  unfold logPosition
  rw [if_neg h, hk]; rfl

theorem logPosition_of_none {m : Memory} {free : Nat} (h : highestNumber m = 0) : logPosition m free = (0, 1) := if_pos h

end

end Sys2Proof.Machine
end

section
/-! O54: the end of a loader run (R182 to R187, R190). -/

namespace Sys2Proof.Machine

/-- A side at the end of a loader run: `passes` says whether an image has passed its checks, `left` whether its route
length leaves the side out. -/
structure SideEnded (s x : State) (stored : LockRecord) (passes : Prop) (left : Bool) (sd : Side) : Prop where
  lockout : stateOf s sd = .lockout → (passes → left = false) →
    stateOf x sd = .lockout ∧ (x.side.get sd).reason = (s.side.get sd).reason ∧ (x.side.get sd).lock = stored
  forced : latchForced s sd = true → (passes → left = false) →
    stateOf x sd = .lockout ∧ (x.side.get sd).reason = .cut ∧ (x.side.get sd).lock = (s.side.get sd).lock.entered .cut
  waits : ¬ passes → stateOf s sd ≠ .lockout → latchForced s sd = false → stateOf x sd = .unconfigured ∧
    (stateOf s sd = .unconfigured → (x.side.get sd).reason = (s.side.get sd).reason) ∧ (x.side.get sd).lock = stored
  joins : passes → left = false → stateOf s sd ≠ .lockout → latchForced s sd = false → Configured sd stored s x
  gone : passes → left = true → stateOf x sd = .absent

/-- The part after step 3. -/
structure AfterTables (read : Bool) (s x : State) (stored : Side → LockRecord) (passes : Prop) (length : Nat)
    (l : List StoreRecord) : Prop where
  keeps : RunKeeps s x
  side : ∀ sd, SideEnded s x (stored sd) passes (absentUnder (pos s) length sd) sd
  port : ∀ sd, isAbsent s sd = true → x.ports.get sd = PortRecord.reset ∧ x.hold.sets.get sd = 0
  msg : ¬ passes → (∀ sd, latchForced s sd = false) → x.msg = s.msg
  queued : QueuedAs l s x
  notes : x.ctl.notes = if read then ⟨copyNote s.store .west, copyNote s.store .east⟩ else ⟨none, none⟩

/-- The loader's image has passed its checks. -/
def ImagePasses (v : LoaderResult) (s : State) : Prop :=
  v = .loaded ∧ runChecks (pos s) (storedTables s.store) = none

/-- The route length that a run's validation works with. -/
def lengthAfter (v : LoaderResult) (s : State) : Option Nat :=
  if v = .loaded ∧ runChecks (pos s) (storedTables s.store) = none then some (hdrLength (storedTables s.store)) else none

section
variable {s t u x : State} {sd y : Side} {l m : List StoreRecord} {stored : Side → LockRecord} {origin : LoaderOrigin}
  {read : Bool} {v : LoaderResult} {ch : Choices} {passes : Prop} {k : Nat}

theorem RunKeeps.trans (h : RunKeeps s x) (k : RunKeeps x t) : RunKeeps s t :=
  ⟨k.position.trans h.position, k.time.trans h.time, k.lines.trans h.lines, k.store.trans h.store,
    k.pending.trans h.pending, k.latch.trans h.latch⟩

/-- A side that no validation moves. -/
theorem SideStored.ended {b : LockRecord} (h : SideStored s x b sd) (hp : ¬ passes) (left : Bool) :
    SideEnded s x b passes left sd :=
  ⟨fun hs _ => h.lockout hs, fun hl _ => h.forced hl, fun _ hs hl => h.moved hl hs, fun e => absurd e hp,
    fun e => absurd e hp⟩

theorem foldl_joinRecord_notes (l : List StoreRecord) (c : StoreCtl) :
    (l.foldl (fun c r => joinRecord r c) c).notes = c.notes := by
  have hjoin (r : StoreRecord) (c : StoreCtl) : (joinRecord r c).notes = c.notes := by
    have hend : (joinEnd r c).notes = c.notes := by unfold joinEnd; split <;> rfl
    unfold joinRecord; split
    · exact hend
    · split
      · rfl
      · exact hend
  induction l generalizing c with
  | nil => rfl
  | cons r l ih => rw [List.foldl_cons, ih, hjoin]

/-! ### The three ways of step 3 -/

theorem AfterLocks.empties (h : AfterLocks read s x stored l) (hp : ¬ passes) :
    AfterTables read s (emptyTables x) stored passes k l :=
  ⟨h.keeps.trans ⟨rfl, rfl, rfl, rfl, rfl, rfl⟩, fun sd => (h.side sd).emptied.ended hp _, h.port, fun _ => h.msg,
    h.queued.other rfl rfl rfl rfl, h.notes⟩

theorem AfterLocks.fails (h : AfterLocks read s x stored l) (hp : ¬ passes) (f : CheckFailure) :
    AfterTables read s (imageFailed f x) stored passes k l :=
  ⟨h.keeps.trans ⟨rfl, rfl, rfl, rfl, rfl, rfl⟩, fun sd => ((h.side sd).imaged.congr (t := imageFailed f x) rfl rfl rfl).ended hp _, h.port,
    fun _ => h.msg, h.queued.other rfl rfl rfl rfl, h.notes⟩

/-- The image of a part that is locked or unconfigured. -/
theorem AfterLocks.validation (h : AfterLocks read s x stored l) (hv : s.tab.validated = false) :
    GroundedValidation (imaged x) (validate (imaged x)) := by
  refine validate_grounded (fun sd => ?_) (fun sd => ?_) ?_
  · rw [imaged_stateOf]; exact h.grounded sd
  · rw [imaged_stateOf]; exact h.rest sd
  · show x.tab.validated = false
    rw [h.tab]; exact hv

theorem AfterLocks.leftOut_imaged (h : AfterLocks read s x stored l) (sd : Side) :
    leftOut (imaged x) sd = absentUnder (pos s) (hdrLength (storedTables s.store)) sd := by
  show absentUnder (pos x) (hdrLength (storedTables x.store)) sd = _
  unfold pos; rw [h.keeps.position, h.keeps.store]

theorem AfterLocks.validates (h : AfterLocks read s x stored l) (hv : s.tab.validated = false) (hb : Busy s) (hp : passes) :
    AfterTables read s (validate (imaged x)) stored passes (hdrLength (storedTables s.store))
      (l ++ (fromSide (firstSide s.choices) (leftOutRecords stored s (hdrLength (storedTables s.store))) ++
        fromSide (firstSide s.choices) (joinedRecords stored s (hdrLength (storedTables s.store))))) := by
  have hval := h.validation hv
  have hleft := h.leftOut_imaged
  have hgrounded : Grounded (imaged x) := fun sd => by rw [imaged_stateOf]; exact h.grounded sd
  have hjudged : judgedRecords (imaged x) = leftOutRecords stored s (hdrLength (storedTables s.store)) :=
    funext fun sd => judgedRecords_grounded (h.side sd).imaged hgrounded (hleft sd)
  have hplaced : placedRecords (imaged x) = joinedRecords stored s (hdrLength (storedTables s.store)) :=
    funext fun sd => placedRecords_grounded (h.side sd).imaged h.keeps.latch (hleft sd)
  have htakes := hval.takes
  rw [hjudged, hplaced, show firstSide (imaged x).choices = firstSide s.choices from h.order] at htakes
  have hqueued : QueuedAs l s (imaged x) := h.queued.other rfl rfl rfl rfl
  have himaged : RunKeeps x (imaged x) := ⟨rfl, rfl, rfl, rfl, rfl, rfl⟩
  have hbx : Busy (imaged x) := by unfold Busy; rw [hqueued.op]; exact hb
  refine ⟨h.keeps.trans (himaged.trans hval.keeps), fun sd => ⟨fun hs hin => ?_, fun hf hin => ?_,
    fun hn => absurd hp hn, fun _ hin hs hf => ?_, fun _ hout => hval.gone sd ((hleft sd).trans hout)⟩, fun sd ha => ?_,
    fun hn => absurd hp hn, hqueued.takes hb htakes, ?_⟩
  · have hk := (h.side sd).imaged.lockout hs
    have hsame := hval.stays sd ((hleft sd).trans (hin hp)) hk.1
    unfold stateOf at hk ⊢
    rw [hsame]; exact hk
  · have hk := (h.side sd).imaged.forced hf
    have hsame := hval.stays sd ((hleft sd).trans (hin hp)) hk.1
    unfold stateOf at hk ⊢
    rw [hsame]; exact hk
  · obtain ⟨h1, -, h3⟩ := (h.side sd).imaged.moved hf hs
    have hconf := (hval.joins sd ((hleft sd).trans hin) h1).1
    rw [h3] at hconf
    exact hconf.of_latch h.keeps.latch
  · obtain ⟨h1, h2⟩ := h.port sd ha
    exact hval.port sd h1 h2
  · rw [(htakes hbx).1, foldl_joinRecord_notes]; exact h.notes

/-- Step 3, by the run's result and the checks. -/
theorem AfterLocks.tables (h : AfterLocks read s x stored l) (hv : s.tab.validated = false) (hb : Busy s)
    (v : LoaderResult) : AfterTables read s (takeTables v x) stored (ImagePasses v s) (hdrLength (storedTables s.store))
      (l ++ match lengthAfter v s with
        | none => []
        | some k => fromSide (firstSide s.choices) (leftOutRecords stored s k) ++
            fromSide (firstSide s.choices) (joinedRecords stored s k)) := by
  have hchecks : runChecks (pos x) (storedTables x.store) = runChecks (pos s) (storedTables s.store) := by
    unfold pos; rw [h.keeps.position, h.keeps.store]
  unfold takeTables lengthAfter
  by_cases hl : v = .loaded
  · rw [if_pos hl]
    cases hc : runChecks (pos s) (storedTables s.store) with
    | none =>
      rw [if_pos ⟨hl, rfl⟩, takeImage_passes (hchecks.trans hc)]
      exact h.validates hv hb ⟨hl, hc⟩
    | some f =>
      have hno : ¬ ImagePasses v s := fun e => by rw [e.2] at hc; cases hc
      rw [if_neg fun e => Option.some_ne_none f e.2, takeImage_fails (hchecks.trans hc), List.append_nil]
      exact h.fails hno f
  · rw [if_neg hl, if_neg fun e => hl e.1, List.append_nil]
    exact h.empties fun e => hl e.1

/-- The tables after step 3. -/
theorem AfterLocks.tables_tab (h : AfterLocks read s x stored l) (hv : s.tab.validated = false) :
    (v ≠ .loaded → (takeTables v x).tab = { tables := Tables.emptied, validated := false, loadCheck := none } ∧
      ∀ sd, ((takeTables v x).side.get sd).failures = []) ∧
    (v = .loaded → (takeTables v x).tab = { tables := storedTables s.store
                                            validated := (runChecks (pos s) (storedTables s.store)).isNone
                                            loadCheck := runChecks (pos s) (storedTables s.store) }) := by
  have hchecks : runChecks (pos x) (storedTables x.store) = runChecks (pos s) (storedTables s.store) := by
    unfold pos; rw [h.keeps.position, h.keeps.store]
  have htables : storedTables x.store = storedTables s.store := by rw [h.keeps.store]
  have hflag : x.tab.validated = false := by rw [h.tab]; exact hv
  unfold takeTables
  refine ⟨fun hl => ?_, fun hl => ?_⟩
  · rw [if_neg hl]
    exact ⟨rfl, fun sd => by rw [emptyTables_get]⟩
  · rw [if_pos hl]
    cases hc : runChecks (pos s) (storedTables s.store) with
    | none =>
      rw [takeImage_passes (hchecks.trans hc), (h.validation hv).tab, ← htables]; rfl
    | some f =>
      rw [takeImage_fails (hchecks.trans hc), ← htables]
      show TableMem.mk (storedTables x.store) x.tab.validated (some f) = _
      rw [hflag]; rfl

/-- The failure lists after step 3 of a run that has loaded its tables (R72). -/
theorem AfterLocks.tables_failures (h : AfterLocks read s x stored l) (hv : s.tab.validated = false) (hl : v = .loaded)
    (hin : ImagePasses v s → absentUnder (pos s) (hdrLength (storedTables s.store)) sd = false) :
    ((takeTables v x).side.get sd).failures =
      if stateOf s sd = .lockout ∧ (s.side.get sd).reason = .budget then (s.side.get sd).failures
      else (s.side.get sd).failures.drop
        ((s.side.get sd).failures.length - (hdrBudget (storedTables s.store) - 1)) := by
  have hchecks : runChecks (pos x) (storedTables x.store) = runChecks (pos s) (storedTables s.store) := by
    unfold pos; rw [h.keeps.position, h.keeps.store]
  have himaged : ((imaged x).side.get sd).failures =
      if stateOf s sd = .lockout ∧ (s.side.get sd).reason = .budget then (s.side.get sd).failures
      else (s.side.get sd).failures.drop
        ((s.side.get sd).failures.length - (hdrBudget (storedTables s.store) - 1)) := by
    rw [imaged_get, ← h.keeps.store]; exact (h.side sd).trimmed (h.failures sd) _
  rw [← himaged]
  unfold takeTables
  rw [if_pos hl]
  cases hc : runChecks (pos s) (storedTables s.store) with
  | some f => rw [takeImage_fails (hchecks.trans hc)]; rfl
  | none =>
    have hval := h.validation hv
    have hin' := (h.leftOut_imaged sd).trans (hin ⟨hl, hc⟩)
    rw [takeImage_passes (hchecks.trans hc)]
    have hstate := h.grounded sd
    rw [← imaged_stateOf] at hstate
    simp only [List.mem_cons, List.not_mem_nil, or_false] at hstate
    rcases hstate with hs | hs
    · rw [hval.stays sd hin' hs]
    · exact (hval.joins sd hin' hs).2

end

end Sys2Proof.Machine
end

section
/-! O54, settled: a loader run's last read completes, or a read before it cannot begin (R185 to R187). -/

namespace Sys2Proof.Machine

section
variable {s t u x : State} {sd : Side} {origin : LoaderOrigin} {read : Bool} {v : LoaderResult} {st : LoaderStep}
  {ch : Choices}

theorem loaderRead_faults (h : ackOf s = false) (hst : st ≠ .log) :
    loaderRead origin st v s = loaderEnd origin .absent false (popAck s) := by
  have hbegin (k : LoaderStep) (r : LoaderResult) : beginRead origin k r s = loaderEnd origin .absent false (popAck s) := by
    unfold beginRead; rw [if_neg (by rw [h]; exact Bool.false_ne_true)]; rfl
  cases st with
  | header => unfold loaderRead; dsimp only; split <;> exact hbegin ..
  | image => exact hbegin ..
  | lockArea => exact hbegin ..
  | log => exact absurd rfl hst

/-- The end of a run, from the state in which its last step finds it. -/
theorem loaderEnd_ends (hr : NoneActive s) (hv : s.tab.validated = false) (hb : Busy s) (origin : LoaderOrigin)
    (v : LoaderResult) (read : Bool) : ∃ y, AfterLocks read s y (storedAt origin read s)
      (fromSide (firstSide s.choices) (latchedRecords s) ++
        fromSide (firstSide s.choices) (releasedAt origin (copyOf read s) s)) ∧
      RunEnded origin v read (takeTables v y) (settle (loaderEnd origin v read s)) :=
  ⟨_, applyLocks_after hr hv hb origin read, endRun_ended origin v read _⟩

theorem storedAt_read (origin : LoaderOrigin) (s : State) : storedAt origin true s = fun sd =>
    if origin = .powerUp ∧ (s.side.get sd).lock.locked = false then
      match newestCopy s.store sd with
      | none => LockRecord.reset
      | some c => recordFromCopy c.2
    else (s.side.get sd).lock := by
  funext sd
  have hcopy : copyOf true s sd = newestCopy s.store sd := rfl
  unfold storedAt lockAfter storedLock
  rw [hcopy]
  by_cases ho : origin = .powerUp
  · cases hl : (s.side.get sd).lock.locked with
    | true => rw [if_pos ho, if_pos rfl, if_neg fun e => Bool.noConfusion e.2]
    | false => exact (if_pos ho).trans ((if_neg Bool.false_ne_true).trans (if_pos ⟨ho, rfl⟩).symm)
  · rw [if_neg ho, if_neg fun e => ho e.1]

theorem storedAt_unread (origin : LoaderOrigin) (s : State) (sd : Side) : storedAt origin false s sd =
    if origin = .powerUp ∧ (s.side.get sd).lock.locked = false then LockRecord.reset else (s.side.get sd).lock := by
  have hcopy : copyOf false s sd = none := rfl
  unfold storedAt lockAfter storedLock
  rw [hcopy]
  by_cases ho : origin = .powerUp
  · cases hl : (s.side.get sd).lock.locked with
    | true => rw [if_pos ho, if_pos rfl, if_neg fun e => Bool.noConfusion e.2]
    | false => rw [if_pos ho, if_neg Bool.false_ne_true, if_pos ⟨ho, rfl⟩]
  · rw [if_neg ho, if_neg fun e => ho e.1]

/-! ### A stored lock copy's reason (R182) -/

theorem causeCode_causeOf (o : Octet) : causeCode (causeOf o) = o := by
  have hcodes : causeList.map causeCode = (List.range 20).map (BitVec.ofNat 8) := by decide
  have hcode (k : Nat) : causeCode (causeList.getD k (.other (BitVec.ofNat 8 k))) = BitVec.ofNat 8 k := by
    have hget : (causeList.map causeCode)[k]? = ((List.range 20).map (BitVec.ofNat 8))[k]? := by rw [hcodes]
    rw [List.getElem?_map, List.getElem?_map] at hget
    rw [List.getD_eq_getElem?_getD]
    by_cases hk : k < 20
    · rw [List.getElem?_range hk] at hget
      cases hc : causeList[k]? with
      | none => rw [hc] at hget; cases hget
      | some c => rw [hc] at hget; exact Option.some.inj hget
    · rw [List.getElem?_eq_none (show causeList.length ≤ k from Nat.le_of_not_lt hk)]; rfl
  have ho := hcode o.toNat
  rw [BitVec.ofNat_toNat, BitVec.setWidth_eq] at ho
  exact ho

theorem causeOf_eq_iff {o : Octet} {c : Cause} (h : causeOf (causeCode c) = c) : causeOf o = c ↔ o = causeCode c :=
  ⟨fun e => by rw [← e, causeCode_causeOf], fun e => by rw [e]; exact h⟩

theorem recordFromCopy_eq (l : List Octet) : recordFromCopy l =
    { locked := octetAt l 2 != 0 && octetAt l 3 != 16
      reason := if octetAt l 2 = 0 ∨ octetAt l 3 ∈ [13, 14, 15, 16] then causeOf (octetAt l 3) else .manual
      count := word16At l 4, arming := none } := by
  have hcut : causeOf (octetAt l 3) = .cut ↔ octetAt l 3 = 16 := causeOf_eq_iff rfl
  have hmanual : causeOf (octetAt l 3) = .manual ↔ octetAt l 3 = 13 := causeOf_eq_iff rfl
  have hordered : causeOf (octetAt l 3) = .ordered ↔ octetAt l 3 = 14 := causeOf_eq_iff rfl
  have hbudget : causeOf (octetAt l 3) = .budget ↔ octetAt l 3 = 15 := causeOf_eq_iff rfl
  have hmem : octetAt l 3 ∈ [13, 14, 15, 16] ↔ causeOf (octetAt l 3) ∈ [.manual, .ordered, .budget, .cut] := by
    simp only [List.mem_cons, List.not_mem_nil, or_false, hcut, hmanual, hordered, hbudget]
  have hne : (octetAt l 3 != 16) = (causeOf (octetAt l 3) != .cut) := by
    rw [Bool.eq_iff_iff, bne_iff_ne, bne_iff_ne, ne_eq, ne_eq, hcut]
  unfold recordFromCopy
  rw [hne]
  simp only [hmem]
  generalize causeOf (octetAt l 3) = c
  by_cases h0 : octetAt l 2 = 0
  · simp [h0]
  · rw [if_neg h0, bne_iff_ne.2 h0, Bool.true_and]
    simp only [or_iff_right h0]
    cases c <;> rfl

/-! ### The two ways in which a run ends -/

/-- The response of a STORE-RELOAD (R187), with the notices that stand before it. -/
theorem RunEnded.answered (h : RunEnded origin v read x t) {passes : Prop} {m : MsgEngine}
    (hm : ¬ passes → (∀ sd, latchForced s sd = false) → x.msg = m) :
    ∀ who, origin = .reload who → ∃ u, t = settle (respond 14 who.dest who.tag
        ([if v = .absent then 10 else 0, loaderOctet v] ++ loadCheckOctets t.tab.loadCheck) u) ∧
      (¬ passes → (∀ sd, latchForced s sd = false) → u.msg = m) := fun who hw => by
  obtain ⟨u, hu, hmsg⟩ := h.answer who hw
  exact ⟨u, hu, fun hp hl => hmsg.trans (hm hp hl)⟩

theorem not_forced (h : ∀ sd, ¬ (s.pdu.latch = true ∧ stateOf s sd ∉ [.lockout, .unconfigured])) (sd : Side) :
    latchForced s sd = false := Bool.eq_false_iff.2 fun e => h sd ((latchForced_iff s sd).1 e)

/-- A side at the end of a run. -/
theorem SideEnded.atEnd {b : LockRecord} {passes : Prop} {left : Bool} (h : SideEnded s x b passes left sd)
    (he : RunEnded origin v read x t) : SideEnded s t b passes left sd := by
  have hst : stateOf t sd = stateOf x sd := by unfold stateOf; rw [he.side]
  have hrest : tripRest t = tripRest x := by unfold tripRest; rw [he.tab]
  obtain ⟨h1, h2, h3, h4, h5⟩ := h
  unfold Configured at h4
  rw [← hst, ← he.side] at h1 h2 h3 h4
  rw [← hst] at h5
  rw [← he.hold, ← hrest] at h4
  exact ⟨h1, h2, h3, h4, h5⟩

/-- Settles O54: the five steps of a run's end, with the queue and the sides as each step leaves them. -/
theorem loaderRunEndHandsOnResults : Obligations.LoaderRunEndHandsOnResults := by
  intro origin v ch s hp htables hflag image passes working stored forced newLength answered
  have hstart {st : LoaderStep} (hop : s.ctl.op = .loading origin st v) : s.tab.validated = false ∧ NoneActive s ∧ Busy s := by
    have hv : s.tab.validated = false := htables.2 (by rw [hop]; rfl)
    exact ⟨hv, hflag hv, by rw [hop]; exact StoreOp.noConfusion, by rw [hop]; exact StoreOp.noConfusion⟩
  refine ⟨recordFromCopy_eq, fun st hop hst hack => ?_, fun hop => ?_⟩
  · obtain ⟨hv, hr, hb⟩ := hstart hop
    obtain ⟨y, hlocks, hend⟩ := loaderEnd_ends (s := popAck (withChoices ch s)) hr hv hb origin .absent false
    have hafter := hlocks.tables hv hb .absent
    have hno : ¬ ImagePasses .absent (popAck (withChoices ch s)) := fun e => nomatch e.1
    have hlength : lengthAfter .absent (popAck (withChoices ch s)) = none := if_neg fun e => nomatch e.1
    have hacks : ackOf (takeTables .absent y) = ch.acks.tail.headD true := by
      unfold ackOf; rw [hafter.queued.choices]; rfl
    have hside (sd : Side) := (hafter.side sd).atEnd hend
    rw [hlength] at hafter
    dsimp only at hafter
    rw [List.append_nil] at hafter
    obtain ⟨htab, hfail⟩ := (hlocks.tables_tab hv (v := .absent)).1 (by decide)
    refine ⟨_, (exec_loaderRead hp hop ch).trans (by rw [loaderRead_faults (s := withChoices ch s) hack hst]), hend.verdict, hend.closed,
      hend.startCut, ?_, hend.tab.trans htab, ?_, fun sd => by rw [hend.side]; exact hfail sd, fun sd hf => ?_,
      fun sd ha => ?_, fun sd hf => ?_, fun ha => ?_, (hafter.keeps.trans hend.keeps).store,
      (hafter.keeps.trans hend.keeps).position, (hafter.keeps.trans hend.keeps).time, (hafter.keeps.trans hend.keeps).lines,
      (hafter.keeps.trans hend.keeps).latch, (hafter.keeps.trans hend.keeps).pending⟩
    · rw [runEndRecords_eq, ← hacks]
      dsimp only
      rw [List.append_nil]
      exact hend.queued _ (popAck (withChoices ch s)) hafter.queued
    · intro who hw
      obtain ⟨u, hu, hmsg⟩ := hend.answered hafter.msg who hw
      exact ⟨u, hu, fun _ hl => hmsg hno (not_forced (s := s) hl)⟩
    · obtain ⟨h1, h2, -⟩ := (hside sd).forced ((latchForced_iff s sd).2 hf) fun e => absurd e hno
      exact ⟨h1, h2⟩
    · rw [hend.ports, hend.hold]; exact hafter.port sd ha
    · have hl : latchForced s sd = false := Bool.eq_false_iff.2 fun e => hf ((latchForced_iff s sd).1 e)
      have hlock := storedAt_unread origin (popAck (withChoices ch s)) sd
      by_cases hs : stateOf s sd = .lockout
      · obtain ⟨h1, -, h3⟩ := (hside sd).lockout hs fun e => absurd e hno
        rw [if_pos hs]; exact ⟨h1, h3.trans hlock⟩
      · obtain ⟨h1, -, h3⟩ := (hside sd).waits hno hs hl
        rw [if_neg hs]; exact ⟨h1, h3.trans hlock⟩
    · obtain ⟨h1, h2, h3⟩ := hend.ctl (hacks.trans (by rw [ha]; rfl))
      obtain ⟨hslot, hnumber⟩ := Prod.mk.inj h3
      exact ⟨h1, h2.trans hafter.notes, hslot, hnumber⟩
  · obtain ⟨hv, hr, hb⟩ := hstart hop
    obtain ⟨y, hlocks, hend⟩ := loaderEnd_ends (s := withChoices ch s) hr hv hb origin v true
    have hstored : storedAt origin true (withChoices ch s) = stored := storedAt_read ..
    rw [hstored] at hlocks
    have hafter := hlocks.tables hv hb v
    have hacks : ackOf (takeTables v y) = ch.acks.headD true := by
      unfold ackOf; rw [hafter.queued.choices]; rfl
    have hside (sd : Side) := (hafter.side sd).atEnd hend
    have hkeeps := hafter.keeps.trans hend.keeps
    have hnot {sd : Side} (hf : ¬ forced sd) : latchForced s sd = false :=
      Bool.eq_false_iff.2 fun e => hf ((latchForced_iff s sd).1 e)
    have hexec : exec (.loaderReadComplete ch) s = .next (settle (loaderEnd origin v true (withChoices ch s))) :=
      exec_loaderRead hp hop ch
    refine ⟨_, hexec, ?_, hend.verdict, hend.closed, hend.startCut, ?_, fun sd hs hin =>
      (hside sd).lockout hs hin, fun sd hf hin => (hside sd).forced ((latchForced_iff s sd).2 hf) hin, fun sd ha => ?_,
      fun sd hn hs hf => (hside sd).waits hn hs (hnot hf), fun sd hps hin hs hf => (hside sd).joins hps hin hs (hnot hf),
      fun sd hps hout => (hside sd).gone hps hout, fun hl => ?_, fun hl => ?_, fun hl sd hin => ?_, fun ha => ?_,
      hkeeps.store, hkeeps.position, hkeeps.time, hkeeps.lines, hkeeps.latch, hkeeps.pending⟩
    · intro who hw
      obtain ⟨u, hu, hmsg⟩ := hend.answered hafter.msg who hw
      exact ⟨u, hu, fun hn hl => hmsg (fun e => hn e.1 e) (not_forced (s := s) hl)⟩
    · rw [runEndRecords_eq, ← hacks]
      exact hend.queued _ (withChoices ch s) hafter.queued
    · rw [hend.ports, hend.hold]; exact hafter.port sd ha
    · obtain ⟨htab, hfail⟩ := (hlocks.tables_tab hv (v := v)).1 hl
      exact ⟨hend.tab.trans htab, fun sd => by rw [hend.side]; exact hfail sd⟩
    · exact hend.tab.trans ((hlocks.tables_tab hv (v := v)).2 hl)
    · rw [hend.side]; exact hlocks.tables_failures hv hl hin
    · obtain ⟨h1, h2, h3⟩ := hend.ctl (hacks.trans (by rw [ha]; rfl))
      have hstore : (takeTables v y).store = s.store := hafter.keeps.store
      rw [if_pos rfl, hstore] at h3
      refine ⟨h1, h2.trans hafter.notes, fun hz => ?_, fun k hn hk => ?_⟩
      · rw [logPosition_of_none hz] at h3; exact Prod.mk.inj h3
      · rw [logPosition_of_one hn hk] at h3; exact Prod.mk.inj h3

end

end Sys2Proof.Machine
end
